-- ==== Sys2Proof/Word.lean ====
section
/-!
DEFINITION. The word types of the model: bytes and 64-bit registers (R6, R7).
-/
namespace Sys2Proof

/-- One byte of memory, of a descriptor, of a packet or of a frame. -/
abbrev Byte := BitVec 8

/-- A register (R7): 64 bits. -/
abbrev W64 := BitVec 64

/-- An instruction word of the vector engine (R152): 128 bits. -/
abbrev W128 := BitVec 128

/-- A map from natural-number keys to values, as a list in one canonical form:
keys strictly rising, and no key whose value is the one an unlisted key has. -/
abbrev Sparse (α : Type) := List (Nat × α)

end Sys2Proof
end

