-- ==== Sys2Proof/Syntax.lean ====
section
/-!
DEFINITION. The commands of the block: one constructor of `Instr` per row of spec/opcode_table.json, and the types of their
operands. Every time-driven command carries `t`, the FT at which it takes place (or, before FT counts, the AON time); log 3.
-/
namespace Sys2Proof

/-- The outcome of a die's self-test (R431, causes of the table after R434), with the failing unit id. -/
inductive SelfTest where
  | pass
  | sram (unit : Nat)
  | logic (unit : Nat)
  | frazar
  deriving DecidableEq, Repr

/-- A bridge direction as one die sees it: the direction leaving die `die` at endpoint slot `slot`. -/
structure Dir where
  die : Nat
  slot : Nat
  deriving DecidableEq, Repr

/-- A lane of a lane group: lanes 0 to 63 carry data, lanes 64 to 67 are the spares 0 to 3 (R20). -/
structure Lane where
  dir : Dir
  group : Nat
  lane : Nat
  deriving DecidableEq, Repr

/-- A runner queue instance (R399). -/
inductive QueueId where
  /-- tile data queue of the matrix engine with this global index -/
  | tileData (engine : Nat)
  /-- tile header queue -/
  | tileHeader (engine : Nat)
  /-- bridge retry buffer of a lane group leaving a die at an endpoint slot -/
  | bridgeRetry (die slot group : Nat)
  /-- port replay buffer -/
  | portReplay (port : Nat)
  /-- fault queue of a die -/
  | faultQueue (die : Nat)
  /-- write path of the management data port -/
  | dataPort
  deriving DecidableEq, Repr

/-- A fault that reaches a fault collector (R454 without FT and SEQ, which the collector gives). -/
structure FaultIn where
  code : Nat
  unit : Nat
  ctx : Nat
  severity : Nat
  address : Nat
  detail : Nat
  deriving DecidableEq, Repr

/-- The header of a command (R364) as its ring carries it: ring 0 to 15 of a context, 16 the control ring, 17 the I3C
interface, which is served as the control ring (R358). -/
structure Cmd where
  ring : Nat
  seq : Nat
  ctx : Nat
  ordered : Bool
  deriving DecidableEq, Repr

/-- A TIME frame (R293, R306) as its receiver sees it: FT at transmission, master id, stratum, sequence number, turnaround, whether its CRC
passed, and the frame's ACK, CVC and CUNITS. -/
structure Beacon where
  ftTx : Nat
  master : Nat
  stratum : Nat
  seq : Nat
  turnaround : Nat
  crcOk : Bool
  ack : Nat
  cvc : Nat
  cunits : Nat
  deriving DecidableEq, Repr

/-- A setting of STAGE (R67). -/
structure StageItem where
  unit : Nat
  param : Nat
  value : Nat
  deriving DecidableEq, Repr

/-- An entry of SEQ_ADMIT (R383). -/
structure Admit where
  slot : Nat
  prompt : Nat
  maxTokens : Nat
  pageList : Nat
  deriving DecidableEq, Repr

/-- The parameters of CTX_CREATE (R367): ring addresses, table area and its bytes, n and m, home die, RECOVER. -/
structure Create where
  ringVa : Nat
  cplVa : Nat
  table : Nat
  tableBytes : Nat
  n : Nat
  m : Nat
  home : Nat
  recover : Bool
  deriving DecidableEq, Repr

/-- What a core has done with its copy of a line when an INV or a forward reaches it (R332, R335): nothing to tell, a store to a line that it
owns, which leaves these 64 bytes, or a silent drop of a clean one. -/
inductive CoreDid where
  | nothing
  | stored (line : List Byte)
  | dropped
  deriving DecidableEq, Repr

/-- What a core asks of uncached memory (R327): a load, a store of a value, or an AMO, LR or SC. -/
inductive CoreAccess where
  | load
  | store (v : Nat)
  | atomic
  deriving DecidableEq, Repr

/-- How far an update unit goes in one command (log 78): whole parts first (phases of a sweep, parts of a repair), then single writes of
the next. -/
structure Stretch where
  parts : Nat
  lines : Nat
  deriving DecidableEq, Repr

/-- An INV at a core: its line, and what the core has done with its copy. -/
structure InvAt where
  line : Nat
  did : CoreDid
  deriving DecidableEq, Repr

/-- The room an EXPORT_SHARD names for its record, and whether its reads take place later than its acceptance (log 78). -/
structure ExportRoom where
  limit : Nat
  late : Bool
  deriving DecidableEq, Repr

/-- The commands. -/
inductive Instr where
  /-- POWER_ON (R428): Power-on starts a package reset that clears every register and loses tier 0 and tier 1. -/
  | powerOn (t railsAt refclkAt : Nat)
  /-- PKG_RESET_N_ASSERT (R428): Assertion of PKG_RESET_N for at least 1,000 ns holds the package in reset; boot
  begins once every release condition holds. -/
  | pkgResetNAssert (t width : Nat)
  /-- REFCLK_LOSS (R407): REFCLK stopping for more than 1,000 ns, or a PLL losing lock, causes a package reset
  held until REFCLK has been present for 10,000,000 ns, and PWR_TRIP records cause 2. -/
  | refclkLoss (t stopped : Nat) (pllLost : Bool)
  /-- INPUT_OUT_OF_RANGE (R401): Input outside 32.0 V to 40.0 V for more than 10,000 ns shuts the converters down
  as at a loss of power. -/
  | inputOutOfRange (t millivolts lasting : Nat)
  /-- ROM_START (R430): Boot stage 0x01 runs the boot ROM, checks its CRC and runs the security engine's known-
  answer tests. -/
  | romStart (t : Nat) (romOk katOk : Bool)
  /-- D0_SELF_TEST (R431): Boot stage 0x02 self-tests D0, including its Frazar loop-back, and zeroes its stores.
  -/
  | d0SelfTest (t : Nat) (res : SelfTest)
  /-- FETCH (R435): Boot stage 0x03 reads and checks the board configuration block, then reads the image from
  flash into D0 banks 12 to 15. -/
  | fetch (t : Nat) (flashOk : Bool)
  /-- VERIFICATION (R437): Boot stage 0x04 checks the manifest, key slots, both signatures, the SVN and every
  section hash. -/
  | verification (t : Nat)
  /-- RELEASE_D1_D7 (R17): Boot stage 0x05 releases D1 to D7 one at a time in index order. -/
  | releaseD1D7 (t : Nat)
  /-- DIE_RELEASE (R17): At the next 1,000,000 ns interval, D0 releases the next die from reset and that die
  starts its self-test. -/
  | dieRelease (t : Nat)
  /-- DIE_SELFTEST_DONE (R431): A die's self-test ends, DFT_SELFTEST reports the outcome, and the die receives its
  firmware. -/
  | dieSelftestDone (t die : Nat) (res : SelfTest)
  /-- BRIDGES (R22): Boot stage 0x06 trains every bridge lane, replaces failing lanes with spares and retires
  groups that lack spares. -/
  | bridges (t : Nat) (failing : List Lane)
  /-- STACKS (R432): Boot stage 0x07 trains and pattern-tests every stack line, zeroes it, and loads STK_ILV and
  STK_FINE. -/
  | stacks (t : Nat) (badLine : Option Nat)
  /-- PORTS_AND_FT (R433): Boot stage 0x08 loads the port, JOINED and FT_CTRL settings, trains every enabled port
  once and waits for FT lock. -/
  | portsAndFt (t : Nat)
  /-- HOST_RELEASE (R430): Boot stage 0x09 copies the loader, zeroes D0 banks 12 to 15, measures M3 and releases
  the cores, and BOOT_DONE rises. -/
  | hostRelease (t : Nat)
  /-- BOOT_STAGE_TIMEOUT (R430): A boot stage that exceeds its limit enters BOOT_HOLD with the stage and a cause.
  -/
  | bootStageTimeout (t : Nat)
  /-- HCX_RESET_N_ASSERT (R429): Assertion of HCX_RESET_N starts a host-complex reset, which fences every context,
  treats the caches as R343 states and runs stage 0x0A. -/
  | hcxResetNAssert (t width : Nat)
  /-- SEC_HCX_RESET (R429): A write of 1 to SEC_HCX_RESET requests a host-complex reset. -/
  | secHcxReset (t value : Nat)
  /-- HOST_COMPLEX_RESTART (R443): Stage 0x0A reads and checks the loader again, copies it to LOADER_ADDR, re-
  measures M3, clears M4 to M7 and releases the cores. -/
  | hostComplexRestart (t : Nat) (flashOk : Bool)
  /-- SENSOR_SAMPLE (R423): Every 10,000 ns each temperature sensor is sampled, setting the thermal backstop or
  starting a trip. -/
  | sensorSample (t die sensor temp : Nat)
  /-- TRIP_HOLDOFF_END (R425): 1,000,000,000 ns after a trip, the package may again leave reset. -/
  | tripHoldoffEnd (t : Nat)
  /-- BUDGET_REPORT (R408): At the end of each 100,000 ns interval, each die computes P_d and sends it to D0 in a
  budget message. -/
  | budgetReport (t die : Nat)
  /-- BUDGET_MESSAGE_RX (R408): D0 receives a die's budget report and records it in PWR_POWER. -/
  | budgetMessageRx (t die : Nat)
  /-- BUDGET_COMPUTE (R409): At 40,000 ns into the interval, D0 computes the next budgets from the reports and
  PWR_PKG_CAP, replacing any missing report with that die's previous one. -/
  | budgetCompute (t : Nat)
  /-- BUDGET_TAKE_EFFECT (R412): At 50,000 ns into the interval, new budgets take effect on every die and each
  backstop level rises, falls or stays. -/
  | budgetTakeEffect (t missing : Nat)
  /-- BACKSTOP_SLOT (R412): At each 1,024 ns FT multiple, ARITH has no edges for the first L × 64 ns when the
  backstop level L is above 0. -/
  | backstopSlot (t die : Nat)
  /-- PWR_PKG_CAP_WRITE (R411): A write to PWR_PKG_CAP within range sets the cap for the next budget computation;
  an out-of-range value is ignored. -/
  | pwrPkgCapWrite (t value : Nat)
  /-- IDLE_ENTRY (R420): A die that has been eligible for 10,240 ns enters the deepest idle state whose exit
  latency fits PWR_LTV. -/
  | idleEntry (t die : Nat)
  /-- IDLE_EXIT_DONE (R421): A compute die ends its exit from an idle state, and pours on it can launch again. -/
  | idleExitDone (t die : Nat)
  /-- STACK_WAKE (R422): An access to a stack in self-refresh waits until the stack has woken, and counts in
  PWR_SR_WAKES. -/
  | stackWake (t stack : Nat)
  /-- SELF_REFRESH_ENTRY (R422): On a DAMPED die, a stack re-enters self-refresh 1,000,000 ns after its last
  access, after writing out its write-combining entries. -/
  | selfRefreshEntry (t stack : Nat)
  /-- SET_LTV (R420): The SET_LTV command writes PWR_LTV on the dies in its mask and replies with the deepest idle
  state permitted. -/
  | setLtv (t : Nat) (c : Cmd) (dies ltv : Nat)
  /-- ENERGY_QUERY (R416): The ENERGY_QUERY command returns the context's modelled energy and the FT that ends its
  reading. -/
  | energyQuery (t : Nat) (c : Cmd)
  /-- BEACON (R40): A BEACON time frame received on an enabled port is checked, may discipline FT or drive a lock
  transition, and is relayed downstream. -/
  | beacon (t port : Nat) (b : Beacon)
  /-- BEACON_TIMEOUT (R43): No valid beacon for 131,072 ns moves LOCKED to HOLDOVER, or ACQUIRING to FREE. -/
  | beaconTimeout (t : Nat)
  /-- SYNC_IN_EDGE (R41): A SYNC_IN rising edge latches FT_SYNC_EDGE and disciplines FT by the measured offset, or
  counts in FT_SYNC_BAD. -/
  | syncInEdge (t : Nat)
  /-- SYNC_IN_TIMEOUT (R43): With SYNC_IN selected, no valid edge within 1,048,576 ns + 64 ns moves LOCKED to
  HOLDOVER, or ACQUIRING to FREE. -/
  | syncInTimeout (t : Nat)
  /-- HOLDOVER_EXPIRY (R43): After 10,000,000 ns in HOLDOVER, the FT unit enters FREE. -/
  | holdoverExpiry (t : Nat)
  /-- DELAY_MEASURE_TIMER (R39): Every 1,048,576 ns, a package sends a DELAY_REQ to its upstream neighbour. -/
  | delayMeasureTimer (t : Nat)
  /-- DELAY_REQ (R307): A received DELAY_REQ is answered with a DELAY_RESP that carries the turnaround time. -/
  | delayReq (t port : Nat) (b : Beacon)
  /-- DELAY_RESP (R307): A received DELAY_RESP gives the one-way link delay, which is reported in FT_PATH_DELAY
  and PORT_LINK_DELAY. -/
  | delayResp (t port : Nat) (b : Beacon)
  /-- FT_CTRL_WRITE (R46): A write to FT_CTRL updates PORT_MASK and RELAY, and changes SOURCE with a transition
  only while no context is ARMED or RUNNING. -/
  | ftCtrlWrite (t value : Nat)
  /-- LOAD_MOULD (R54): The LOAD_MOULD command checks a mould image and copies its pour tables into the
  sequencers, leaving the context LOADED. -/
  | loadMould (t : Nat) (c : Cmd) (va : Nat)
  /-- ARM_AT (R63): The ARM_AT command checks FT_START and the FT state, advances the generation, and arms the
  context to run from FT_START. -/
  | armAt (t : Nat) (c : Cmd) (ftStart heatBase : Nat) (localArm : Bool)
  /-- HALT (R66): The HALT command stops dispatch at the next heat start, or at once for an ARMED or FAULTED
  context, and withdraws pours not yet launched. -/
  | halt (t : Nat) (c : Cmd)
  /-- HALT_COMPLETE (R66): Once every launched pour of a halting context has finished, HALT completes and the
  context is LOADED. -/
  | haltComplete (t ctx : Nat)
  /-- STAGE (R67): The STAGE command stores checked settings in the context's staging area. -/
  | stage (t : Nat) (c : Cmd) (items : List StageItem)
  /-- COMMIT_AT (R68): The COMMIT_AT command checks T and the staged set and makes it a pending commit for apply
  time T. -/
  | commitAt (t : Nat) (c : Cmd) (applyAt : Nat)
  /-- COMMIT_AT_CANCEL (R70): COMMIT_AT with CANCEL discards the pending commit if it is accepted no later than T
  − 10,240 ns. -/
  | commitAtCancel (t : Nat) (c : Cmd)
  /-- COMMIT_APPLY (R69): At T, every setting of the pending commit takes effect in every unit it names, before
  any pour due at T launches. -/
  | commitApply (t ctx : Nat)
  /-- HEAT_START (R64): At each heat start of a RUNNING context, the heat number advances, the step flag word
  clears, and pending HALTs, repairs and other heat-start actions take effect. -/
  | heatStart (t ctx : Nat)
  /-- POUR_DISPATCH (R55): The sequencer hands a pour to its unit and fetches its descriptor ahead of the due
  time. -/
  | pourDispatch (t ctx die index : Nat)
  /-- DESCRIPTOR_ARRIVE (R56): A pour's fetched descriptor reaches its unit, completing one part of the launch
  condition. -/
  | descriptorArrive (t unit : Nat)
  /-- POUR_LAUNCH (R56): At or after the due time, a unit launches a pour on the first arithmetic edge at which
  its launch condition holds. -/
  | pourLaunch (t unit : Nat)
  /-- HOLD_EXPIRY (R61): At the end of its hold window, a pour whose condition still fails ends with LATE_INPUT
  and faults its context. -/
  | holdExpiry (t unit : Nat)
  /-- POUR_SIGNAL (R57): When all of a pour's writes have reached their home, it completes and increments its
  SIGNAL flag. -/
  | pourSignal (t unit : Nat)
  /-- NOP (R491): A NOP pour takes its WAIT count, takes no time and increments its SIGNAL flag at launch. -/
  | nopPour (t unit : Nat)
  /-- PRODUCT (R116): A PRODUCT pour runs a matrix product into an accumulator tile and drains it when DRAIN is
  set. -/
  | product (t unit : Nat)
  /-- DRAIN (R117): A DRAIN pour converts a live accumulator tile once, with an optional fused operation, to
  working store or the tile queue. -/
  | drain (t unit : Nat)
  /-- DRAIN_QUEUE_RESUME (R124): A drain waiting on a full tile queue resumes with its pending header or row once
  space is free. -/
  | drainQueueResume (t unit : Nat)
  /-- RUN (R147): A RUN pour copies and decodes a kernel into the vector engine, then runs it. -/
  | runKernel (t unit : Nat)
  /-- KERNEL_BUDGET_EXPIRY (R149): A kernel whose END has not ended BUDGET cycles after launch stops, and the
  context faults with LATE_INPUT. -/
  | kernelBudgetExpiry (t engine : Nat)
  /-- ADD (R161): Vector ADD computes s0 + s1 per active element, rounded once. -/
  | vAdd (t engine : Nat)
  /-- SUB (R161): Vector SUB computes s0 − s1 per active element, rounded once. -/
  | vSub (t engine : Nat)
  /-- MUL (R161): Vector MUL computes s0 × s1 per active element, rounded once. -/
  | vMul (t engine : Nat)
  /-- FMA (R161): Vector FMA computes s0 × s1 + s2 per active element, rounded once. -/
  | vFma (t engine : Nat)
  /-- MIN (R136): Vector MIN applies the min node rule per active element. -/
  | vMin (t engine : Nat)
  /-- MAX (R136): Vector MAX applies the max node rule per active element. -/
  | vMax (t engine : Nat)
  /-- ABS (R161): Vector ABS writes the magnitude of s0 per active element. -/
  | vAbs (t engine : Nat)
  /-- NEG (R161): Vector NEG writes −s0 per active element. -/
  | vNeg (t engine : Nat)
  /-- MOV (R155): Vector MOV copies or converts s0 to the destination with one rounding. -/
  | vMov (t engine : Nat)
  /-- CMPEQ (R160): Vector CMPEQ writes a mask bit or INT8 element for s0 equal to s1. -/
  | vCmpeq (t engine : Nat)
  /-- CMPNE (R160): Vector CMPNE writes a mask bit or INT8 element for s0 not equal to s1. -/
  | vCmpne (t engine : Nat)
  /-- CMPLT (R160): Vector CMPLT writes a mask bit or INT8 element for s0 less than s1. -/
  | vCmplt (t engine : Nat)
  /-- CMPLE (R160): Vector CMPLE writes a mask bit or INT8 element for s0 less than or equal to s1. -/
  | vCmple (t engine : Nat)
  /-- SEL (R160): Vector SEL writes s0 or s1 according to the condition in SRC2. -/
  | vSel (t engine : Nat)
  /-- EXP2 (R161): Vector EXP2 computes 2 to the power s0, correctly rounded. -/
  | vExp2 (t engine : Nat)
  /-- EXP (R161): Vector EXP computes e to the power s0, correctly rounded. -/
  | vExp (t engine : Nat)
  /-- LOG2 (R161): Vector LOG2 computes the base-2 logarithm of s0, correctly rounded. -/
  | vLog2 (t engine : Nat)
  /-- LOG (R161): Vector LOG computes the natural logarithm of s0, correctly rounded. -/
  | vLog (t engine : Nat)
  /-- RCP (R161): Vector RCP computes 1/s0, correctly rounded. -/
  | vRcp (t engine : Nat)
  /-- SQRT (R161): Vector SQRT computes the square root of s0, correctly rounded. -/
  | vSqrt (t engine : Nat)
  /-- RSQRT (R161): Vector RSQRT computes the reciprocal square root of s0, correctly rounded. -/
  | vRsqrt (t engine : Nat)
  /-- DIV (R161): Vector DIV computes s0/s1, correctly rounded, and INT32 DIV rounds toward zero. -/
  | vDiv (t engine : Nat)
  /-- SIN (R161): Vector SIN computes the sine of s0 in radians, correctly rounded. -/
  | vSin (t engine : Nat)
  /-- COS (R161): Vector COS computes the cosine of s0 in radians, correctly rounded. -/
  | vCos (t engine : Nat)
  /-- TANH (R161): Vector TANH computes the hyperbolic tangent of s0, correctly rounded. -/
  | vTanh (t engine : Nat)
  /-- RSUM (R162): Vector RSUM reduces the active elements by compensated or integer sum and writes the result
  status word. -/
  | vRsum (t engine : Nat)
  /-- RPROD (R162): Vector RPROD reduces the active elements by product over the fixed tree. -/
  | vRprod (t engine : Nat)
  /-- RMAX (R162): Vector RMAX reduces the active elements to their maximum. -/
  | vRmax (t engine : Nat)
  /-- RMIN (R162): Vector RMIN reduces the active elements to their minimum. -/
  | vRmin (t engine : Nat)
  /-- RARGMAX (R162): Vector RARGMAX writes the lowest index of the maximum and its value. -/
  | vRargmax (t engine : Nat)
  /-- RARGMIN (R162): Vector RARGMIN writes the lowest index of the minimum and its value. -/
  | vRargmin (t engine : Nat)
  /-- SETA (R163): SETA loads an address register with IMM:COUNT. -/
  | vSeta (t engine : Nat)
  /-- ADDA (R163): ADDA adds IMM:COUNT to an address register, modulo 2⁶⁴. -/
  | vAdda (t engine : Nat)
  /-- LOOP (R163): LOOP repeats the next IMM[5:0] + 1 instructions COUNT[11:0] + 1 times. -/
  | vLoop (t engine : Nat)
  /-- SETACC (R169): SETACC sets the accumulator pointer and, with DEFINE, makes the segments a live zero tile. -/
  | vSetacc (t engine : Nat)
  /-- SETSR (R163): SETSR sets the tensor id and base index used for stochastic rounding of W and ACC writes. -/
  | vSetsr (t engine : Nat)
  /-- TQHDR (R165): TQHDR takes the next tile header, checks TQ_SEQ against VE_TQ_NEXT_SEQ and sets the mark. -/
  | vTqhdr (t engine : Nat)
  /-- TQMARK (R167): TQMARK marks the current tile-queue read position. -/
  | vTqmark (t engine : Nat)
  /-- TQREWIND (R167): TQREWIND returns the tile-queue read position to the mark. -/
  | vTqrewind (t engine : Nat)
  /-- TQREL (R167): TQREL releases every tile-queue entry before the read position. -/
  | vTqrel (t engine : Nat)
  /-- END (R148): END ends the kernel, and the pour ends. -/
  | vEnd (t engine : Nat)
  /-- VE_WAIT_RESUME (R171): A vector instruction waiting on tile-queue data, a reserved segment or the working-
  store share resumes when that wait ends. -/
  | veWaitResume (t engine : Nat)
  /-- PACK (R190): A PACK pour packs one bucket into GQ8 with residuals and writes the pack status word. -/
  | pack (t unit : Nat)
  /-- TIE (R183): A TIE pour folds the G buffers of a tied weight's uses into the buffer of use 0. -/
  | tie (t unit : Nat)
  /-- SEND (R203): A SEND pour transmits a bucket's selected blocks to one peer as exchange segments. -/
  | send (t unit : Nat)
  /-- COMBINE (R205): A COMBINE pour adds or takes a received partial over the bucket's selected blocks. -/
  | combine (t unit : Nat)
  /-- RENEW (R208): A RENEW pour updates keys and scales after a committed step and derives the selection bitmap.
  -/
  | renew (t unit : Nat)
  /-- VERDICT (R215): A VERDICT pour prepares the package's referee contribution for this heat. -/
  | verdict (t unit : Nat)
  /-- BARRIER (R221): A BARRIER pour prepares the package's sweep-done contribution for this heat. -/
  | barrier (t unit : Nat)
  /-- SEGMENT (R204): A received SEGMENT packet of a bucket is checked for tag, generation, heat and address,
  written, and raises DEST_FLAG once all its segments are accepted. -/
  | segment (t port : Nat) (pkt : List Byte)
  /-- TAG_QUARANTINE_END (R212): 2,000,000 ns after a tag is unbound, its quarantine ends and a waiting pour can
  bind it. -/
  | tagQuarantineEnd (t tag : Nat)
  /-- REFEREE_UP_AT (R215): At UP_AT, a referee node forms its local word, combines its children's words, marks
  missing ones and sends the result to its parent, or sets GO at the root. -/
  | refereeUpAt (t ctx unit : Nat)
  /-- REFEREE_UP_RX (R215): A child's referee up word arrives at a node, or is dropped as late. -/
  | refereeUpRx (t port : Nat) (pkt : List Byte)
  /-- REFEREE_DOWN_RX (R216): A referee down word arrives and is forwarded to the children by cut-through. -/
  | refereeDownRx (t port : Nat) (pkt : List Byte)
  /-- VERDICT_APPLY (R217): At commit time C, the package applies the verdict: a go advances PLAN_STEP_COUNT and
  releases GATED pours, and a skip posts STEP_SKIPPED. -/
  | verdictApply (t ctx : Nat)
  /-- BARRIER_UP_AT (R221): At UP_AT, a barrier node combines its sweep-done word with its children's words and
  sends it up. -/
  | barrierUpAt (t ctx unit : Nat)
  /-- BARRIER_UP_RX (R221): A child's barrier up word arrives at a node. -/
  | barrierUpRx (t port : Nat) (pkt : List Byte)
  /-- BARRIER_DOWN_RX (R221): A barrier down word with pass increments BARRIER_FLAG on each named die and is
  forwarded. -/
  | barrierDownRx (t port : Nat) (pkt : List Byte)
  /-- LADD_REF_CTRL_WRITE (R220): A write of 1 to LADD_REF_CTRL.FORCE_SKIP makes the next VERDICT of the context
  set FORCE_SKIP. -/
  | laddRefCtrlWrite (t ctx value : Nat)
  /-- SWEEP (R231): A SWEEP pour updates every shard of its table toward the target epoch, block by block, and
  writes the digests. -/
  | sweep (t unit : Nat) (go : Stretch)
  /-- RESUME (R242): A RESUME pour completes an interrupted sweep toward TARGET, guided by the block tags. -/
  | resume (t unit : Nat) (go : Stretch)
  /-- COMPARE (R247): A COMPARE pour hands the package digest to the link adder of P0 for the replica vote. -/
  | compare (t unit : Nat)
  /-- REPAIR (R252): A REPAIR pour on a minority package recopies the shards that differ from SOURCE and posts
  DIGEST_MISMATCH. -/
  | repair (t unit : Nat) (go : Stretch)
  /-- COMPARE_VOTE_AT (R249): At VOTE_AT, a compare node merges its children's vote records with its own and sends
  the result up, or the root sends the candidate down. -/
  | compareVoteAt (t ctx : Nat)
  /-- COMPARE_COUNT_AT (R250): At COUNT_AT, a compare node adds its children's agree counts and sends them up, or
  the root forms the result word. -/
  | compareCountAt (t ctx : Nat)
  /-- COMPARE_RECORD_RX (R248): A compare segment is accepted and its words are placed in the compare area, or it
  is forwarded down. -/
  | compareRecordRx (t port : Nat) (pkt : List Byte)
  /-- COMPARE_DECIDE_AT (R251): At DECIDE_AT, the package records the compare result and acts on its outcome. -/
  | compareDecideAt (t ctx : Nat)
  /-- TM_LOAD (R277): A LOAD tile move copies tiles from a lower address into working store, widening them. -/
  | tmLoad (t unit tile : Nat)
  /-- TM_STORE (R283): A STORE tile move narrows tiles from working store to a lower address, skipping clean tiles
  when DIRTY is set. -/
  | tmStore (t unit tile : Nat)
  /-- TM_ATOMIC (R271): An ATOMIC tile move applies element-wise atomic operations from working-store tiles to
  tier-1 lines. -/
  | tmAtomic (t unit tile : Nat)
  /-- TILE_ISSUE (R494): At launch + 16 ns × t, a tile mover translates and issues tile t of its move. -/
  | tileIssue (t unit : Nat)
  /-- CHANNEL_LINE_READ (R265): A stack channel serves a line read from the write-combining buffer or DRAM,
  checking a fenced read's epoch. -/
  | channelLineRead (t addr : Nat) (fence : Option Nat)
  /-- CHANNEL_LINE_WRITE (R265): A stack channel takes a whole or partial line write, starting a fill for a
  partial line not held. -/
  | channelLineWrite (t addr : Nat) (data : List Byte)
  /-- WCB_FILL_DONE (R267): A write-combining fill completes and the partial write merges, or ends with
  MEM_UNCORRECTABLE. -/
  | wcbFillDone (t line : Nat)
  /-- WCB_FLUSH (R268): 1,024 ns after its last write, or on allocation pressure or self-refresh, a write-
  combining entry is written to DRAM. -/
  | wcbFlush (t line : Nat)
  /-- ATOMIC_LINE_APPLY (R270): A channel applies an atomic operation to one line as one indivisible step. -/
  | atomicLineApply (t line atype aop : Nat) (operands : List Byte)
  /-- STK_ILV_WRITE (R264): A write to STK_ILV sets a stack's stripe exponent only when no channel of that stack
  is owned. -/
  | stkIlvWrite (t die value : Nat)
  /-- CORE_UNCACHED_ACCESS (R260): A core access to working store or an ENGINE page is served uncached, merging
  sub-word writes in one step. -/
  | coreUncachedAccess (t core addr size : Nat) (access : CoreAccess)
  /-- GET_S (R334): A core's GET_S is served by the home with DATA_E, DATA_S after FWD_S, or NACK. -/
  | getS (t core line : Nat)
  /-- GET_X (R334): A core's GET_X is served by the home with DATA_E after invalidations, or NACK. -/
  | getX (t core line : Nat)
  /-- UPGRADE (R334): A core's UPGRADE is granted after the other sharers are invalidated, treated as GET_X, or
  NACKed. -/
  | upgrade (t core line : Nat)
  /-- PUT_M (R336): A core's PUT_M writes back an evicted modified line and is answered with PUT_ACK. -/
  | putM (t core line : Nat) (data : List Byte)
  /-- INV (R335): A core receiving INV drops the line and answers INV_ACK or NOT_PRESENT. -/
  | inv (t core : Nat) (msg : InvAt)
  /-- FWD_S (R334): An owner receiving FWD_S returns DATA_WB and keeps the line in S, or answers NOT_PRESENT. -/
  | fwdS (t core line : Nat) (did : CoreDid)
  /-- FWD_I (R334): An owner receiving FWD_I returns DATA_WB and drops the line, or answers NOT_PRESENT. -/
  | fwdI (t core line : Nat) (did : CoreDid)
  /-- DATA_WB (R334): The home receives an owner's DATA_WB, writes it and serves the waiting request. -/
  | dataWb (t core line : Nat)
  /-- DATA_S (R339): A core receives a line in S and starts its 128 ns minimum hold. -/
  | dataS (t core line : Nat)
  /-- DATA_E (R339): A core receives a line in E and starts its 128 ns minimum hold. -/
  | dataE (t core line : Nat)
  /-- GRANT (R339): A core receives GRANT for its UPGRADE; the line is in E and the hold starts. -/
  | grant (t core line : Nat)
  /-- NACK (R337): A core receiving NACK schedules a retry after its backoff and counts the NACK. -/
  | nackRx (t core line : Nat)
  /-- INV_ACK (R334): The home receives INV_ACK completing an invalidation. -/
  | invAck (t core line : Nat)
  /-- NOT_PRESENT (R335): The home receives NOT_PRESENT and serves the request from the SLC or DRAM. -/
  | notPresent (t core line : Nat)
  /-- PUT_ACK (R336): A core receives PUT_ACK and may request the line again. -/
  | putAck (t core line : Nat)
  /-- NACK_BACKOFF_EXPIRY (R337): A core's backoff ends and it retries the NACKed request. -/
  | nackBackoffExpiry (t core line : Nat)
  /-- CORE_HOLD_END (R339): 128 ns after receipt, a core's minimum hold ends and it answers any pending INV or
  forward. -/
  | coreHoldEnd (t core line : Nat)
  /-- ENGINE_SNOOP_ACCESS (R334): An engine-side access to a SHARED line is served by the home, with a forward or
  invalidations as needed. -/
  | engineSnoopAccess (t line : Nat) (write : Option (List Byte))
  /-- DOMAIN_TIMEOUT (R341): A coherence answer, grant or reservation missing for 20,000 ns loses the coherent
  domain. `cause` is that of R342, or 5 for an uncorrectable error in a level-1 instruction cache. -/
  | domainTimeout (t cause line unit : Nat)
  /-- MAP (R351): The MAP command writes PTU leaves for a range and, with PIN, loads every die's translation
  cache. -/
  | mapPages (t : Nat) (c : Cmd) (va ga pages size flags : Nat)
  /-- UNMAP (R352): The UNMAP command clears the leaves of a range and, once those writes reach home, sends
  invalidations to every die. -/
  | unmap (t : Nat) (c : Cmd) (va pages size : Nat)
  /-- INVAL_TC (R356): The INVAL_TC command invalidates a range, or the whole space, in every die's translation
  cache. -/
  | invalTc (t : Nat) (c : Cmd) (va pages size : Nat) (all : Bool)
  /-- TC_INVALIDATION (R352): A die drops the translation cache entries of an invalidated range at its
  invalidation point. -/
  | tcInvalidation (t die ctx : Nat)
  /-- TRANSLATION_RETIRE_DONE (R354): When every transfer through dropped entries has retired, UNMAP or INVAL_TC
  completes and records PTU_CTX_INVAL_FT. -/
  | translationRetireDone (t ctx : Nat)
  /-- TRANSLATION_WALK (R348): A translation-cache miss walks the tables and fills the pool, or ends the transfer
  with TRANSLATION_FAULT. -/
  | translationWalk (t die ctx va need unit : Nat)
  /-- CMDP_RING_TAIL_WRITE (R359): A write to CMDP_RING_TAIL rings the doorbell of a command ring. -/
  | cmdpRingTailWrite (t slot value : Nat)
  /-- CMDP_CPL_HEAD_WRITE (R360): A write to CMDP_CPL_HEAD returns completion-ring space unless it would pass
  CPL_TAIL. -/
  | cmdpCplHeadWrite (t slot value : Nat)
  /-- CMDP_RING_SIZE_WRITE (R380): A write to the control ring's CMDP_RING_SIZE, allowed only when the ring is
  idle, resets its heads, tails and PHASE. -/
  | cmdpRingSizeWrite (t value : Nat)
  /-- FENCE (R368): The FENCE command completes once every earlier command of its ring has completed. -/
  | fence (t : Nat) (c : Cmd)
  /-- SEQ_ADMIT (R384): The SEQ_ADMIT command asks to admit sequences, decided at a heat boundary. -/
  | seqAdmit (t : Nat) (c : Cmd) (entries : List Admit)
  /-- SEQ_RETIRE (R384): The SEQ_RETIRE command retires sequences at a heat boundary. -/
  | seqRetire (t : Nat) (c : Cmd) (slots : List Nat)
  /-- SEQ_DECISION (R384): Before heat n starts, the command processor retires, grows and admits sequences and
  writes the batch table. -/
  | seqDecision (t ctx : Nat)
  /-- EXPORT_SHARD (R254): The EXPORT_SHARD command writes a fenced shard record to its destination. -/
  | exportShard (t : Nat) (c : Cmd) (unit shard dest : Nat) (room : ExportRoom)
  /-- DIGEST_QUERY (R256): The DIGEST_QUERY command returns a shard digest or the unit digest. -/
  | digestQuery (t : Nat) (c : Cmd) (unit shard : Nat)
  /-- DISABLE_UNIT (R378): The DISABLE_UNIT command refuses new pours to a unit and lets handed pours drain until
  its timeout. -/
  | disableUnit (t : Nat) (c : Cmd) (unit timeout : Nat)
  /-- DISABLE_TIMEOUT (R378): At the DISABLE_UNIT timeout, running pours are aborted, the unit reads DISABLED and
  the command completes. -/
  | disableTimeout (t unit : Nat)
  /-- ENABLE_UNIT (R379): The ENABLE_UNIT command returns a disabled unit to IDLE with no live segment. -/
  | enableUnit (t : Nat) (c : Cmd) (unit : Nat)
  /-- PREEMPT (R374): The PREEMPT command stops a context at its next slot boundary at least 256 ns after
  acceptance. -/
  | preempt (t : Nat) (c : Cmd)
  /-- PREEMPT_TAKE_EFFECT (R374): At the chosen slot boundary, dispatch stops and pours handed over but not
  launched are withdrawn. -/
  | preemptTakeEffect (t ctx : Nat)
  /-- PREEMPT_COMPLETE (R374): Once launched pours have ended, PREEMPT completes with the context LOADED and the
  resume point recorded. -/
  | preemptComplete (t ctx : Nat)
  /-- PREEMPT_RESUME (R377): PREEMPT with RESUME arms the context to run from the recorded offset at FT_START. -/
  | preemptResume (t : Nat) (c : Cmd) (ftStart : Nat)
  /-- CTX_CREATE (R370): The CTX_CREATE command checks and applies a partition and makes a FREE context EMPTY. -/
  | ctxCreate (t : Nat) (c : Cmd) (p : Create) (payload : List Byte)
  /-- CTX_PARTITION (R372): The CTX_PARTITION command replaces an EMPTY context's whole partition. -/
  | ctxPartition (t : Nat) (c : Cmd) (payload : List Byte)
  /-- CTX_DESTROY (R373): The CTX_DESTROY command stops dispatch and waits for pours and transfers before freeing
  the context. -/
  | ctxDestroy (t : Nat) (c : Cmd)
  /-- CTX_DESTROY_COMPLETE (R373): Once pours and transfers have retired, the context's tags, windows, entries and
  partition are freed, and it is FREE. -/
  | ctxDestroyComplete (t ctx : Nat)
  /-- LINK_FRAME_RX (R297): A received DATA link frame is accepted in FSEQ order, with its ACK and credits
  applied, or is discarded with a NAK sent. -/
  | linkFrameRx (t port : Nat) (frame : List Byte)
  /-- IDLE (R293): A received IDLE frame returns credits and acknowledges frames. -/
  | linkIdle (t port : Nat) (frame : List Byte)
  /-- NAK (R297): A received NAK makes the sender resend every frame after ACK from its replay buffer. -/
  | linkNak (t port : Nat) (frame : List Byte)
  /-- LINK_FRAME_TX (R295): A port sends the next frame once it holds credits and replay space for it. -/
  | linkFrameTx (t port : Nat)
  /-- PACKET_RELAY (R300): A relay checks a packet's header by age and route and forwards it by cut-through. -/
  | packetRelay (t port : Nat) (pkt : List Byte)
  /-- READ (R310): A READ packet at its home is admitted and answered with READ_DATA, or with ERROR. -/
  | pktRead (t port : Nat) (pkt : List Byte)
  /-- WRITE (R317): A WRITE packet at its home writes whole lines and is answered with WRITE_ACK once they reach
  home. -/
  | pktWrite (t port : Nat) (pkt : List Byte)
  /-- WRITE_MASKED (R317): A WRITE_MASKED packet writes the masked bytes of its lines and is answered with
  WRITE_ACK. -/
  | pktWriteMasked (t port : Nat) (pkt : List Byte)
  /-- ATOMIC (R269): An ATOMIC packet applies atomic operations at its home and is answered with WRITE_ACK or
  ATOMIC_DATA. -/
  | pktAtomic (t port : Nat) (pkt : List Byte)
  /-- ARRIVAL (R311): An ARRIVAL packet increments a flag of the window's owning context and is answered with
  ARRIVAL_ACK. -/
  | pktArrival (t port : Nat) (pkt : List Byte)
  /-- READ_DATA (R304): A READ_DATA response delivers data and frees its request tag. -/
  | pktReadData (t port : Nat) (pkt : List Byte)
  /-- WRITE_ACK (R304): A WRITE_ACK response completes a write and frees its tag. -/
  | pktWriteAck (t port : Nat) (pkt : List Byte)
  /-- ATOMIC_DATA (R304): An ATOMIC_DATA response delivers old values and frees its tag. -/
  | pktAtomicData (t port : Nat) (pkt : List Byte)
  /-- ARRIVAL_ACK (R275): An ARRIVAL_ACK lets the tile move that sent the arrival signal. -/
  | pktArrivalAck (t port : Nat) (pkt : List Byte)
  /-- ERROR (R305): An ERROR response ends its request with the mapped status code. -/
  | pktError (t port : Nat) (pkt : List Byte)
  /-- REQUEST_TIMEOUT (R304): A request aged 2,000,000 ns ends with FABRIC_TIMEOUT and frees its tag. -/
  | requestTimeout (t port tag : Nat)
  /-- RETRAIN_ENTRY (R320): A port that loses lock, or sends 64 NAKs in 1,000,000 ns, enters RETRAIN and stops
  sending DATA. -/
  | retrainEntry (t port : Nat) (lost : Bool)
  /-- RETRAIN_DONE (R321): A link back UP within 2,000,000 ns replays every frame after the partner's last
  accepted FSEQ. -/
  | retrainDone (t port peerLast : Nat)
  /-- PORT_DOWN (R322): A link not UP 2,000,000 ns after RETRAIN began goes DOWN, discards its frames and ends
  held transfers with LINK_LOST. -/
  | portDown (t port : Nat)
  /-- LINK_TRAINED (R433): A port ends a training attempt from DOWN and reaches UP or stays DOWN. -/
  | linkTrained (t port : Nat) (up : Bool) (peer : Nat)
  /-- PORT_CTRL_WRITE (R290): A write to PORT_CTRL that changes a setting retrains the port, unless a FABRIC
  context is armed or running. -/
  | portCtrlWrite (t port value : Nat)
  /-- PORT_PKG_CTRL_WRITE (R313): A write to JOINED takes effect only while no context is ARMED or RUNNING. -/
  | portPkgCtrlWrite (t value : Nat)
  /-- PORT_ROUTE_DATA_WRITE (R299): A write to PORT_ROUTE_DATA sets the route table entry selected by
  PORT_ROUTE_SEL. -/
  | portRouteDataWrite (t value : Nat)
  /-- PORT_BIAS_DATA_WRITE (R315): A write to PORT_BIAS_DATA changes a page's bias, making it ENGINE only after
  BUSY write-back. -/
  | portBiasDataWrite (t value : Nat)
  /-- BIAS_FLIP_DONE (R315): Once every core-cached line of the page is written back and invalidated, the page
  becomes ENGINE and BUSY clears. -/
  | biasFlipDone (t page : Nat)
  /-- PORT_WIN_CTRL_WRITE (R311): A write to PORT_WIN_CTRL enables a window only when its range lies in its
  owner's partition, else it sets BAD. -/
  | portWinCtrlWrite (t window value : Nat)
  /-- PORT_ETH_DOORBELL (R292): A write to PORT_ETH_DOORBELL makes the port read a ring's producer index. -/
  | portEthDoorbell (t port value : Nat)
  /-- ETH_FRAME_TX (R292): An Ethernet-mode port sends the next frame from the highest unpaused transmit ring and
  marks its descriptor DONE. -/
  | ethFrameTx (t port : Nat)
  /-- ETH_FRAME_RX (R291): A received Ethernet frame is checked and delivered to its priority's receive ring, or
  dropped. -/
  | ethFrameRx (t port : Nat) (frame : List Byte)
  /-- BRIDGE_FRAME_RX (R21): A bridge endpoint receives a frame, checks its CRC and requests a replay on error. -/
  | bridgeFrameRx (t : Nat) (dir : Dir) (group frame : Nat) (crcOk : Bool)
  /-- BRIDGE_REPLAY (R21): A bridge sender replays a frame from its retry buffer on request. -/
  | bridgeReplay (t : Nat) (dir : Dir) (group : Nat)
  /-- LANE_MARK_REPAIR (R23): A lane with more than 16 bit errors in an interval is marked for repair and
  REPAIR_PENDING is set. -/
  | laneMarkRepair (t : Nat) (lane : Lane) (errors : Nat)
  /-- BRIDGE_REPAIR_DONE (R23): 2,048 ns after a field repair begins, the group returns to service. -/
  | bridgeRepairDone (t : Nat) (dir : Dir) (group : Nat)
  /-- QUEUE_WRITE (R392): A writer stores a runner-queue entry, or a posted entry that finds the queue full is
  lost and sets OVERRUN. -/
  | queueWrite (t : Nat) (q : QueueId) (data : List Byte) (last : Bool)
  /-- QUEUE_READ (R395): A runner-queue reader reads n entries from RD. -/
  | queueRead (t : Nat) (q : QueueId) (n : Nat)
  /-- QUEUE_MARK (R395): A runner-queue reader sets the mark to RD. -/
  | queueMark (t : Nat) (q : QueueId)
  /-- QUEUE_REWIND (R395): A runner-queue reader returns RD to the mark. -/
  | queueRewind (t : Nat) (q : QueueId)
  /-- QUEUE_RELEASE (R395): A runner-queue reader frees the entries before position p. -/
  | queueRelease (t : Nat) (q : QueueId) (p : Nat)
  /-- QUEUE_POSITION_SYNC (R388): A position crossing a clock domain reaches the other side and updates that
  side's FULL or EMPTY flag. -/
  | queuePositionSync (t : Nat) (q : QueueId) (toReader : Bool)
  /-- OVERRUN_CLEAR (R394): A write of 1 to OVERRUN clears it and the VALID bits of the lost-item words. -/
  | overrunClear (t : Nat) (q : QueueId) (value : Nat)
  /-- FAULT_RECORD_ARRIVE (R456): A fault record reaches its die's fault collector, takes the next SEQ and is
  stored or lost. `rs` are the records that reach the collectors at one MESH edge (R393). -/
  | faultRecordArrive (t : Nat) (rs : List FaultIn)
  /-- ERR_FQ_RELEASE (R457): A write of n to ERR_FQ_RELEASE releases the oldest min(n, HELD) fault records. -/
  | errFqRelease (t die value : Nat)
  /-- COUNTER_CLEAR (R461): A write of 1 to a counter's SAT bit clears SAT and COUNT together. -/
  | counterClear (t addr value : Nat)
  /-- ERR_INJECT_WRITE (R450): A write to ERR_INJECT with debug level above 0 arms an injected check-bit error for
  the next word written to the target. -/
  | errInjectWrite (t die value : Nat)
  /-- REGISTER_WRITE (R9): A write to a register with no row of its own acts by its access code, or faults when
  misaligned. -/
  | registerWrite (t addr size value : Nat)
  /-- IMAGE_START (R441): A write of 1 to SEC_IMAGE_CTRL.START empties the data-port write path and begins
  receiving an image. -/
  | imageStart (t value : Nat)
  /-- IMAGE_VERIFY (R441): A write of 1 to VERIFY checks the staged image under R437. -/
  | imageVerify (t value : Nat)
  /-- IMAGE_COMMIT (R441): A write of 1 to COMMIT in state VERIFIED erases and programs the flash. -/
  | imageCommit (t value : Nat)
  /-- IMAGE_PROGRAM_DONE (R442): Flash programming and read-back end, and a package reset follows in BOOT_HOLD or
  after a deferred host-complex reset. -/
  | imageProgramDone (t : Nat) (readBackOk : Bool)
  /-- ATTEST_GO (R446): A write of 1 to SEC_ATTEST_CTRL.GO latches the nonce and starts a signed attestation
  report. -/
  | attestGo (t value : Nat)
  /-- ATTEST_DONE (R446): The attestation report and any certificates are written to SEC_ATTEST_DEST, and GO
  clears. -/
  | attestDone (t : Nat)
  /-- SEC_EXTEND_CTRL_WRITE (R445): A write of slot 4 to 7 to SEC_EXTEND_CTRL extends that measurement slot with
  48 bytes. -/
  | secExtendCtrlWrite (t value : Nat)
  /-- UNLOCK (R449): The UNLOCK test-port instruction delivers a signed response that sets the debug level if both
  signatures verify. -/
  | unlock (t : Nat) (response : List Byte)
  /-- DEBUG_UNLOCK_TIMEOUT (R449): No unlock response within 10,000,000,000 ns leaves the level at 0, and boot
  continues. -/
  | debugUnlockTimeout (t : Nat)
  /-- DFT_MODE_WRITE (R448): A write to DFT_MODE enters stand-alone die test with a loop-back when its conditions
  hold. -/
  | dftModeWrite (t die value : Nat)
  /-- I3C_PRIVATE_WRITE (R477): An I3C private write with selector 0x01 and the right length is handed to D0 as a
  control-ring command. -/
  | i3cPrivateWrite (t : Nat) (bytes : List Byte)
  /-- I3C_PRIVATE_READ (R478): An I3C private read returns and removes the oldest queued reply. -/
  | i3cPrivateRead (t : Nat)
  /-- ENTDAA (R476): The ENTDAA common command assigns a dynamic address to the target. -/
  | entdaa (t address : Nat)
  /-- SETDASA (R476): The SETDASA common command sets the dynamic address from the static address. -/
  | setdasa (t static address : Nat)
  /-- RSTDAA (R476): The RSTDAA common command resets the dynamic address. -/
  | rstdaa (t : Nat)
  /-- ENEC (R478): The ENEC common command enables in-band interrupts on reply arrival. -/
  | enec (t events : Nat)
  /-- DISEC (R476): The DISEC common command disables target events. -/
  | disec (t events : Nat)
  /-- GETPID (R476): The GETPID common command returns the provisioned id. -/
  | getpid (t : Nat)
  /-- GETBCR (R476): The GETBCR common command returns the bus characteristics register. -/
  | getbcr (t : Nat)
  /-- GETDCR (R476): The GETDCR common command returns the device characteristics register. -/
  | getdcr (t : Nat)
  /-- GETSTATUS (R476): The GETSTATUS common command returns target status. -/
  | getstatus (t : Nat)
  /-- GETMWL (R476): The GETMWL common command returns the maximum write length, 513 bytes. -/
  | getmwl (t : Nat)
  /-- GETMRL (R476): The GETMRL common command returns the maximum read length, 32 bytes. -/
  | getmrl (t : Nat)
  /-- MDP_SET_ADDR (R479): The QSPI SET_ADDR transaction sets MDP_Q_ADDR. -/
  | mdpSetAddr (t : Nat) (bytes : List Byte)
  /-- MDP_WRITE_DATA (R480): The QSPI WRITE_DATA transaction posts bytes into the write path from MDP_Q_ADDR. -/
  | mdpWriteData (t : Nat) (bytes : List Byte)
  /-- MDP_READ_DATA (R482): The QSPI READ_DATA transaction reads bytes from MDP_Q_ADDR after earlier writes apply,
  reading 0xFF on underrun. -/
  | mdpReadData (t n : Nat) (ready : Nat)
  /-- MDP_READ_STATUS (R479): The QSPI READ_STATUS transaction returns MDP_STATUS. -/
  | mdpReadStatus (t : Nat)
  /-- MDP_H_DATA_ACCESS (R483): An 8-byte access to MDP_H_DATA reads or writes at MDP_H_ADDR and advances it by 8.
  -/
  | mdpHDataAccess (t : Nat) (write : Option Nat)
  /-- MDP_WRITE_APPLY (R480): Meilamo applies the next write-path entry to its target address or gives the error
  response. -/
  | mdpWriteApply (t : Nat)
  /-- PKG_RESET_N_DEASSERT (R428): Deassertion of PKG_RESET_N lets FT start from 0, samples DBG_REQ_N and the
  MGMT_ADDR straps, and is one of the conditions for boot to begin. -/
  | pkgResetNDeassert (t : Nat) (dbgReq : Bool) (straps : Nat)
  /-- HCX_RESET_N_DEASSERT (R429): Deassertion of HCX_RESET_N releases the cores that were held in reset while it
  stayed asserted. -/
  | hcxResetNDeassert (t : Nat)
  /-- REFCLK_RESTORED (R407): REFCLK returns after a loss and starts the 10,000,000 ns presence time after which
  the package may leave reset. -/
  | refclkRestored (t : Nat)
  /-- TRST_N_ASSERT (R427): Assertion of TRST_N resets the test access port only. -/
  | trstNAssert (t : Nat)
  /-- IDLE_ENTRY_DONE (R418): A compute die completes its entry into HOLD, BANKED or DAMPED after the state's
  entry time. -/
  | idleEntryDone (t die : Nat)
  /-- IMAGE_VERIFY_DONE (R441): Verification of a staged image ends and SEC_IMAGE_STATUS goes from VERIFYING to
  VERIFIED or FAILED. -/
  | imageVerifyDone (t : Nat)
  /-- REGISTER_READ (R9): A register read with behaviour of its own: an RC read that returns and clears its value,
  or a misaligned access that faults. -/
  | registerRead (t addr size : Nat)
  /-- VIOREF_LOW (R472): VIOREF falls below 1.5 V, and every management-group output goes high-impedance while
  every input is ignored. -/
  | viorefLow (t : Nat)
  /-- VIOREF_RESTORED (R472): VIOREF returns to 1.5 V or above, and the management lands drive and sample again.
  -/
  | viorefRestored (t : Nat)
  deriving DecidableEq, Repr

end Sys2Proof
end

