-- ==== Sys2Proof/Decode.lean ====
section
/-!
DEFINITION. Words that spell a command: the opcode table gives none of its rows any bits.
-/
namespace Sys2Proof

/-- The command a word spells by the table's bits: none, for every word. -/
def decodeTableWord (_nbits _w : Nat) : Option Instr := none

end Sys2Proof
end

