-- ==== Sys2Proof/Config.lean ====
section
/-!
DEFINITION. What one part has fixed, and what the spec leaves open. An `opaque` constant has no body: nothing can be proved about
its value, so a claim holds for every value. Values the spec gives ("fused" with a stated meaning) are plain definitions.
-/
namespace Sys2Proof.Config

/-- PKG_ABI.ABI_LEVEL: the manual describes every part that reports mould ABI level 1 (chapter 00). -/
def abiLevel : Nat := 1

/-- PKG_STEPPING.STEPPING, fused (log 2). -/
opaque stepping : BitVec 8

/-- The unique id, bytes 0 to 15, fused (log 2). -/
opaque uniqueId : Nat → Byte

/-- DFT_IDCODE.MANUF, Onialu's manufacturer identity, fused (log 2). -/
opaque manufacturer : BitVec 11

/-- The fused energy coefficient of an event class on a die, in fJ (R415); classes 20 to 63 read 0. -/
opaque energyCoef : Nat → Nat → BitVec 32

/-- SHA-384 of the public key fused in a key slot: RSA slots 0 to 3, then SLH-DSA slots 0 to 3 (R437). -/
opaque keyHash : Nat → Nat → Byte

/-- The debug keys (R449): the RSA modulus and the SLH-DSA public key, byte by byte; and the fused hashes they must have, 0 of the RSA key and 1
of the SLH-DSA key. -/
opaque debugRsaKey : Nat → Byte
opaque debugSlhKey : Nat → Byte
opaque debugKeyHash : Nat → Nat → Byte

/-- The unique device secret, bytes 0 to 47, fused (R444). -/
opaque uds : Nat → Byte

/-- How many bytes the test of the n-th candidate for a prime draws from the generator of an RSA key (R444, log 102): FIPS 186-5 leaves
its bases and their number to the implementation. -/
opaque testDraws : Nat → Nat

/-- Onialu's two DeviceID certificates, written at manufacture, and the two alias certificates that the DeviceID key issues at a boot (R444), in
DER form: algorithm (0 RSA, 1 SLH-DSA), the seed of the DeviceID key, the seed of the alias key. -/
opaque deviceCert : Nat → List Byte
opaque aliasCert : Nat → List Byte → List Byte → List Byte

/-- The message of measurement M0, from the minimum SVN, the revocation fuses and the debug level (R445): its encoding is not stated. -/
opaque m0Message : Nat → Nat → Nat → List Byte

/-- PWR_PKG_INPUT: the input voltage and current that the package measures, at an FT (a measurement no rule fixes). -/
opaque pkgInput : Nat → BitVec 32

/-- Bits that a die's loop-back compares in the nanosecond that ends at an AON time, and of those the wrong ones, before reduction (R448). -/
opaque loopBits : Nat → Nat → Nat
opaque loopErrors : Nat → Nat → Nat

/-- The n-th byte drawn from the security engine's random source (R449). -/
opaque random : Nat → Byte

/-- A free value for the n-th place where the spec leaves a number open. -/
opaque freeNat : Nat → Nat

/-- The skew of a die's FT at an FT (R47), before reduction to the stated bound. -/
opaque skew : Nat → Nat → Nat

/-- I3C provisioned id (48 bits), bus and device characteristics, and the protocol bits of GETSTATUS: fixed by the interface,
not stated by the spec (R476). -/
opaque i3cPid : Nat → Byte
opaque i3cBcr : Byte
opaque i3cDcr : Byte
opaque i3cStatus : Nat → Byte

/-- Whether an Ethernet port uses priority flow control on a priority (R292): the spec names no setting for it. -/
opaque pfcEnabled : Nat → Nat → Bool

/-- The directory of a die has 1,048,576 entries (R332): into how many sets they fall, as a power of two, and in which set a line's entry goes
(R333), is not stated. -/
opaque dirSetsLog : Nat
opaque dirSet : Nat → Nat

/-- The set of a line within a way of a system-level cache (R328), before reduction to the way's 65,536 lines: not stated. -/
opaque slcSet : Nat → Nat

end Sys2Proof.Config
end

