-- ==== Sys2Proof/Machine/Bits.lean ====
section
/-!
DEFINITION. Bit fields, little-endian byte strings (R6) and checksums: CRC-32 of the board configuration block (R435),
CRC-64 of a link frame (R293).
-/
namespace Sys2Proof.Machine

/-- Bits `hi..lo` of a number. -/
def bitsOf (w hi lo : Nat) : Nat := (w >>> lo) % 2 ^ (hi + 1 - lo)

/-- Bit `n` of a number. -/
def bitOf (w n : Nat) : Bool := w.testBit n

/-- The number with `v` in bits `hi..lo` and every other bit as before. -/
def setBits (w hi lo v : Nat) : Nat :=
  let n := 2 ^ (hi + 1 - lo)
  w - (((w >>> lo) % n) <<< lo) + ((v % n) <<< lo)

/-- 1 for true, 0 for false. -/
def b2n (b : Bool) : Nat := if b then 1 else 0

/-- The little-endian value of a byte string (R6). -/
def leNat : List Byte → Nat
  | [] => 0
  | b :: bs => b.toNat + 256 * leNat bs

/-- The `n` little-endian bytes of a number (R6). -/
def leBytes : Nat → Nat → List Byte
  | 0, _ => []
  | n + 1, v => BitVec.ofNat 8 v :: leBytes n (v / 256)

/-- The little-endian field of `n` bytes at byte `off` of a structure. -/
def fieldAt (bs : List Byte) (off n : Nat) : Nat := leNat ((bs.drop off).take n)

/-- Every byte of the field at `off`, `n` bytes long, is 0 (a reserved field). -/
def zeroAt (bs : List Byte) (off n : Nat) : Bool := fieldAt bs off n == 0

/-- The positions below `n` at which the bit vector `v` holds a 1. -/
def onesOf (n v : Nat) : List Nat := (List.range n).filter (fun i => bitOf v i)

/-- The bit vector with a 1 at each listed position. -/
def bitsAt (l : List Nat) : Nat := l.foldl (fun v i => v ||| 2 ^ i) 0

/-- Number of ones below position `n`. -/
def popCount (n v : Nat) : Nat := (onesOf n v).length

/-- Least integer not below `a / b`. -/
def ceilDiv (a b : Nat) : Nat := if b = 0 then 0 else (a + b - 1) / b

/-- Least `k ≤ fuel` with `n ≤ 2^k`. -/
def clog2 (n : Nat) : Nat := if n ≤ 1 then 0 else Nat.log2 (n - 1) + 1

/-- The first `n` little-endian numbers of `k` bytes each. -/
def wordsLE (k : Nat) : Nat → List Byte → List Nat
  | 0, _ => []
  | n + 1, bs => leNat (bs.take k) :: wordsLE k n (bs.drop k)

/-- The first `n` pieces of `k` elements each. -/
def pieces {α : Type} (k : Nat) : Nat → List α → List (List α)
  | 0, _ => []
  | n + 1, l => l.take k :: pieces k n (l.drop k)

/-- Rotate a `w`-bit number left by `r`. -/
def rotl (w v r : Nat) : Nat := ((v <<< r) % 2 ^ w) ||| ((v % 2 ^ w) >>> (w - r))

/-- One bit-reversed CRC-32 step over a byte (IEEE 802.3 polynomial, reflected form 0xEDB8_8320). -/
def crc32Byte (c : Nat) (b : Byte) : Nat :=
  (List.range 8).foldl
    (fun c _ => if c % 2 = 1 then (c / 2) ^^^ 0xEDB88320 else c / 2) (c ^^^ b.toNat)

/-- CRC-32 (R435): initial value and final complement of all ones, as IEEE 802.3 states. -/
def crc32 (bs : List Byte) : Nat := (bs.foldl crc32Byte 0xFFFFFFFF) ^^^ 0xFFFFFFFF

/-- One CRC-64 step over a byte, most significant bit first, polynomial 0x42F0_E1EB_A9EA_3693 (R293). -/
def crc64Byte (c : Nat) (b : Byte) : Nat :=
  (List.range 8).foldl
    (fun c _ =>
      let c' := (c <<< 1) % 2 ^ 64
      if c.testBit 63 then c' ^^^ 0x42F0E1EBA9EA3693 else c')
    (c ^^^ (b.toNat <<< 56))

/-- CRC-64 of a link frame (R293). -/
def crc64 (bs : List Byte) : Nat := bs.foldl crc64Byte 0

/-- Replace the bytes from position `off` on by `new` (within the length of `bs`). -/
def overlay (bs : List Byte) (off : Nat) (new : List Byte) : List Byte :=
  bs.take off ++ (new.take (bs.length - off)) ++ bs.drop (off + new.length)

/-- Replace element `i` of a list by `f` of it. -/
def modAt {α : Type} (f : α → α) : List α → Nat → List α
  | [], _ => []
  | a :: l, 0 => f a :: l
  | a :: l, i + 1 => a :: modAt f l i

/-- Insert into a list kept in rising order of a key, behind equal keys. -/
def insertBy {α : Type} (key : α → Nat) (a : α) : List α → List α
  | [] => [a]
  | b :: l => if key a < key b then a :: b :: l else b :: insertBy key a l

/-- Sort by a key; equal keys keep their order. -/
def sortBy {α : Type} (key : α → Nat) (l : List α) : List α := l.foldl (fun acc a => insertBy key a acc) []

/-- The list `a, a + 1, …` of `n` numbers. -/
def countFrom (a n : Nat) : List Nat := (List.range n).map (· + a)

end Sys2Proof.Machine
end

