-- ==== Sys2Proof/Machine/Regs.lean ====
section
/-!
DEFINITION. The registers (R7 to R9, R35 and the register tables of chapters 01, 02, 04, 06 and 08 to 18): one constructor per
row of those tables, its place in the register windows, its access code and its reset value. A register that exists in several
slots (engines, channels, contexts, ports, rings …) is one constructor with a slot number.
-/
namespace Sys2Proof.Machine

/-- Where a register exists. -/
inductive Scope where
  /-- once in every die's window -/
  | die
  /-- in D0's window only: elsewhere its offset is unassigned (R16) -/
  | d0
  /-- one register that every die's window shows -/
  | pkg
  /-- in the package-wide block (R36) -/
  | blk
  deriving DecidableEq, Repr

/-- The access codes of R9; a counter (`ctr`) is W1C under the rule of R460, a status word (`st`) mixes RO and W1C fields. -/
inductive Access where
  | ro | rw | wo | w1c | w1s | rc | ctr | st
  deriving DecidableEq, Repr

/-- The registers, by the names of the spec's register tables. -/
inductive Reg where
  | BRG_STATUS | BRG_RETIRED_TX | BRG_RETIRED_RX | BRG_GROUP_SEL | BRG_GROUP_INFO | BRG_CRC_ERR | BRG_REPLAYS
  | BRG_REPAIRS | DIE_ID | DIE_STATUS | DIE_HOPS | DIE_SCRATCH | PKG_ID | PKG_ABI | PKG_STEPPING
  | PKG_DIES_RELEASED | FT_NOW | FT_STATUS | FT_CTRL | FT_OFFSET | FT_PATH_DELAY | FT_SYNC_EDGE
  | FT_HOLDOVER_NS | FT_BEACON_RX | FT_BEACON_BAD | FT_SYNC_BAD | FT_LOCK_LOSS | PLAN_CAPACITY | PLAN_FREE
  | PLAN_DISPATCHED | PLAN_FREE_MAX | PLAN_CTX_STATE | PLAN_HEAT_LEN | PLAN_ARM_FT | PLAN_HEAT_NUM
  | PLAN_STEP_COUNT | PLAN_ENTRIES | PLAN_COMMIT_FT | PLAN_STAGED | PLAN_HOLD_DEFAULT | PLAN_OVER
  | PLAN_LAUNCHES | PLAN_HOLD_WAITS | PLAN_LATE | PLAN_SKIPPED_GATED | PLAN_MAX_WAIT | ENG_PRESENT
  | ENG_ENABLED | ME_STATUS | ME_ACC_LIVE | ME_CUR_OFFSET | ME_LAST_DESC | ME_PRODUCTS | ME_DRAINS | ME_BUSY
  | ME_SHARE_CYCLES | ME_TQ_STALL | ME_TRANSPOSE | ME_ECC_CORR | ENG_VE_ENABLED | ME_SAT | ME_NONFINITE
  | VE_STATUS | VE_PC | VE_CUR_OFFSET | VE_LAST_DESC | VE_INSTR | VE_BUSY | VE_SAT | VE_NONFINITE
  | VE_TQ_WAIT | VE_SHARE_WAIT | VE_ACC_WAIT | VE_TQ_NEXT_SEQ | VE_ECC_CORR | LADD_TAG_SEL | LADD_TAG_INFO
  | LADD_TAG_QEND | LADD_TAGS_FREE | LADD_STATUS | LADD_SEGS_TX | LADD_SEGS_RX | LADD_BLOCKS | LADD_SAT
  | LADD_DROP_TAG | LADD_DROP_GEN | LADD_DROP_HEAT | LADD_DROP_ADDR | LADD_SCALE_MISM | LADD_REF_LAST
  | LADD_REF_LAST_HEAT | LADD_REF_FLAGS | LADD_REF_CTRL | LADD_REF_GO | LADD_REF_SKIP | LADD_REF_LATE
  | LADD_BAR_LAST | UU_PRESENT | UU_ENABLED | UU_STATUS | UU_CUR_SHARD | UU_DIGEST_LO | UU_DIGEST_HI
  | UU_BLOCKS | UU_BLOCKS_FINISHED | UU_BLOCKS_SKIPPED | UU_NONFINITE | UU_SAT | UU_SHARDS_COPIED
  | UU_ECC_CORR | UU_CMP_LAST | UU_CMP_HEAT | UU_CMP_CAND_LO | UU_CMP_CAND_HI | UU_PKG_DIGEST_LO
  | UU_PKG_DIGEST_HI | UU_CMP_DROP | UU_CMP_INCOMPLETE | WS_BANK_OWNED | WS_BANK_OWNER | WS_ECC_CORR
  | WS_ECC_UNCORR | WS_DIRTY_SEL | WS_DIRTY_INFO | WS_TM_STATUS | WS_TM_CUR_TILE | WS_TM_TILES
  | WS_TM_SKIPPED | WS_TM_SAT | WS_TM_NONFINITE | WS_TM_ATOMIC | STK_ILV | STK_FINE | STK_CH_OWNED
  | STK_CH_OWNER0 | STK_CH_OWNER1 | STK_CH_OWNER2 | STK_CH_OWNER3 | STK_LINES_RD | STK_LINES_WR
  | STK_WCB_FILL | STK_WCB_FLUSH | STK_ATOMIC | STK_ATOM_NONFINITE | STK_ECC_CORR | STK_ECC_UNCORR
  | PORT_PKG_CTRL | PORT_ROUTE_SEL | PORT_ROUTE_DATA | PORT_BIAS_SEL | PORT_BIAS_DATA | PORT_WIN_RANGE
  | PORT_WIN_SRC | PORT_WIN_CTRL | PORT_CTRL | PORT_STATUS | PORT_LINK_DELAY | PORT_RETRAIN_FT
  | PORT_TAGS_FREE | PORT_ETH_RINGS | PORT_ETH_DOORBELL | PORT_FRAMES_TX | PORT_FRAMES_RX | PORT_CRC_ERR
  | PORT_REPLAYS | PORT_FEC_CORR | PORT_FEC_UNCORR | PORT_RETRAINS | PORT_DOWN | PORT_DISCARDED
  | PORT_EXPIRED | PORT_NO_ROUTE | PORT_REFUSED | PORT_RSP_DROP | PORT_TIMEOUTS | PORT_ETH_DROP
  | HCX_CORE_PRESENT | HCX_CORE_RUN | HCX_DOMAIN | HCX_DOWN_FT | HCX_WAY_OWNED | HCX_WAY_OWNER
  | HCX_DIR_ENTRIES | HCX_DIR_NACKS | HCX_DIR_RECALLS | HCX_NOT_PRESENT | HCX_SNOOPS | HCX_ECC_CORR
  | HCX_ECC_UNCORR | HCX_CORE_CTRL | HCX_CORE_NACKED | HCX_CORE_RESERVED | PTU_TC_CAPACITY | PTU_TC_PINNED
  | PTU_HITS | PTU_MISSES | PTU_WALK_FAULTS | PTU_INVALS | PTU_ECC_CORR | PTU_CTX_ROOT | PTU_CTX_ALLOT
  | PTU_CTX_PINNED | PTU_CTX_INVAL_FT | PTU_CTX_RETIRING | CMDP_SERVES | CMDP_ACCEPTED | CMDP_ECC_CORR
  | CMDP_CTX_STATUS | CMDP_RING_BASE | CMDP_CPL_BASE | CMDP_RING_SIZE | CMDP_RING_TAIL | CMDP_RING_HEAD
  | CMDP_CPL_HEAD | CMDP_CPL_TAIL | CMDP_OUTSTANDING | CMDP_EVT_LOST | CMDP_RESET_CMDS | CMDP_SEQ_RUNNING
  | CMDP_SEQ_FREE | CMDP_SEQ_REFUSED | CMDP_SEQ_STALLS | CMDP_PREEMPT_AT | VE_TQD_STATUS | VE_TQH_STATUS
  | VE_TQ_ECC_CORR | BRG_RQ_STATUS | BRG_RQ_ECC_CORR | PORT_RQ_STATUS | PORT_RQ_ECC_CORR | PWR_STATUS
  | PWR_LTV | PWR_BUDGET | PWR_POWER | PWR_TEMP_SEL | PWR_TEMP_DATA | PWR_TEMP_MAX | PWR_COEF_SEL
  | PWR_COEF_DATA | PWR_ENERGY_HOST | PWR_BACKSTOP_SLOTS | PWR_BUDGET_MISS | PWR_STATE_ENTRIES | PWR_SR_WAKES
  | PWR_CTX_ENERGY | PWR_PKG_CAP | PWR_PKG_POWER | PWR_PKG_INPUT | PWR_TRIP | SEC_BOOT_STAGE
  | SEC_BOOT_RESULT | SEC_BOOT_TIME | SEC_SVN_MIN | SEC_HCX_RESET | SEC_IMAGE_CTRL | SEC_IMAGE_ADDR
  | SEC_IMAGE_LEN | SEC_IMAGE_STATUS | SEC_ATTEST_CTRL | SEC_ATTEST_DEST | SEC_ATTEST_STATUS
  | SEC_ATTEST_NONCE | SEC_EXTEND_ADDR | SEC_EXTEND_CTRL | SEC_DEBUG_STATUS | SEC_DEBUG_CHAL | SEC_UID
  | SEC_MEAS | DFT_IDCODE | DFT_SELFTEST | DFT_MODE | DFT_LB_BITS | DFT_LB_ERRORS | DFT_CHAIN | ERR_FQ_STATUS
  | ERR_FQ_LOST | ERR_FQ_FIRST_LOST | ERR_FQ_LAST_LOST | ERR_FQ_ECC_CORR | ERR_FQ_RELEASE | ERR_FQ_NEXT_SEQ
  | ERR_NOTIFY | ERR_SAT_EVENTS | ERR_RAISED | ERR_INJECT | ERR_FQ_REC0 | ERR_FQ_REC1 | ERR_FQ_REC2
  | ERR_FQ_REC3 | MDP_STATUS | MDP_Q_ADDR | MDP_H_ADDR | MDP_H_DATA | MDP_WQ_STATUS | MDP_WQ_LOST
  | MDP_WQ_ECC_CORR | MDP_Q_TXNS | MDP_I3C_DROPPED | MDP_I3C_ADDR
  deriving DecidableEq, Repr

/-- The row of a register: offset in the die window (or in the package-wide block), slots, stride, scope, access, the value after a
package reset (0 where the table says "boot" or "fused"; those have their own rules), and for an RW or W1S register the bits a
plain write sets. -/
structure RegInfo where
  off : Nat
  slots : Nat
  stride : Nat
  scope : Scope
  access : Access
  reset : Nat
  mask : Nat
  deriving DecidableEq, Repr

/-- The register table. -/
def regInfo : Reg → RegInfo
  | .BRG_STATUS => ⟨0x80000, 3, 0x100, .die, .ro, 0x0, 0x0⟩
  | .BRG_RETIRED_TX => ⟨0x80008, 3, 0x100, .die, .ro, 0x0, 0x0⟩
  | .BRG_RETIRED_RX => ⟨0x80010, 3, 0x100, .die, .ro, 0x0, 0x0⟩
  | .BRG_GROUP_SEL => ⟨0x80018, 3, 0x100, .die, .rw, 0x0, 0x3F⟩
  | .BRG_GROUP_INFO => ⟨0x80020, 3, 0x100, .die, .ro, 0x0, 0x0⟩
  | .BRG_CRC_ERR => ⟨0x80028, 3, 0x100, .die, .ctr, 0x0, 0x0⟩
  | .BRG_REPLAYS => ⟨0x80030, 3, 0x100, .die, .ctr, 0x0, 0x0⟩
  | .BRG_REPAIRS => ⟨0x80038, 3, 0x100, .die, .ctr, 0x0, 0x0⟩
  | .DIE_ID => ⟨0x0, 1, 0x0, .die, .ro, 0x0, 0x0⟩
  | .DIE_STATUS => ⟨0x8, 1, 0x0, .die, .ro, 0x0, 0x0⟩
  | .DIE_HOPS => ⟨0x10, 1, 0x0, .die, .ro, 0x0, 0x0⟩
  | .DIE_SCRATCH => ⟨0x18, 1, 0x0, .die, .rw, 0x0, 0xFFFFFFFFFFFFFFFF⟩
  | .PKG_ID => ⟨0x0, 1, 0x0, .blk, .ro, 0x0, 0x0⟩
  | .PKG_ABI => ⟨0x8, 1, 0x0, .blk, .ro, 0x0, 0x0⟩
  | .PKG_STEPPING => ⟨0x10, 1, 0x0, .blk, .ro, 0x0, 0x0⟩
  | .PKG_DIES_RELEASED => ⟨0x18, 1, 0x0, .blk, .ro, 0x0, 0x0⟩
  | .FT_NOW => ⟨0x10000, 1, 0x0, .die, .ro, 0x0, 0x0⟩
  | .FT_STATUS => ⟨0x10008, 1, 0x0, .pkg, .ro, 0x0, 0x0⟩
  | .FT_CTRL => ⟨0x10010, 1, 0x0, .d0, .rw, 0x0, 0x0⟩
  | .FT_OFFSET => ⟨0x10018, 1, 0x0, .pkg, .ro, 0x0, 0x0⟩
  | .FT_PATH_DELAY => ⟨0x10020, 1, 0x0, .pkg, .ro, 0x0, 0x0⟩
  | .FT_SYNC_EDGE => ⟨0x10028, 1, 0x0, .pkg, .ro, 0x0, 0x0⟩
  | .FT_HOLDOVER_NS => ⟨0x10030, 1, 0x0, .pkg, .ro, 0x0, 0x0⟩
  | .FT_BEACON_RX => ⟨0x10038, 1, 0x0, .pkg, .ctr, 0x0, 0x0⟩
  | .FT_BEACON_BAD => ⟨0x10040, 1, 0x0, .pkg, .ctr, 0x0, 0x0⟩
  | .FT_SYNC_BAD => ⟨0x10048, 1, 0x0, .pkg, .ctr, 0x0, 0x0⟩
  | .FT_LOCK_LOSS => ⟨0x10050, 1, 0x0, .pkg, .ctr, 0x0, 0x0⟩
  | .PLAN_CAPACITY => ⟨0x20000, 1, 0x0, .die, .ro, 0x0, 0x0⟩
  | .PLAN_FREE => ⟨0x20008, 1, 0x0, .die, .ro, 0x10000, 0x0⟩
  | .PLAN_DISPATCHED => ⟨0x20010, 1, 0x0, .die, .ctr, 0x0, 0x0⟩
  | .PLAN_FREE_MAX => ⟨0x20018, 1, 0x0, .die, .ro, 0x10000, 0x0⟩
  | .PLAN_CTX_STATE => ⟨0x21000, 16, 0x100, .die, .ro, 0x0, 0x0⟩
  | .PLAN_HEAT_LEN => ⟨0x21008, 16, 0x100, .die, .ro, 0x0, 0x0⟩
  | .PLAN_ARM_FT => ⟨0x21010, 16, 0x100, .die, .ro, 0x0, 0x0⟩
  | .PLAN_HEAT_NUM => ⟨0x21018, 16, 0x100, .die, .ro, 0x0, 0x0⟩
  | .PLAN_STEP_COUNT => ⟨0x21020, 16, 0x100, .die, .ro, 0x0, 0x0⟩
  | .PLAN_ENTRIES => ⟨0x21028, 16, 0x100, .die, .ro, 0x0, 0x0⟩
  | .PLAN_COMMIT_FT => ⟨0x21030, 16, 0x100, .die, .ro, 0x0, 0x0⟩
  | .PLAN_STAGED => ⟨0x21038, 16, 0x100, .die, .ro, 0x0, 0x0⟩
  | .PLAN_HOLD_DEFAULT => ⟨0x21040, 16, 0x100, .die, .ro, 0x0, 0x0⟩
  | .PLAN_OVER => ⟨0x21048, 16, 0x100, .die, .ro, 0x0, 0x0⟩
  | .PLAN_LAUNCHES => ⟨0x21050, 16, 0x100, .die, .ctr, 0x0, 0x0⟩
  | .PLAN_HOLD_WAITS => ⟨0x21058, 16, 0x100, .die, .ctr, 0x0, 0x0⟩
  | .PLAN_LATE => ⟨0x21060, 16, 0x100, .die, .ctr, 0x0, 0x0⟩
  | .PLAN_SKIPPED_GATED => ⟨0x21068, 16, 0x100, .die, .ctr, 0x0, 0x0⟩
  | .PLAN_MAX_WAIT => ⟨0x21070, 16, 0x100, .die, .rc, 0x0, 0x0⟩
  | .ENG_PRESENT => ⟨0xC0000, 1, 0x0, .die, .ro, 0x0, 0x0⟩
  | .ENG_ENABLED => ⟨0xC0008, 1, 0x0, .die, .ro, 0xFFFFFFFFFFFF, 0x0⟩
  | .ME_STATUS => ⟨0xC1000, 48, 0x200, .die, .ro, 0x0, 0x0⟩
  | .ME_ACC_LIVE => ⟨0xC1008, 48, 0x200, .die, .ro, 0x0, 0x0⟩
  | .ME_CUR_OFFSET => ⟨0xC1010, 48, 0x200, .die, .ro, 0x0, 0x0⟩
  | .ME_LAST_DESC => ⟨0xC1018, 48, 0x200, .die, .ro, 0x0, 0x0⟩
  | .ME_PRODUCTS => ⟨0xC1020, 48, 0x200, .die, .ctr, 0x0, 0x0⟩
  | .ME_DRAINS => ⟨0xC1028, 48, 0x200, .die, .ctr, 0x0, 0x0⟩
  | .ME_BUSY => ⟨0xC1030, 48, 0x200, .die, .ctr, 0x0, 0x0⟩
  | .ME_SHARE_CYCLES => ⟨0xC1038, 48, 0x200, .die, .ctr, 0x0, 0x0⟩
  | .ME_TQ_STALL => ⟨0xC1040, 48, 0x200, .die, .ctr, 0x0, 0x0⟩
  | .ME_TRANSPOSE => ⟨0xC1048, 48, 0x200, .die, .ctr, 0x0, 0x0⟩
  | .ME_ECC_CORR => ⟨0xC1050, 48, 0x200, .die, .ctr, 0x0, 0x0⟩
  | .ENG_VE_ENABLED => ⟨0xC0010, 1, 0x0, .die, .ro, 0xFFFFFFFFFFFF, 0x0⟩
  | .ME_SAT => ⟨0xC1058, 48, 0x200, .die, .ctr, 0x0, 0x0⟩
  | .ME_NONFINITE => ⟨0xC1060, 48, 0x200, .die, .ctr, 0x0, 0x0⟩
  | .VE_STATUS => ⟨0xC1100, 48, 0x200, .die, .ro, 0x0, 0x0⟩
  | .VE_PC => ⟨0xC1108, 48, 0x200, .die, .ro, 0x0, 0x0⟩
  | .VE_CUR_OFFSET => ⟨0xC1110, 48, 0x200, .die, .ro, 0x0, 0x0⟩
  | .VE_LAST_DESC => ⟨0xC1118, 48, 0x200, .die, .ro, 0x0, 0x0⟩
  | .VE_INSTR => ⟨0xC1120, 48, 0x200, .die, .ctr, 0x0, 0x0⟩
  | .VE_BUSY => ⟨0xC1128, 48, 0x200, .die, .ctr, 0x0, 0x0⟩
  | .VE_SAT => ⟨0xC1130, 48, 0x200, .die, .ctr, 0x0, 0x0⟩
  | .VE_NONFINITE => ⟨0xC1138, 48, 0x200, .die, .ctr, 0x0, 0x0⟩
  | .VE_TQ_WAIT => ⟨0xC1140, 48, 0x200, .die, .ctr, 0x0, 0x0⟩
  | .VE_SHARE_WAIT => ⟨0xC1148, 48, 0x200, .die, .ctr, 0x0, 0x0⟩
  | .VE_ACC_WAIT => ⟨0xC1150, 48, 0x200, .die, .ctr, 0x0, 0x0⟩
  | .VE_TQ_NEXT_SEQ => ⟨0xC1158, 48, 0x200, .die, .ro, 0x0, 0x0⟩
  | .VE_ECC_CORR => ⟨0xC1160, 48, 0x200, .die, .ctr, 0x0, 0x0⟩
  | .LADD_TAG_SEL => ⟨0xA0000, 1, 0x0, .die, .rw, 0x0, 0xFFF⟩
  | .LADD_TAG_INFO => ⟨0xA0008, 1, 0x0, .die, .ro, 0x0, 0x0⟩
  | .LADD_TAG_QEND => ⟨0xA0010, 1, 0x0, .die, .ro, 0x0, 0x0⟩
  | .LADD_TAGS_FREE => ⟨0xA0018, 1, 0x0, .pkg, .ro, 0x1000, 0x0⟩
  | .LADD_STATUS => ⟨0xA0100, 2, 0x100, .die, .ro, 0x0, 0x0⟩
  | .LADD_SEGS_TX => ⟨0xA0108, 2, 0x100, .die, .ctr, 0x0, 0x0⟩
  | .LADD_SEGS_RX => ⟨0xA0110, 2, 0x100, .die, .ctr, 0x0, 0x0⟩
  | .LADD_BLOCKS => ⟨0xA0118, 2, 0x100, .die, .ctr, 0x0, 0x0⟩
  | .LADD_SAT => ⟨0xA0120, 2, 0x100, .die, .ctr, 0x0, 0x0⟩
  | .LADD_DROP_TAG => ⟨0xA0128, 2, 0x100, .die, .ctr, 0x0, 0x0⟩
  | .LADD_DROP_GEN => ⟨0xA0130, 2, 0x100, .die, .ctr, 0x0, 0x0⟩
  | .LADD_DROP_HEAT => ⟨0xA0138, 2, 0x100, .die, .ctr, 0x0, 0x0⟩
  | .LADD_DROP_ADDR => ⟨0xA0140, 2, 0x100, .die, .ctr, 0x0, 0x0⟩
  | .LADD_SCALE_MISM => ⟨0xA0148, 2, 0x100, .die, .ctr, 0x0, 0x0⟩
  | .LADD_REF_LAST => ⟨0xA0800, 16, 0x40, .pkg, .ro, 0x0, 0x0⟩
  | .LADD_REF_LAST_HEAT => ⟨0xA0808, 16, 0x40, .pkg, .ro, 0x0, 0x0⟩
  | .LADD_REF_FLAGS => ⟨0xA0810, 16, 0x40, .pkg, .ro, 0x0, 0x0⟩
  | .LADD_REF_CTRL => ⟨0xA0818, 16, 0x40, .pkg, .w1s, 0x0, 0x0⟩
  | .LADD_REF_GO => ⟨0xA0820, 16, 0x40, .pkg, .ctr, 0x0, 0x0⟩
  | .LADD_REF_SKIP => ⟨0xA0828, 16, 0x40, .pkg, .ctr, 0x0, 0x0⟩
  | .LADD_REF_LATE => ⟨0xA0830, 16, 0x40, .pkg, .ctr, 0x0, 0x0⟩
  | .LADD_BAR_LAST => ⟨0xA0838, 16, 0x40, .pkg, .ro, 0x0, 0x0⟩
  | .UU_PRESENT => ⟨0x70000, 1, 0x0, .die, .ro, 0x0, 0x0⟩
  | .UU_ENABLED => ⟨0x70008, 1, 0x0, .die, .ro, 0xFFFFFFFFFFFFFFFF, 0x0⟩
  | .UU_STATUS => ⟨0x71000, 64, 0x80, .die, .ro, 0x0, 0x0⟩
  | .UU_CUR_SHARD => ⟨0x71008, 64, 0x80, .die, .ro, 0x0, 0x0⟩
  | .UU_DIGEST_LO => ⟨0x71010, 64, 0x80, .die, .ro, 0x0, 0x0⟩
  | .UU_DIGEST_HI => ⟨0x71018, 64, 0x80, .die, .ro, 0x0, 0x0⟩
  | .UU_BLOCKS => ⟨0x71020, 64, 0x80, .die, .ctr, 0x0, 0x0⟩
  | .UU_BLOCKS_FINISHED => ⟨0x71028, 64, 0x80, .die, .ctr, 0x0, 0x0⟩
  | .UU_BLOCKS_SKIPPED => ⟨0x71030, 64, 0x80, .die, .ctr, 0x0, 0x0⟩
  | .UU_NONFINITE => ⟨0x71038, 64, 0x80, .die, .ctr, 0x0, 0x0⟩
  | .UU_SAT => ⟨0x71040, 64, 0x80, .die, .ctr, 0x0, 0x0⟩
  | .UU_SHARDS_COPIED => ⟨0x71048, 64, 0x80, .die, .ctr, 0x0, 0x0⟩
  | .UU_ECC_CORR => ⟨0x71050, 64, 0x80, .die, .ctr, 0x0, 0x0⟩
  | .UU_CMP_LAST => ⟨0x73000, 16, 0x40, .pkg, .ro, 0x0, 0x0⟩
  | .UU_CMP_HEAT => ⟨0x73008, 16, 0x40, .pkg, .ro, 0x0, 0x0⟩
  | .UU_CMP_CAND_LO => ⟨0x73010, 16, 0x40, .pkg, .ro, 0x0, 0x0⟩
  | .UU_CMP_CAND_HI => ⟨0x73018, 16, 0x40, .pkg, .ro, 0x0, 0x0⟩
  | .UU_PKG_DIGEST_LO => ⟨0x73020, 16, 0x40, .pkg, .ro, 0x0, 0x0⟩
  | .UU_PKG_DIGEST_HI => ⟨0x73028, 16, 0x40, .pkg, .ro, 0x0, 0x0⟩
  | .UU_CMP_DROP => ⟨0x73030, 16, 0x40, .pkg, .ctr, 0x0, 0x0⟩
  | .UU_CMP_INCOMPLETE => ⟨0x73038, 16, 0x40, .pkg, .ctr, 0x0, 0x0⟩
  | .WS_BANK_OWNED => ⟨0x50000, 1, 0x0, .die, .ro, 0x0, 0x0⟩
  | .WS_BANK_OWNER => ⟨0x50008, 1, 0x0, .die, .ro, 0x0, 0x0⟩
  | .WS_ECC_CORR => ⟨0x50010, 1, 0x0, .die, .ctr, 0x0, 0x0⟩
  | .WS_ECC_UNCORR => ⟨0x50018, 1, 0x0, .die, .ctr, 0x0, 0x0⟩
  | .WS_DIRTY_SEL => ⟨0x50020, 1, 0x0, .die, .rw, 0x0, 0x3FFFF⟩
  | .WS_DIRTY_INFO => ⟨0x50028, 1, 0x0, .die, .ro, 0x1, 0x0⟩
  | .WS_TM_STATUS => ⟨0x50100, 16, 0x40, .die, .ro, 0x0, 0x0⟩
  | .WS_TM_CUR_TILE => ⟨0x50108, 16, 0x40, .die, .ro, 0x0, 0x0⟩
  | .WS_TM_TILES => ⟨0x50110, 16, 0x40, .die, .ctr, 0x0, 0x0⟩
  | .WS_TM_SKIPPED => ⟨0x50118, 16, 0x40, .die, .ctr, 0x0, 0x0⟩
  | .WS_TM_SAT => ⟨0x50120, 16, 0x40, .die, .ctr, 0x0, 0x0⟩
  | .WS_TM_NONFINITE => ⟨0x50128, 16, 0x40, .die, .ctr, 0x0, 0x0⟩
  | .WS_TM_ATOMIC => ⟨0x50130, 16, 0x40, .die, .ctr, 0x0, 0x0⟩
  | .STK_ILV => ⟨0x60000, 1, 0x0, .die, .rw, 0x0, 0x0⟩
  | .STK_FINE => ⟨0x60008, 1, 0x0, .die, .ro, 0x0, 0x0⟩
  | .STK_CH_OWNED => ⟨0x60010, 1, 0x0, .die, .ro, 0x0, 0x0⟩
  | .STK_CH_OWNER0 => ⟨0x60018, 1, 0x0, .die, .ro, 0x0, 0x0⟩
  | .STK_CH_OWNER1 => ⟨0x60020, 1, 0x0, .die, .ro, 0x0, 0x0⟩
  | .STK_CH_OWNER2 => ⟨0x60028, 1, 0x0, .die, .ro, 0x0, 0x0⟩
  | .STK_CH_OWNER3 => ⟨0x60030, 1, 0x0, .die, .ro, 0x0, 0x0⟩
  | .STK_LINES_RD => ⟨0x61000, 64, 0x40, .die, .ctr, 0x0, 0x0⟩
  | .STK_LINES_WR => ⟨0x61008, 64, 0x40, .die, .ctr, 0x0, 0x0⟩
  | .STK_WCB_FILL => ⟨0x61010, 64, 0x40, .die, .ctr, 0x0, 0x0⟩
  | .STK_WCB_FLUSH => ⟨0x61018, 64, 0x40, .die, .ctr, 0x0, 0x0⟩
  | .STK_ATOMIC => ⟨0x61020, 64, 0x40, .die, .ctr, 0x0, 0x0⟩
  | .STK_ATOM_NONFINITE => ⟨0x61028, 64, 0x40, .die, .ctr, 0x0, 0x0⟩
  | .STK_ECC_CORR => ⟨0x61030, 64, 0x40, .die, .ctr, 0x0, 0x0⟩
  | .STK_ECC_UNCORR => ⟨0x61038, 64, 0x40, .die, .ctr, 0x0, 0x0⟩
  | .PORT_PKG_CTRL => ⟨0x90000, 1, 0x0, .pkg, .rw, 0x0, 0x1⟩
  | .PORT_ROUTE_SEL => ⟨0x90008, 1, 0x0, .pkg, .rw, 0x0, 0x3FFF⟩
  | .PORT_ROUTE_DATA => ⟨0x90010, 1, 0x0, .pkg, .rw, 0x0, 0x0⟩
  | .PORT_BIAS_SEL => ⟨0x90018, 1, 0x0, .pkg, .rw, 0x0, 0x3FFF⟩
  | .PORT_BIAS_DATA => ⟨0x90020, 1, 0x0, .pkg, .rw, 0x0, 0x0⟩
  | .PORT_WIN_RANGE => ⟨0x91000, 64, 0x20, .pkg, .rw, 0x0, 0xFFFFF000FFFFF⟩
  | .PORT_WIN_SRC => ⟨0x91008, 64, 0x20, .pkg, .rw, 0x0, 0x3FFF3FFF⟩
  | .PORT_WIN_CTRL => ⟨0x91010, 64, 0x20, .pkg, .rw, 0x0, 0x0⟩
  | .PORT_CTRL => ⟨0x90100, 2, 0x100, .die, .rw, 0x0, 0x0⟩
  | .PORT_STATUS => ⟨0x90108, 2, 0x100, .die, .ro, 0x0, 0x0⟩
  | .PORT_LINK_DELAY => ⟨0x90110, 2, 0x100, .die, .ro, 0x0, 0x0⟩
  | .PORT_RETRAIN_FT => ⟨0x90118, 2, 0x100, .die, .ro, 0x0, 0x0⟩
  | .PORT_TAGS_FREE => ⟨0x90120, 2, 0x100, .die, .ro, 0x1000, 0x0⟩
  | .PORT_ETH_RINGS => ⟨0x90128, 2, 0x100, .die, .rw, 0x0, 0xFFFFFFFFFFFFFFFF⟩
  | .PORT_ETH_DOORBELL => ⟨0x90130, 2, 0x100, .die, .wo, 0x0, 0x0⟩
  | .PORT_FRAMES_TX => ⟨0x90138, 2, 0x100, .die, .ctr, 0x0, 0x0⟩
  | .PORT_FRAMES_RX => ⟨0x90140, 2, 0x100, .die, .ctr, 0x0, 0x0⟩
  | .PORT_CRC_ERR => ⟨0x90148, 2, 0x100, .die, .ctr, 0x0, 0x0⟩
  | .PORT_REPLAYS => ⟨0x90150, 2, 0x100, .die, .ctr, 0x0, 0x0⟩
  | .PORT_FEC_CORR => ⟨0x90158, 2, 0x100, .die, .ctr, 0x0, 0x0⟩
  | .PORT_FEC_UNCORR => ⟨0x90160, 2, 0x100, .die, .ctr, 0x0, 0x0⟩
  | .PORT_RETRAINS => ⟨0x90168, 2, 0x100, .die, .ctr, 0x0, 0x0⟩
  | .PORT_DOWN => ⟨0x90170, 2, 0x100, .die, .ctr, 0x0, 0x0⟩
  | .PORT_DISCARDED => ⟨0x90178, 2, 0x100, .die, .ctr, 0x0, 0x0⟩
  | .PORT_EXPIRED => ⟨0x90180, 2, 0x100, .die, .ctr, 0x0, 0x0⟩
  | .PORT_NO_ROUTE => ⟨0x90188, 2, 0x100, .die, .ctr, 0x0, 0x0⟩
  | .PORT_REFUSED => ⟨0x90190, 2, 0x100, .die, .ctr, 0x0, 0x0⟩
  | .PORT_RSP_DROP => ⟨0x90198, 2, 0x100, .die, .ctr, 0x0, 0x0⟩
  | .PORT_TIMEOUTS => ⟨0x901A0, 2, 0x100, .die, .ctr, 0x0, 0x0⟩
  | .PORT_ETH_DROP => ⟨0x901A8, 2, 0x100, .die, .ctr, 0x0, 0x0⟩
  | .HCX_CORE_PRESENT => ⟨0xB0000, 1, 0x0, .die, .ro, 0x0, 0x0⟩
  | .HCX_CORE_RUN => ⟨0xB0008, 1, 0x0, .die, .ro, 0x0, 0x0⟩
  | .HCX_DOMAIN => ⟨0xB0010, 1, 0x0, .die, .ro, 0x0, 0x0⟩
  | .HCX_DOWN_FT => ⟨0xB0018, 1, 0x0, .die, .ro, 0x0, 0x0⟩
  | .HCX_WAY_OWNED => ⟨0xB0020, 1, 0x0, .die, .ro, 0x0, 0x0⟩
  | .HCX_WAY_OWNER => ⟨0xB0028, 1, 0x0, .die, .ro, 0x0, 0x0⟩
  | .HCX_DIR_ENTRIES => ⟨0xB0030, 1, 0x0, .die, .ro, 0x0, 0x0⟩
  | .HCX_DIR_NACKS => ⟨0xB0038, 1, 0x0, .die, .ctr, 0x0, 0x0⟩
  | .HCX_DIR_RECALLS => ⟨0xB0040, 1, 0x0, .die, .ctr, 0x0, 0x0⟩
  | .HCX_NOT_PRESENT => ⟨0xB0048, 1, 0x0, .die, .ctr, 0x0, 0x0⟩
  | .HCX_SNOOPS => ⟨0xB0050, 1, 0x0, .die, .ctr, 0x0, 0x0⟩
  | .HCX_ECC_CORR => ⟨0xB0058, 1, 0x0, .die, .ctr, 0x0, 0x0⟩
  | .HCX_ECC_UNCORR => ⟨0xB0060, 1, 0x0, .die, .ctr, 0x0, 0x0⟩
  | .HCX_CORE_CTRL => ⟨0xB1000, 24, 0x40, .die, .rw, 0x10, 0x0⟩
  | .HCX_CORE_NACKED => ⟨0xB1008, 24, 0x40, .die, .ctr, 0x0, 0x0⟩
  | .HCX_CORE_RESERVED => ⟨0xB1010, 24, 0x40, .die, .ctr, 0x0, 0x0⟩
  | .PTU_TC_CAPACITY => ⟨0x40000, 1, 0x0, .die, .ro, 0x0, 0x0⟩
  | .PTU_TC_PINNED => ⟨0x40008, 1, 0x0, .die, .ro, 0x0, 0x0⟩
  | .PTU_HITS => ⟨0x40010, 1, 0x0, .die, .ctr, 0x0, 0x0⟩
  | .PTU_MISSES => ⟨0x40018, 1, 0x0, .die, .ctr, 0x0, 0x0⟩
  | .PTU_WALK_FAULTS => ⟨0x40020, 1, 0x0, .die, .ctr, 0x0, 0x0⟩
  | .PTU_INVALS => ⟨0x40028, 1, 0x0, .die, .ctr, 0x0, 0x0⟩
  | .PTU_ECC_CORR => ⟨0x40030, 1, 0x0, .die, .ctr, 0x0, 0x0⟩
  | .PTU_CTX_ROOT => ⟨0x41000, 16, 0x40, .pkg, .ro, 0x0, 0x0⟩
  | .PTU_CTX_ALLOT => ⟨0x41008, 16, 0x40, .die, .ro, 0x0, 0x0⟩
  | .PTU_CTX_PINNED => ⟨0x41010, 16, 0x40, .die, .ro, 0x0, 0x0⟩
  | .PTU_CTX_INVAL_FT => ⟨0x41018, 16, 0x40, .die, .ro, 0x0, 0x0⟩
  | .PTU_CTX_RETIRING => ⟨0x41020, 16, 0x40, .die, .ro, 0x0, 0x0⟩
  | .CMDP_SERVES => ⟨0x30000, 1, 0x0, .die, .ro, 0x10000, 0x0⟩
  | .CMDP_ACCEPTED => ⟨0x30008, 1, 0x0, .die, .ctr, 0x0, 0x0⟩
  | .CMDP_ECC_CORR => ⟨0x30010, 1, 0x0, .die, .ctr, 0x0, 0x0⟩
  | .CMDP_CTX_STATUS => ⟨0x31000, 17, 0x80, .pkg, .ro, 0x0, 0x0⟩
  | .CMDP_RING_BASE => ⟨0x31008, 17, 0x80, .pkg, .ro, 0x0, 0xFFFFFFFFFFFFFFFF⟩
  | .CMDP_CPL_BASE => ⟨0x31010, 17, 0x80, .pkg, .ro, 0x0, 0xFFFFFFFFFFFFFFFF⟩
  | .CMDP_RING_SIZE => ⟨0x31018, 17, 0x80, .pkg, .ro, 0x0, 0x0⟩
  | .CMDP_RING_TAIL => ⟨0x31020, 17, 0x80, .pkg, .rw, 0x0, 0x0⟩
  | .CMDP_RING_HEAD => ⟨0x31028, 17, 0x80, .pkg, .ro, 0x0, 0x0⟩
  | .CMDP_CPL_HEAD => ⟨0x31030, 17, 0x80, .pkg, .rw, 0x0, 0x0⟩
  | .CMDP_CPL_TAIL => ⟨0x31038, 17, 0x80, .pkg, .ro, 0x10000, 0x0⟩
  | .CMDP_OUTSTANDING => ⟨0x31040, 17, 0x80, .pkg, .ro, 0x0, 0x0⟩
  | .CMDP_EVT_LOST => ⟨0x31048, 17, 0x80, .pkg, .ctr, 0x0, 0x0⟩
  | .CMDP_RESET_CMDS => ⟨0x31050, 17, 0x80, .pkg, .ro, 0x0, 0x0⟩
  | .CMDP_SEQ_RUNNING => ⟨0x31058, 17, 0x80, .pkg, .ro, 0x0, 0x0⟩
  | .CMDP_SEQ_FREE => ⟨0x31060, 17, 0x80, .pkg, .ro, 0x0, 0x0⟩
  | .CMDP_SEQ_REFUSED => ⟨0x31068, 17, 0x80, .pkg, .ctr, 0x0, 0x0⟩
  | .CMDP_SEQ_STALLS => ⟨0x31070, 17, 0x80, .pkg, .ctr, 0x0, 0x0⟩
  | .CMDP_PREEMPT_AT => ⟨0x31078, 17, 0x80, .pkg, .ro, 0x0, 0x0⟩
  | .VE_TQD_STATUS => ⟨0xC1168, 48, 0x200, .die, .st, 0x1000000000000, 0x0⟩
  | .VE_TQH_STATUS => ⟨0xC1170, 48, 0x200, .die, .st, 0x1000000000000, 0x0⟩
  | .VE_TQ_ECC_CORR => ⟨0xC1178, 48, 0x200, .die, .ctr, 0x0, 0x0⟩
  | .BRG_RQ_STATUS => ⟨0x80040, 3, 0x100, .die, .st, 0x1000000000000, 0x0⟩
  | .BRG_RQ_ECC_CORR => ⟨0x80048, 3, 0x100, .die, .ctr, 0x0, 0x0⟩
  | .PORT_RQ_STATUS => ⟨0x901B0, 2, 0x100, .die, .st, 0x1000000000000, 0x0⟩
  | .PORT_RQ_ECC_CORR => ⟨0x901B8, 2, 0x100, .die, .ctr, 0x0, 0x0⟩
  | .PWR_STATUS => ⟨0xD0000, 1, 0x0, .die, .ro, 0x0, 0x0⟩
  | .PWR_LTV => ⟨0xD0008, 1, 0x0, .die, .ro, 0x0, 0x0⟩
  | .PWR_BUDGET => ⟨0xD0010, 1, 0x0, .die, .ro, 0x0, 0x0⟩
  | .PWR_POWER => ⟨0xD0018, 1, 0x0, .die, .ro, 0x0, 0x0⟩
  | .PWR_TEMP_SEL => ⟨0xD0020, 1, 0x0, .die, .rw, 0x0, 0x0⟩
  | .PWR_TEMP_DATA => ⟨0xD0028, 1, 0x0, .die, .ro, 0x0, 0x0⟩
  | .PWR_TEMP_MAX => ⟨0xD0030, 1, 0x0, .die, .rc, 0x0, 0x0⟩
  | .PWR_COEF_SEL => ⟨0xD0038, 1, 0x0, .die, .rw, 0x0, 0x3F⟩
  | .PWR_COEF_DATA => ⟨0xD0040, 1, 0x0, .die, .ro, 0x0, 0x0⟩
  | .PWR_ENERGY_HOST => ⟨0xD0048, 1, 0x0, .die, .ctr, 0x0, 0x0⟩
  | .PWR_BACKSTOP_SLOTS => ⟨0xD0050, 1, 0x0, .die, .ctr, 0x0, 0x0⟩
  | .PWR_BUDGET_MISS => ⟨0xD0058, 1, 0x0, .die, .ctr, 0x0, 0x0⟩
  | .PWR_STATE_ENTRIES => ⟨0xD0060, 1, 0x0, .die, .ctr, 0x0, 0x0⟩
  | .PWR_SR_WAKES => ⟨0xD0068, 1, 0x0, .die, .ctr, 0x0, 0x0⟩
  | .PWR_CTX_ENERGY => ⟨0xD1000, 16, 0x10, .die, .ctr, 0x0, 0x0⟩
  | .PWR_PKG_CAP => ⟨0xD0800, 1, 0x0, .d0, .rw, 0x401640, 0x0⟩
  | .PWR_PKG_POWER => ⟨0xD0808, 1, 0x0, .d0, .ro, 0x0, 0x0⟩
  | .PWR_PKG_INPUT => ⟨0xD0810, 1, 0x0, .d0, .ro, 0x0, 0x0⟩
  | .PWR_TRIP => ⟨0xD0818, 1, 0x0, .d0, .ro, 0x0, 0x0⟩
  | .SEC_BOOT_STAGE => ⟨0xF0000, 1, 0x0, .d0, .ro, 0x0, 0x0⟩
  | .SEC_BOOT_RESULT => ⟨0xF0008, 1, 0x0, .d0, .ro, 0x0, 0x0⟩
  | .SEC_BOOT_TIME => ⟨0xF0010, 1, 0x0, .d0, .ro, 0x0, 0x0⟩
  | .SEC_SVN_MIN => ⟨0xF0018, 1, 0x0, .d0, .ro, 0x0, 0x0⟩
  | .SEC_HCX_RESET => ⟨0xF0020, 1, 0x0, .d0, .wo, 0x0, 0x0⟩
  | .SEC_IMAGE_CTRL => ⟨0xF0028, 1, 0x0, .d0, .w1s, 0x0, 0x0⟩
  | .SEC_IMAGE_ADDR => ⟨0xF0030, 1, 0x0, .d0, .rw, 0x0, 0xFFFFFFFFFFFFFFFF⟩
  | .SEC_IMAGE_LEN => ⟨0xF0038, 1, 0x0, .d0, .rw, 0x0, 0xFFFFFFFFFFFFFFFF⟩
  | .SEC_IMAGE_STATUS => ⟨0xF0040, 1, 0x0, .d0, .ro, 0x0, 0x0⟩
  | .SEC_ATTEST_CTRL => ⟨0xF0048, 1, 0x0, .d0, .w1s, 0x0, 0x3⟩
  | .SEC_ATTEST_DEST => ⟨0xF0050, 1, 0x0, .d0, .rw, 0x0, 0xFFFFFFFFFFFFFFFF⟩
  | .SEC_ATTEST_STATUS => ⟨0xF0058, 1, 0x0, .d0, .ro, 0x0, 0x0⟩
  | .SEC_ATTEST_NONCE => ⟨0xF0060, 6, 0x8, .d0, .rw, 0x0, 0xFFFFFFFFFFFFFFFF⟩
  | .SEC_EXTEND_ADDR => ⟨0xF0090, 1, 0x0, .d0, .rw, 0x0, 0xFFFFFFFFFFFFFFFF⟩
  | .SEC_EXTEND_CTRL => ⟨0xF0098, 1, 0x0, .d0, .wo, 0x0, 0x0⟩
  | .SEC_DEBUG_STATUS => ⟨0xF00A0, 1, 0x0, .d0, .ro, 0x0, 0x0⟩
  | .SEC_DEBUG_CHAL => ⟨0xF00A8, 4, 0x8, .d0, .ro, 0x0, 0x0⟩
  | .SEC_UID => ⟨0xF00C8, 2, 0x8, .d0, .ro, 0x0, 0x0⟩
  | .SEC_MEAS => ⟨0xF0100, 48, 0x8, .d0, .ro, 0x0, 0x0⟩
  | .DFT_IDCODE => ⟨0x110000, 1, 0x0, .die, .ro, 0x0, 0x0⟩
  | .DFT_SELFTEST => ⟨0x110008, 1, 0x0, .die, .ro, 0x0, 0x0⟩
  | .DFT_MODE => ⟨0x110010, 1, 0x0, .die, .rw, 0x0, 0x0⟩
  | .DFT_LB_BITS => ⟨0x110018, 1, 0x0, .die, .ctr, 0x0, 0x0⟩
  | .DFT_LB_ERRORS => ⟨0x110020, 1, 0x0, .die, .ctr, 0x0, 0x0⟩
  | .DFT_CHAIN => ⟨0x110028, 1, 0x0, .d0, .rw, 0x1, 0xFF⟩
  | .ERR_FQ_STATUS => ⟨0xE0000, 1, 0x0, .die, .st, 0x1000000000000, 0x0⟩
  | .ERR_FQ_LOST => ⟨0xE0008, 1, 0x0, .die, .ctr, 0x0, 0x0⟩
  | .ERR_FQ_FIRST_LOST => ⟨0xE0010, 1, 0x0, .die, .ro, 0x0, 0x0⟩
  | .ERR_FQ_LAST_LOST => ⟨0xE0018, 1, 0x0, .die, .ro, 0x0, 0x0⟩
  | .ERR_FQ_ECC_CORR => ⟨0xE0020, 1, 0x0, .die, .ctr, 0x0, 0x0⟩
  | .ERR_FQ_RELEASE => ⟨0xE0028, 1, 0x0, .die, .wo, 0x0, 0x0⟩
  | .ERR_FQ_NEXT_SEQ => ⟨0xE0030, 1, 0x0, .die, .ro, 0x0, 0x0⟩
  | .ERR_NOTIFY => ⟨0xE0038, 1, 0x0, .die, .rw, 0x0, 0x0⟩
  | .ERR_SAT_EVENTS => ⟨0xE0040, 1, 0x0, .die, .ctr, 0x0, 0x0⟩
  | .ERR_RAISED => ⟨0xE0048, 1, 0x0, .die, .ctr, 0x0, 0x0⟩
  | .ERR_INJECT => ⟨0xE0050, 1, 0x0, .die, .rw, 0x0, 0x0⟩
  | .ERR_FQ_REC0 => ⟨0xE0100, 1, 0x0, .die, .ro, 0x0, 0x0⟩
  | .ERR_FQ_REC1 => ⟨0xE0108, 1, 0x0, .die, .ro, 0x0, 0x0⟩
  | .ERR_FQ_REC2 => ⟨0xE0110, 1, 0x0, .die, .ro, 0x0, 0x0⟩
  | .ERR_FQ_REC3 => ⟨0xE0118, 1, 0x0, .die, .ro, 0x0, 0x0⟩
  | .MDP_STATUS => ⟨0x100000, 1, 0x0, .d0, .st, 0x0, 0x0⟩
  | .MDP_Q_ADDR => ⟨0x100008, 1, 0x0, .d0, .rw, 0x0, 0xFFFFFFFFFFF⟩
  | .MDP_H_ADDR => ⟨0x100010, 1, 0x0, .d0, .rw, 0x0, 0xFFFFFFFFFFF⟩
  | .MDP_H_DATA => ⟨0x100018, 1, 0x0, .d0, .rw, 0x0, 0x0⟩
  | .MDP_WQ_STATUS => ⟨0x100020, 1, 0x0, .d0, .st, 0x1000000000000, 0x0⟩
  | .MDP_WQ_LOST => ⟨0x100028, 1, 0x0, .d0, .ctr, 0x0, 0x0⟩
  | .MDP_WQ_ECC_CORR => ⟨0x100030, 1, 0x0, .d0, .ctr, 0x0, 0x0⟩
  | .MDP_Q_TXNS => ⟨0x100038, 1, 0x0, .d0, .ctr, 0x0, 0x0⟩
  | .MDP_I3C_DROPPED => ⟨0x100040, 1, 0x0, .d0, .ctr, 0x0, 0x0⟩
  | .MDP_I3C_ADDR => ⟨0x100048, 1, 0x0, .d0, .ro, 0x0, 0x0⟩

/-- The registers of the BRG names. -/
def regsBrg : List Reg :=
  [.BRG_STATUS, .BRG_RETIRED_TX, .BRG_RETIRED_RX, .BRG_GROUP_SEL, .BRG_GROUP_INFO, .BRG_CRC_ERR,
   .BRG_REPLAYS, .BRG_REPAIRS, .BRG_RQ_STATUS, .BRG_RQ_ECC_CORR]

/-- The registers of the DIE names. -/
def regsDie : List Reg :=
  [.DIE_ID, .DIE_STATUS, .DIE_HOPS, .DIE_SCRATCH]

/-- The registers of the PKG names. -/
def regsPkg : List Reg :=
  [.PKG_ID, .PKG_ABI, .PKG_STEPPING, .PKG_DIES_RELEASED]

/-- The registers of the FT names. -/
def regsFt : List Reg :=
  [.FT_NOW, .FT_STATUS, .FT_CTRL, .FT_OFFSET, .FT_PATH_DELAY, .FT_SYNC_EDGE, .FT_HOLDOVER_NS, .FT_BEACON_RX,
   .FT_BEACON_BAD, .FT_SYNC_BAD, .FT_LOCK_LOSS]

/-- The registers of the PLAN names. -/
def regsPlan : List Reg :=
  [.PLAN_CAPACITY, .PLAN_FREE, .PLAN_DISPATCHED, .PLAN_FREE_MAX, .PLAN_CTX_STATE, .PLAN_HEAT_LEN,
   .PLAN_ARM_FT, .PLAN_HEAT_NUM, .PLAN_STEP_COUNT, .PLAN_ENTRIES, .PLAN_COMMIT_FT, .PLAN_STAGED,
   .PLAN_HOLD_DEFAULT, .PLAN_OVER, .PLAN_LAUNCHES, .PLAN_HOLD_WAITS, .PLAN_LATE, .PLAN_SKIPPED_GATED,
   .PLAN_MAX_WAIT]

/-- The registers of the ENG names. -/
def regsEng : List Reg :=
  [.ENG_PRESENT, .ENG_ENABLED, .ENG_VE_ENABLED]

/-- The registers of the ME names. -/
def regsMe : List Reg :=
  [.ME_STATUS, .ME_ACC_LIVE, .ME_CUR_OFFSET, .ME_LAST_DESC, .ME_PRODUCTS, .ME_DRAINS, .ME_BUSY,
   .ME_SHARE_CYCLES, .ME_TQ_STALL, .ME_TRANSPOSE, .ME_ECC_CORR, .ME_SAT, .ME_NONFINITE]

/-- The registers of the VE names. -/
def regsVe : List Reg :=
  [.VE_STATUS, .VE_PC, .VE_CUR_OFFSET, .VE_LAST_DESC, .VE_INSTR, .VE_BUSY, .VE_SAT, .VE_NONFINITE,
   .VE_TQ_WAIT, .VE_SHARE_WAIT, .VE_ACC_WAIT, .VE_TQ_NEXT_SEQ, .VE_ECC_CORR, .VE_TQD_STATUS, .VE_TQH_STATUS,
   .VE_TQ_ECC_CORR]

/-- The registers of the LADD names. -/
def regsLadd : List Reg :=
  [.LADD_TAG_SEL, .LADD_TAG_INFO, .LADD_TAG_QEND, .LADD_TAGS_FREE, .LADD_STATUS, .LADD_SEGS_TX,
   .LADD_SEGS_RX, .LADD_BLOCKS, .LADD_SAT, .LADD_DROP_TAG, .LADD_DROP_GEN, .LADD_DROP_HEAT, .LADD_DROP_ADDR,
   .LADD_SCALE_MISM, .LADD_REF_LAST, .LADD_REF_LAST_HEAT, .LADD_REF_FLAGS, .LADD_REF_CTRL, .LADD_REF_GO,
   .LADD_REF_SKIP, .LADD_REF_LATE, .LADD_BAR_LAST]

/-- The registers of the UU names. -/
def regsUu : List Reg :=
  [.UU_PRESENT, .UU_ENABLED, .UU_STATUS, .UU_CUR_SHARD, .UU_DIGEST_LO, .UU_DIGEST_HI, .UU_BLOCKS,
   .UU_BLOCKS_FINISHED, .UU_BLOCKS_SKIPPED, .UU_NONFINITE, .UU_SAT, .UU_SHARDS_COPIED, .UU_ECC_CORR,
   .UU_CMP_LAST, .UU_CMP_HEAT, .UU_CMP_CAND_LO, .UU_CMP_CAND_HI, .UU_PKG_DIGEST_LO, .UU_PKG_DIGEST_HI,
   .UU_CMP_DROP, .UU_CMP_INCOMPLETE]

/-- The registers of the WS names. -/
def regsWs : List Reg :=
  [.WS_BANK_OWNED, .WS_BANK_OWNER, .WS_ECC_CORR, .WS_ECC_UNCORR, .WS_DIRTY_SEL, .WS_DIRTY_INFO,
   .WS_TM_STATUS, .WS_TM_CUR_TILE, .WS_TM_TILES, .WS_TM_SKIPPED, .WS_TM_SAT, .WS_TM_NONFINITE, .WS_TM_ATOMIC]

/-- The registers of the STK names. -/
def regsStk : List Reg :=
  [.STK_ILV, .STK_FINE, .STK_CH_OWNED, .STK_CH_OWNER0, .STK_CH_OWNER1, .STK_CH_OWNER2, .STK_CH_OWNER3,
   .STK_LINES_RD, .STK_LINES_WR, .STK_WCB_FILL, .STK_WCB_FLUSH, .STK_ATOMIC, .STK_ATOM_NONFINITE,
   .STK_ECC_CORR, .STK_ECC_UNCORR]

/-- The registers of the PORT names. -/
def regsPort : List Reg :=
  [.PORT_PKG_CTRL, .PORT_ROUTE_SEL, .PORT_ROUTE_DATA, .PORT_BIAS_SEL, .PORT_BIAS_DATA, .PORT_WIN_RANGE,
   .PORT_WIN_SRC, .PORT_WIN_CTRL, .PORT_CTRL, .PORT_STATUS, .PORT_LINK_DELAY, .PORT_RETRAIN_FT,
   .PORT_TAGS_FREE, .PORT_ETH_RINGS, .PORT_ETH_DOORBELL, .PORT_FRAMES_TX, .PORT_FRAMES_RX, .PORT_CRC_ERR,
   .PORT_REPLAYS, .PORT_FEC_CORR, .PORT_FEC_UNCORR, .PORT_RETRAINS, .PORT_DOWN, .PORT_DISCARDED,
   .PORT_EXPIRED, .PORT_NO_ROUTE, .PORT_REFUSED, .PORT_RSP_DROP, .PORT_TIMEOUTS, .PORT_ETH_DROP,
   .PORT_RQ_STATUS, .PORT_RQ_ECC_CORR]

/-- The registers of the HCX names. -/
def regsHcx : List Reg :=
  [.HCX_CORE_PRESENT, .HCX_CORE_RUN, .HCX_DOMAIN, .HCX_DOWN_FT, .HCX_WAY_OWNED, .HCX_WAY_OWNER,
   .HCX_DIR_ENTRIES, .HCX_DIR_NACKS, .HCX_DIR_RECALLS, .HCX_NOT_PRESENT, .HCX_SNOOPS, .HCX_ECC_CORR,
   .HCX_ECC_UNCORR, .HCX_CORE_CTRL, .HCX_CORE_NACKED, .HCX_CORE_RESERVED]

/-- The registers of the PTU names. -/
def regsPtu : List Reg :=
  [.PTU_TC_CAPACITY, .PTU_TC_PINNED, .PTU_HITS, .PTU_MISSES, .PTU_WALK_FAULTS, .PTU_INVALS, .PTU_ECC_CORR,
   .PTU_CTX_ROOT, .PTU_CTX_ALLOT, .PTU_CTX_PINNED, .PTU_CTX_INVAL_FT, .PTU_CTX_RETIRING]

/-- The registers of the CMDP names. -/
def regsCmdp : List Reg :=
  [.CMDP_SERVES, .CMDP_ACCEPTED, .CMDP_ECC_CORR, .CMDP_CTX_STATUS, .CMDP_RING_BASE, .CMDP_CPL_BASE,
   .CMDP_RING_SIZE, .CMDP_RING_TAIL, .CMDP_RING_HEAD, .CMDP_CPL_HEAD, .CMDP_CPL_TAIL, .CMDP_OUTSTANDING,
   .CMDP_EVT_LOST, .CMDP_RESET_CMDS, .CMDP_SEQ_RUNNING, .CMDP_SEQ_FREE, .CMDP_SEQ_REFUSED, .CMDP_SEQ_STALLS,
   .CMDP_PREEMPT_AT]

/-- The registers of the PWR names. -/
def regsPwr : List Reg :=
  [.PWR_STATUS, .PWR_LTV, .PWR_BUDGET, .PWR_POWER, .PWR_TEMP_SEL, .PWR_TEMP_DATA, .PWR_TEMP_MAX,
   .PWR_COEF_SEL, .PWR_COEF_DATA, .PWR_ENERGY_HOST, .PWR_BACKSTOP_SLOTS, .PWR_BUDGET_MISS,
   .PWR_STATE_ENTRIES, .PWR_SR_WAKES, .PWR_CTX_ENERGY, .PWR_PKG_CAP, .PWR_PKG_POWER, .PWR_PKG_INPUT,
   .PWR_TRIP]

/-- The registers of the SEC names. -/
def regsSec : List Reg :=
  [.SEC_BOOT_STAGE, .SEC_BOOT_RESULT, .SEC_BOOT_TIME, .SEC_SVN_MIN, .SEC_HCX_RESET, .SEC_IMAGE_CTRL,
   .SEC_IMAGE_ADDR, .SEC_IMAGE_LEN, .SEC_IMAGE_STATUS, .SEC_ATTEST_CTRL, .SEC_ATTEST_DEST,
   .SEC_ATTEST_STATUS, .SEC_ATTEST_NONCE, .SEC_EXTEND_ADDR, .SEC_EXTEND_CTRL, .SEC_DEBUG_STATUS,
   .SEC_DEBUG_CHAL, .SEC_UID, .SEC_MEAS]

/-- The registers of the DFT names. -/
def regsDft : List Reg :=
  [.DFT_IDCODE, .DFT_SELFTEST, .DFT_MODE, .DFT_LB_BITS, .DFT_LB_ERRORS, .DFT_CHAIN]

/-- The registers of the ERR names. -/
def regsErr : List Reg :=
  [.ERR_FQ_STATUS, .ERR_FQ_LOST, .ERR_FQ_FIRST_LOST, .ERR_FQ_LAST_LOST, .ERR_FQ_ECC_CORR, .ERR_FQ_RELEASE,
   .ERR_FQ_NEXT_SEQ, .ERR_NOTIFY, .ERR_SAT_EVENTS, .ERR_RAISED, .ERR_INJECT, .ERR_FQ_REC0, .ERR_FQ_REC1,
   .ERR_FQ_REC2, .ERR_FQ_REC3]

/-- The registers of the MDP names. -/
def regsMdp : List Reg :=
  [.MDP_STATUS, .MDP_Q_ADDR, .MDP_H_ADDR, .MDP_H_DATA, .MDP_WQ_STATUS, .MDP_WQ_LOST, .MDP_WQ_ECC_CORR,
   .MDP_Q_TXNS, .MDP_I3C_DROPPED, .MDP_I3C_ADDR]

/-- Every register. -/
def allRegs : List Reg :=
  List.flatten [regsBrg, regsDie, regsPkg, regsFt, regsPlan, regsEng, regsMe, regsVe, regsLadd, regsUu, regsWs, regsStk, regsPort, regsHcx, regsPtu, regsCmdp, regsPwr, regsSec, regsDft, regsErr, regsMdp]

/-- Base of the die register windows (R32). -/
def regBase : Nat := 0xF0000000000

/-- Base of the package-wide block (R32). -/
def blkBase : Nat := 0xF0008000000

/-- Package-local address of a register, as die `die`'s window shows it. -/
def regAddr (r : Reg) (die slot : Nat) : Nat :=
  let i := regInfo r
  (if i.scope = .blk then blkBase else regBase + 0x1000000 * die) + i.off + slot * i.stride

/-- The address that is the register's home: the die that holds it, D0 for a register that every window shows. -/
def regHome (r : Reg) (die slot : Nat) : Nat :=
  regAddr r (if (regInfo r).scope = .die then die else 0) slot

/-- The slot of register `r` that an offset names, if any. -/
def slotAt (r : Reg) (off : Nat) : Option Nat :=
  let i := regInfo r
  if off < i.off then none
  else if i.slots = 1 then (if off = i.off then some 0 else none)
  else
    let k := (off - i.off) / i.stride
    if k < i.slots && off = i.off + k * i.stride then some k else none

/-- A register an address names: the register, the die whose window is used, the slot. -/
structure RegRef where
  reg : Reg
  die : Nat
  slot : Nat
  deriving DecidableEq, Repr

/-- The address lies in a die register window. -/
def inWindow (a : Nat) : Bool := regBase ≤ a && a < regBase + 0x8000000

/-- The address lies in the package-wide block. -/
def inBlk (a : Nat) : Bool := blkBase ≤ a && a < blkBase + 0x1000000

/-- The address is a register address (R32). -/
def isRegAddr (a : Nat) : Bool := inWindow a || inBlk a

/-- The register at an aligned register address; none for an unassigned offset (R8, R16). -/
def regAt (a : Nat) : Option RegRef :=
  if inBlk a then
    allRegs.findSome? (fun r =>
      if (regInfo r).scope = .blk then (slotAt r (a - blkBase)).map (fun k => ⟨r, 0, k⟩) else none)
  else if inWindow a then
    let die := (a - regBase) / 0x1000000
    let off := (a - regBase) % 0x1000000
    allRegs.findSome? (fun r =>
      let sc := (regInfo r).scope
      if sc = .blk || (sc = .d0 && die ≠ 0) then none
      else (slotAt r off).map (fun k => ⟨r, die, k⟩))
  else none

end Sys2Proof.Machine
end

