-- ==== Sys2Proof/Machine/Sparse.lean ====
section
/-!
DEFINITION. The one sparse map of the model: memory, registers, flags and every table that is large and mostly at its
reset value. `d` is what an unlisted key reads as. A map in canonical form lists its keys in strictly rising order and
lists no key at `d`, so that equal maps are equal data.
-/
namespace Sys2Proof.Sparse

variable {α : Type}

/-- The value at key `k`; an unlisted key reads as `d`. -/
def at? (d : α) : Sparse α → Nat → α
  | [], _ => d
  | (k', v) :: m, k => if k = k' then v else if k < k' then d else at? d m k

/-- Remove key `k`. -/
def del : Sparse α → Nat → Sparse α
  | [], _ => []
  | (k', v) :: m, k =>
    if k = k' then m else if k < k' then (k', v) :: m else (k', v) :: del m k

/-- List key `k` at `v` (`v` is not the unlisted value). -/
def ins : Sparse α → Nat → α → Sparse α
  | [], k, v => [(k, v)]
  | (k', v') :: m, k, v =>
    if k = k' then (k, v) :: m
    else if k < k' then (k, v) :: (k', v') :: m
    else (k', v') :: ins m k v

/-- Write `v` at key `k`, keeping the canonical form. -/
def put [DecidableEq α] (d : α) (m : Sparse α) (k : Nat) (v : α) : Sparse α :=
  if v = d then del m k else ins m k v

/-- Every listed key lies above `lo`, keys rise strictly, and no value is `d`. -/
def wfFrom [DecidableEq α] (d : α) : Option Nat → Sparse α → Bool
  | _, [] => true
  | lo, (k, v) :: m =>
    (match lo with | none => true | some l => decide (l < k)) && decide (v ≠ d) && wfFrom d (some k) m

/-- The canonical form. -/
def wf [DecidableEq α] (d : α) (m : Sparse α) : Bool := wfFrom d none m

/-- Drop every key that `p` names. -/
def dropKeys (p : Nat → Bool) (m : Sparse α) : Sparse α := m.filter (fun kv => !p kv.1)

/-- The listed keys. -/
def keys (m : Sparse α) : List Nat := m.map Prod.fst

end Sys2Proof.Sparse
end

