-- ==== Sys2Proof/Machine/Num.lean ====
section
/-!
DEFINITION. Number formats and conversion (chapter 03, R74 to R96, R493) and the exact arithmetic on which every unit
rests. A value is exact: a NaN, an infinity or a signed dyadic number; an operation is computed exactly on values and
rounded once by `roundTo` (R88).
-/
namespace Sys2Proof.Machine

/-- The twelve formats (R74). -/
inductive Fmt where
  | fp64 | fp32 | bf16 | fp16 | e4m3 | e5m2 | e3m2 | e2m3 | e2m1 | int8 | int32 | gq8
  deriving DecidableEq, Repr

/-- The format a 4-bit code names (R74); codes 0xC to 0xF are reserved. -/
def fmtOf : Nat → Option Fmt
  | 0 => some .fp64 | 1 => some .fp32 | 2 => some .bf16 | 3 => some .fp16 | 4 => some .e4m3 | 5 => some .e5m2
  | 6 => some .e3m2 | 7 => some .e2m3 | 8 => some .e2m1 | 9 => some .int8 | 10 => some .int32 | 11 => some .gq8
  | _ => none

/-- Element width in bits (R74). -/
def fmtWidth : Fmt → Nat
  | .fp64 => 64 | .fp32 => 32 | .bf16 => 16 | .fp16 => 16 | .e4m3 => 8 | .e5m2 => 8
  | .e3m2 => 6 | .e2m3 => 6 | .e2m1 => 4 | .int8 => 8 | .int32 => 32 | .gq8 => 8

/-- Exponent field width (R76); 0 for the integer formats. -/
def fmtExpBits : Fmt → Nat
  | .fp64 => 11 | .fp32 => 8 | .bf16 => 8 | .fp16 => 5 | .e4m3 => 4 | .e5m2 => 5
  | .e3m2 => 3 | .e2m3 => 2 | .e2m1 => 2 | .int8 => 0 | .int32 => 0 | .gq8 => 0

/-- Fraction field width (R76). -/
def fmtFrac : Fmt → Nat
  | .fp64 => 52 | .fp32 => 23 | .bf16 => 7 | .fp16 => 10 | .e4m3 => 3 | .e5m2 => 2
  | .e3m2 => 2 | .e2m3 => 3 | .e2m1 => 1 | .int8 => 0 | .int32 => 0 | .gq8 => 0

/-- Exponent bias (R76). -/
def fmtBias : Fmt → Nat
  | .fp64 => 1023 | .fp32 => 127 | .bf16 => 127 | .fp16 => 15 | .e4m3 => 7 | .e5m2 => 15
  | .e3m2 => 3 | .e2m3 => 1 | .e2m1 => 1 | .int8 => 0 | .int32 => 0 | .gq8 => 0

/-- INT8, INT32 and the GQ8 element. -/
def fmtIsInt : Fmt → Bool
  | .int8 => true | .int32 => true | .gq8 => true | _ => false

/-- The formats of class "IEEE float" (R74), which have infinities. -/
def fmtIsIeee : Fmt → Bool
  | .fp64 => true | .fp32 => true | .bf16 => true | .fp16 => true | .e5m2 => true | _ => false

/-- The three MX formats, which have neither infinity nor NaN. -/
def fmtIsMx : Fmt → Bool
  | .e3m2 => true | .e2m3 => true | .e2m1 => true | _ => false

/-- Always block-scaled (R74). -/
def fmtAlwaysScaled (f : Fmt) : Bool := fmtIsMx f || f == .gq8

/-- A format code with its SCALED flag is acceptable (R75). -/
def fmtFlagOk (f : Fmt) (scaled : Bool) : Bool :=
  fmtAlwaysScaled f || f == .e4m3 || f == .e5m2 || !scaled

/-- The tensor has block scales (R74, R75). -/
def fmtScaled (f : Fmt) (scaled : Bool) : Bool :=
  fmtAlwaysScaled f || ((f == .e4m3 || f == .e5m2) && scaled)

/-- Encoding of the largest finite magnitude (R78). -/
def fmtMaxBits : Fmt → Nat
  | .fp64 => 0x7FEFFFFFFFFFFFFF | .fp32 => 0x7F7FFFFF | .bf16 => 0x7F7F | .fp16 => 0x7BFF | .e4m3 => 0x7E
  | .e5m2 => 0x7B | .e3m2 => 0x1F | .e2m3 => 0x1F | .e2m1 => 0x7 | .int8 => 127 | .int32 => 0x7FFFFFFF | .gq8 => 127

/-- The canonical NaN (R78); an MX element of a NaN block is written as encoding 0 (R84). -/
def fmtNan : Fmt → Nat
  | .fp64 => 0x7FF8000000000000 | .fp32 => 0x7FC00000 | .bf16 => 0x7FC0 | .fp16 => 0x7E00 | .e4m3 => 0x7F
  | .e5m2 => 0x7E | _ => 0

/-- The unbiased exponent of the largest normal value, for R83. -/
def fmtEmax : Fmt → Nat
  | .e4m3 => 8 | .e5m2 => 15 | .e3m2 => 4 | .e2m3 => 2 | .e2m1 => 2 | _ => 0

/-- An exact value: NaN, a signed infinity, or (−1)^neg · m · 2^e. Zero keeps its sign. -/
inductive Val where
  | nan
  | inf (neg : Bool)
  | fin (neg : Bool) (m : Nat) (e : Int)
  deriving DecidableEq, Repr

/-- Positive zero. -/
def vZero : Val := .fin false 0 0

/-- The value of an integer; 0 is +0. -/
def vInt (i : Int) : Val := .fin (i < 0) i.natAbs 0

def vIsNan : Val → Bool | .nan => true | _ => false
def vIsInf : Val → Bool | .inf _ => true | _ => false
def vFinite : Val → Bool | .fin _ _ _ => true | _ => false
def vIsZero : Val → Bool | .fin _ 0 _ => true | _ => false

/-- Two's complement of a `w`-bit pattern. -/
def toInt (w bits : Nat) : Int :=
  let b := bits % 2 ^ w
  if b ≥ 2 ^ (w - 1) then (b : Int) - (2 ^ w : Nat) else b

/-- The `w`-bit two's complement pattern of an integer. -/
def ofInt (w : Nat) (i : Int) : Nat := (i % ((2 ^ w : Nat) : Int)).toNat

/-- The exact value of an element without its block scale (R76, R78, R80). -/
def valOf (f : Fmt) (bits : Nat) : Val :=
  match f with
  | .int8 => vInt (toInt 8 bits)
  | .int32 => vInt (toInt 32 bits)
  | .gq8 => let i := toInt 8 bits; vInt (if i = -128 then -127 else i)
  | _ =>
    let p := fmtFrac f
    let eb := fmtExpBits f
    let neg := bitOf bits (eb + p)
    let ef := bitsOf bits (eb + p - 1) p
    let fr := bits % 2 ^ p
    if fmtIsIeee f && ef == 2 ^ eb - 1 then (if fr = 0 then .inf neg else .nan)
    else if f == .e4m3 && ef == 15 && fr == 7 then .nan
    else if ef = 0 then .fin neg fr (1 - (fmtBias f : Int) - p)
    else .fin neg (2 ^ p + fr) ((ef : Int) - fmtBias f - p)

/-- Reading this GQ8 element counts one saturation (R80). -/
def gq8Bad (f : Fmt) (bits : Nat) : Bool := f == .gq8 && bits % 256 == 0x80

/-- Multiply an exact value by 2^k. -/
def vScale (k : Int) : Val → Val
  | .fin n m e => .fin n m (e + k)
  | v => v

/-- The value of an element under the E8M0 scale byte `x` (R81). -/
def scaledBy (x : Nat) (v : Val) : Val := if x = 0xFF then .nan else vScale ((x : Int) - 127) v

/-- Rounding modes (R91): nearest-even, toward zero, stochastic with the element's hash value (R93). -/
inductive RMode where
  | rne | rtz | sr (h : Nat)
  deriving DecidableEq, Repr

/-- The integer count of grid steps 2^q that the magnitude m·2^e rounds to (R92, R93). -/
def rndMag (mode : RMode) (m : Nat) (e q : Int) : Nat :=
  if q ≤ e then m <<< (e - q).toNat
  else
    let sh := (q - e).toNat
    let lo := m >>> sh
    let rem := m - (lo <<< sh)
    match mode with
    | .rtz => lo
    | .rne =>
      let half := 1 <<< (sh - 1)
      if rem > half then lo + 1 else if rem = half then lo + lo % 2 else lo
    | .sr h => if rem = 0 then lo else if ((rem <<< 32) >>> sh) + h ≥ 2 ^ 32 then lo + 1 else lo

/-- A rounded element with what it counts (R90). -/
structure Rounded where
  bits : Nat
  sat : Bool
  nonfin : Bool
  deriving DecidableEq, Repr

/-- Unbiased exponent of a non-zero magnitude: floor(log2(m·2^e)). -/
def magExp (m : Nat) (e : Int) : Int := (Nat.log2 m : Int) + e

/-- Compare two exact magnitudes. -/
def magLt (m1 : Nat) (e1 : Int) (m2 : Nat) (e2 : Int) : Bool :=
  if e1 ≤ e2 then m1 < m2 <<< (e2 - e1).toNat else m1 <<< (e1 - e2).toNat < m2

/-- Encode a float magnitude n·2^q, at most the largest finite value, with n < 2^(p+1) or n = 2^(p+1). -/
def encodeMag (f : Fmt) (n : Nat) (q : Int) : Nat :=
  let p := fmtFrac f
  if n < 2 ^ p then n
  else
    let (n, q) := if n = 2 ^ (p + 1) then (2 ^ p, q + 1) else (n, q)
    ((q + p + fmtBias f).toNat <<< p) + (n - 2 ^ p)

/-- Round an exact value once to a format (R88, R89), without a block scale. -/
def roundTo (f : Fmt) (mode : RMode) (v : Val) : Rounded :=
  let sgn (neg : Bool) : Nat := if neg then 2 ^ (fmtWidth f - 1) else 0
  if fmtIsInt f then
    let w := fmtWidth f
    let hi : Int := fmtMaxBits f
    let lo : Int := if f == .gq8 then -127 else -hi - 1
    match v with
    | .nan => ⟨0, true, false⟩
    | .inf neg => ⟨ofInt w (if neg then lo else hi), true, false⟩
    | .fin neg m e =>
      let n : Int := if neg then -(rndMag mode m e 0 : Int) else rndMag mode m e 0
      if n > hi then ⟨ofInt w hi, true, false⟩
      else if n < lo then ⟨ofInt w lo, true, false⟩
      else ⟨ofInt w n, false, false⟩
  else
    let infBits := (2 ^ fmtExpBits f - 1) <<< fmtFrac f
    match v with
    | .nan => ⟨fmtNan f, false, true⟩
    | .inf neg =>
      if fmtIsIeee f then ⟨infBits + sgn neg, false, true⟩ else ⟨fmtMaxBits f + sgn neg, true, false⟩
    | .fin neg m e =>
      if m = 0 then ⟨sgn neg, false, false⟩
      else
        let p := fmtFrac f
        let emin : Int := 1 - fmtBias f
        let q := max (magExp m e) emin - p
        let n := rndMag mode m e q
        match valOf f (fmtMaxBits f) with
        | .fin _ mm me =>
          if magLt mm me n q then
            if fmtIsIeee f && mode != .rtz then ⟨infBits + sgn neg, false, true⟩
            else ⟨fmtMaxBits f + sgn neg, true, false⟩
          else ⟨encodeMag f n q + sgn neg, false, false⟩
        | _ => ⟨0, false, false⟩

/-- Round to nearest-even and take the value again. -/
def rneVal (f : Fmt) (v : Val) : Val := valOf f (roundTo f .rne v).bits

/-- The largest finite non-pad magnitude of a block, as (m, e); (0, 0) when there is none (R83). -/
def blockMax (vs : List Val) : Nat × Int :=
  vs.foldl (fun (acc : Nat × Int) v =>
    match v with
    | .fin _ m e => if m ≠ 0 && (acc.1 == 0 || magLt acc.1 acc.2 m e) then (m, e) else acc
    | _ => acc) (0, 0)

/-- The block scale byte of an MX or scaled FP8 block (R83, R84). -/
def blockScale (f : Fmt) (vs : List Val) : Nat :=
  if vs.any vIsNan then 0xFF
  else
    let (m, e) := blockMax vs
    if m = 0 then 0x7F
    else
      let k := magExp m e - (fmtEmax f : Int)
      (max (-127) (min 127 k) + 127).toNat

/-- Convert one block at the scale byte `x` (R83, R84, R89, R493); `modes` gives each element's rounding mode. -/
def blockElems (f : Fmt) (x : Nat) (vs : List Val) (modes : List RMode) : List Rounded :=
  if x = 0xFF then vs.map (fun _ => ⟨0, false, true⟩)
  else (vs.zip modes).map (fun (v, md) => roundTo f md (vScale (127 - (x : Int)) v))

/-- The identity of a max or of a min over a format: the infinity or the largest finite value (R141). -/
def extreme (f : Fmt) (neg : Bool) : Nat :=
  if fmtIsInt f then
    (if neg then (if f == .gq8 then 0x81 else 2 ^ (fmtWidth f - 1)) else fmtMaxBits f)
  else
    let s := if neg then 2 ^ (fmtWidth f - 1) else 0
    if fmtIsIeee f then ((2 ^ fmtExpBits f - 1) <<< fmtFrac f) + s else fmtMaxBits f + s

/-! Exact arithmetic with the special values of IEEE 754 and one NaN (R79). -/

/-- A finite value from a signed dyadic integer; exact zero is +0. -/
def vOfDyadic (i : Int) (e : Int) : Val := .fin (i < 0) i.natAbs e

/-- −v. -/
def vNeg : Val → Val
  | .nan => .nan
  | .inf n => .inf (!n)
  | .fin n m e => .fin (!n) m e

/-- |v|. -/
def vAbs : Val → Val
  | .nan => .nan
  | .inf _ => .inf false
  | .fin _ m e => .fin false m e

/-- Signed numerator of a magnitude over 2^e. -/
def sgnNum (neg : Bool) (m : Nat) : Int := if neg then -(m : Int) else m

/-- Exact sum; an exact cancellation is +0, and −0 + −0 is −0. -/
def vAdd : Val → Val → Val
  | .nan, _ => .nan
  | _, .nan => .nan
  | .inf a, .inf b => if a == b then .inf a else .nan
  | .inf a, _ => .inf a
  | _, .inf b => .inf b
  | .fin a m e, .fin b n f =>
    if m = 0 && n == 0 then .fin (a && b) 0 0
    else if m = 0 then .fin b n f
    else if n = 0 then .fin a m e
    else
      let g := min e f
      vOfDyadic (sgnNum a (m <<< (e - g).toNat) + sgnNum b (n <<< (f - g).toNat)) g

/-- Exact difference. -/
def vSub (a b : Val) : Val := vAdd a (vNeg b)

/-- Exact product; zero times infinity is NaN. -/
def vMul : Val → Val → Val
  | .nan, _ => .nan
  | _, .nan => .nan
  | .inf a, .inf b => .inf (a ^^ b)
  | .inf a, .fin b n _ => if n = 0 then .nan else .inf (a ^^ b)
  | .fin a m _, .inf b => if m = 0 then .nan else .inf (a ^^ b)
  | .fin a m e, .fin b n f => .fin (a ^^ b) (m * n) (e + f)

/-- Ordering of two values that are not NaN, with +0 equal to −0. -/
def vLt : Val → Val → Bool
  | .nan, _ => false
  | _, .nan => false
  | .inf a, .inf b => a && !b
  | .inf a, _ => a
  | _, .inf b => !b
  | .fin a m e, .fin b n f =>
    let g := min e f
    sgnNum a (m <<< (e - g).toNat) < sgnNum b (n <<< (f - g).toNat)

/-- Equality of two values that are not NaN, with +0 equal to −0. -/
def vEq : Val → Val → Bool
  | .nan, _ => false
  | _, .nan => false
  | a, b => !vLt a b && !vLt b a

def vSign : Val → Bool
  | .nan => false
  | .inf n => n
  | .fin n _ _ => n

/-- The max node of R136: NaN if either is NaN, +0 above −0, equal values give the left child. -/
def vMax (a b : Val) : Val :=
  if vIsNan a || vIsNan b then .nan
  else if vIsZero a && vIsZero b then (if vSign a && !vSign b then b else a)
  else if vLt a b then b else a

/-- The min node of R136. -/
def vMin (a b : Val) : Val :=
  if vIsNan a || vIsNan b then .nan
  else if vIsZero a && vIsZero b then (if !vSign a && vSign b then b else a)
  else if vLt b a then b else a

/-- Rounded sum and its exact rounding error (R129). -/
def twoSum (f : Fmt) (a b : Val) : Val × Val :=
  let x := vAdd a b
  let s := rneVal f x
  (s, vSub x s)

/-- Bits kept of a quotient or a root before its sticky bit: more than any format needs. -/
def quotBits : Nat := 140

/-- The magnitude q·2^e with a sticky bit below it when the exact value lies strictly above q·2^e. -/
def sticky (neg : Bool) (q : Nat) (e : Int) (inexact : Bool) : Val := .fin neg (2 * q + b2n inexact) (e - 1)

/-- Quotient (the table of defined results after R171), exact or with a sticky bit. -/
def vDiv : Val → Val → Val
  | .nan, _ => .nan
  | _, .nan => .nan
  | .inf _, .inf _ => .nan
  | .inf a, .fin b _ _ => .inf (a ^^ b)
  | .fin a _ _, .inf b => .fin (a ^^ b) 0 0
  | .fin a m e, .fin b n f =>
    if n = 0 then (if m = 0 then .nan else .inf (a ^^ b))
    else
      let k := quotBits + Nat.log2 n + 1
      let num := m <<< k
      sticky (a ^^ b) (num / n) (e - f - k) (num % n != 0)

/-- One Newton step per unit of fuel toward the floor of the square root. -/
def isqrtLoop (n : Nat) : Nat → Nat → Nat
  | 0, x => x
  | fuel + 1, x =>
    let y := (x + n / x) / 2
    if y < x then isqrtLoop n fuel y else x

/-- Floor of the square root. -/
def isqrt (n : Nat) : Nat :=
  if n = 0 then 0 else isqrtLoop n (Nat.log2 n + 2) (2 ^ (Nat.log2 n / 2 + 1))

/-- Square root. -/
def vSqrt : Val → Val
  | .nan => .nan
  | .inf neg => if neg then .nan else .inf false
  | .fin neg m e =>
    if m = 0 then .fin neg 0 0
    else if neg then .nan
    else
      let k := 2 * quotBits + (if e % 2 = 0 then 0 else 1)
      let n := m <<< k
      let r := isqrt n
      sticky false r ((e - k) / 2) (r * r != n)

/-- Reciprocal square root. -/
def vRsqrt : Val → Val
  | .nan => .nan
  | .inf neg => if neg then .nan else vZero
  | .fin neg m e =>
    if m = 0 then .inf neg
    else if neg then .nan
    else
      let k := 2 * quotBits + 2 * (Nat.log2 m + 1) + (if e % 2 = 0 then 0 else 1)
      let n := 1 <<< k
      let r := isqrt (n / m)
      sticky false r ((-e - k) / 2) (r * r * m != n)

/-- Exact value 1. -/
def vOne : Val := .fin false 1 0

/-- The stochastic hash (R94) of seed, tensor id, element index and heat. -/
def srHash (seed tid idx heat : Nat) : Nat :=
  let w := 2 ^ 32
  let a0 := (seed % w) ^^^ (heat % w) ^^^ 0x6A09E667
  let b0 := ((seed >>> 32) % w) ^^^ ((heat >>> 32) % w) ^^^ 0xBB67AE85
  let c0 := (((bitsOf idx 39 32) <<< 24) ||| (tid % 2 ^ 24)) ^^^ 0x3C6EF372
  let d0 := (idx % w) ^^^ 0xA54FF53A
  let round : Nat × Nat × Nat × Nat → Nat × Nat × Nat × Nat := fun (a, b, c, d) =>
    let a := (a + b) % w
    let d := rotl 32 (d ^^^ a) 16
    let c := (c + d) % w
    let b := rotl 32 (b ^^^ c) 12
    let a := (a + b) % w
    let d := rotl 32 (d ^^^ a) 8
    let c := (c + d) % w
    let b := rotl 32 (b ^^^ c) 7
    (a, b, c, d)
  let (a, b, c, d) := round (round (a0, b0, c0, d0))
  a ^^^ b ^^^ c ^^^ d

/-- The mode a 2-bit code selects (R91), with the hash value of the element; code 3 is reserved. -/
def modeOf (code h : Nat) : RMode := if code = 2 then .sr h else if code = 1 then .rtz else .rne

/-- Heat number of a rounding done outside any pour (R95). -/
def noHeat : Nat := 0xFFFFFFFFFFFFFFFF

/-! Packed elements (R77). -/

/-- Bit offset of element `i`. -/
def elemBit (f : Fmt) (i : Nat) : Nat := i * fmtWidth f

/-- Bytes of `n` packed elements that start at an element-group boundary. -/
def elemBytes (f : Fmt) (n : Nat) : Nat := ceilDiv (n * fmtWidth f) 8

/-- Elements of a packed byte string, from element 0. -/
def unpackElems (f : Fmt) (bs : List Byte) (n : Nat) : List Nat :=
  let w := fmtWidth f
  let x := leNat bs
  (List.range n).map (fun i => (x >>> (i * w)) % 2 ^ w)

/-- Pack elements in ascending order from bit 0; the last byte's unused bits are 0. -/
def packElems (f : Fmt) (es : List Nat) : List Byte :=
  let w := fmtWidth f
  let x := es.foldr (fun e acc => e % 2 ^ w + (acc <<< w)) 0
  leBytes (elemBytes f es.length) x

/-! The GQ8 scale rule (R86) and packing (R87). -/

/-- The scale byte for the next step from the old byte, the largest reduced magnitude and the headroom (R86). -/
def gq8NextScale (old qmax h : Nat) : Nat :=
  if qmax = 0 then old
  else
    -- the smallest e with 127 · 2^e ≥ qmax · 2^e_old; qmax lies between 1 and 127
    let drop : Nat := (List.range 7).foldl (fun d i => if 127 ≥ qmax * 2 ^ (i + 1) then i + 1 else d) 0
    let e : Int := (old : Int) - 127 - (drop : Int) + (h : Int)
    (max (-127) (min 121 e) + 127).toNat

/-- One packed element: the GQ8 element (0 when the block is not selected), the new BF16 residual, and what it counts
(R87). `g` and `gerr` are the terms of the FP32 compensated gradient, `rprev` the BF16 residual, `x` the scale byte. -/
structure Packed where
  q : Nat
  res : Nat
  sat : Bool
  nonfin : Bool
  deriving DecidableEq, Repr

/-- Pack one gradient value (R87). -/
def gq8Pack (mode : RMode) (sel : Bool) (x g gerr rprev : Nat) : Packed :=
  let t := rneVal .fp32 (vAdd (valOf .fp32 g) (valOf .bf16 rprev))
  let v := rneVal .fp32 (vAdd t (valOf .fp32 gerr))
  let nf := !vFinite v
  if !sel then ⟨0, (roundTo .bf16 .rne v).bits, false, nf⟩
  else
    let q := roundTo .gq8 mode (vScale (127 - (x : Int)) v)
    let d := rneVal .fp32 (vSub v (scaledBy x (valOf .gq8 q.bits)))
    ⟨q.bits, (roundTo .bf16 .rne d).bits, q.sat, nf⟩

end Sys2Proof.Machine
end

