-- ==== Sys2Proof/Machine/Types.lean ====
section
/-!
DEFINITION. The parts of the machine's state: contexts, moulds and pours (chapter 02, 13), units at work, runner queues (14),
power (15), boot and security (16), fault records (17) and the management interfaces (18). Every field has the value it holds
after a package reset as its default; where the spec gives none the assumption log names the value.
-/
namespace Sys2Proof.Machine

/-! Faults and runner queues. -/

/-- A fault record (R454). -/
structure FaultRec where
  ft : Nat
  code : Nat
  unit : Nat
  ctx : Nat
  severity : Nat
  seq : Nat
  address : Nat
  detail : Nat
  deriving DecidableEq, Repr

/-- One entry of a runner queue with its tag (R390): bytes, valid bits, LAST, and the stored error bits of its first word
(0 none; R398, R450). `who` is the source of a data-port entry: address and window of the write it carries. -/
structure QEntry where
  bytes : List Byte
  valid : Nat
  last : Bool
  err : Nat := 0
  /-- error bits of the words after the first, in order, and last those of the word that holds the tag (R398) -/
  errs : List Nat := []
  addr : Nat := 0
  window : Nat := 0
  deriving DecidableEq, Repr

/-- A runner queue (R386): the entries from RP to WR, the positions, what each side sees of the other (R388), OVERRUN, the
lost-item words (R394) and the packer of R390. -/
structure RunQ where
  entries : List QEntry := []
  rp : Nat := 0
  mark : Nat := 0
  rd : Nat := 0
  wr : Nat := 0
  /-- WR as the read side sees it -/
  wrSeen : Nat := 0
  /-- RP as the write side sees it -/
  rpSeen : Nat := 0
  overrun : Bool := false
  firstLost : Nat := 0
  lastLost : Nat := 0
  packer : List Byte := []
  packAddr : Nat := 0
  /-- declared packets (R397): the position of the first entry, and the length in entries -/
  packets : List (Nat × Nat) := []
  /-- the FT of the last loss, and the first item lost in that clock (R394) -/
  lostFt : Option Nat := none
  lostFirst : Nat := 0
  deriving DecidableEq, Repr

/-! Moulds and pours. -/

/-- A pour entry (R51). -/
structure Pour where
  offset : Nat
  unit : Nat
  action : Nat
  desc : Nat
  hold : Nat
  flags : Nat
  wait : Nat
  waitCount : Nat
  signal : Nat
  deriving DecidableEq, Repr

/-- A group of the group table (R50). -/
structure Group where
  num : Nat
  rank : Nat
  members : List Nat
  deriving DecidableEq, Repr

/-- A loaded mould: its header (R48), slot boundaries (R49), groups (R50) and the pour table of each die (R51). -/
structure Mould where
  header : List Byte
  bounds : List Nat
  groups : List Group
  pours : List (List Pour)
  deriving DecidableEq, Repr

/-- A pour handed to its unit (R55): its entry, the die and heat, the due time, the bytes of its descriptor once they have arrived, and
whether a go verdict for its heat has been applied (R62). -/
structure Held where
  ctx : Nat
  heat : Nat
  die : Nat
  pour : Pour
  due : Nat
  desc : Option (List Byte) := none
  go : Bool := false
  /-- PLAN_STEP_COUNT at the start of its heat (R194), once the heat has started -/
  epoch : Nat := 0
  deriving DecidableEq, Repr

/-- One level of a kernel's LOOP nest (R163): the first and last instruction of the body and the passes still to run. -/
structure LoopSt where
  first : Nat
  last : Nat
  left : Nat
  deriving DecidableEq, Repr

/-- What a vector engine waits for (R171). -/
inductive VWait where
  | none | queue | segment | share
  deriving DecidableEq, Repr

/-- A tile in flight (R494): its index, the global addresses of its element part and scale part, the requests of another package that
still await their answers, and the data those have brought, by part (0 element, 1 scale); of a STORE to another package, the element and
scale bytes (2, 3) that are still to be sent or written, and a mark (4) once the element bytes are on their way. -/
structure Fly where
  tile : Nat
  elem : Nat
  scale : Nat
  awaits : Nat := 0
  got : List (Nat × List Byte) := []
  deriving DecidableEq, Repr

/-- One write of a drain (R122, R123): the arithmetic cycle of the drain phase in which it falls, the offset and bytes of its elements and
of its scale bytes for the working store, and the row that it completes in the tile queue. -/
structure DrainStep where
  cycle : Nat
  elems : Nat × List Byte
  scales : Nat × List Byte
  queue : List Byte
  deriving DecidableEq, Repr

/-- The working-store transfer of a vector instruction, or of the copy of its kernel (R147, R164): bytes still to read and to write, the
cycle since launch up to which it has been followed (its last one once nothing is left), and the cycles in which it was allowed 0 bytes. -/
structure Xfer where
  rd : Nat := 0
  wr : Nat := 0
  upTo : Nat := 0
  idle : Nat := 0
  deriving DecidableEq, Repr

/-- A setting of STAGE (R67), and a setting in force. -/
structure Setting where
  unit : Nat
  param : Nat
  value : Nat
  deriving DecidableEq, Repr

/-- A SWEEP, RESUME or REPAIR pour at work (R231 to R233, R252, R495): the unit's settings at launch (R69, R236), whether the table has
been read, and the writes left of the phase in progress, a 64-byte line or less each, by channel offset. SWEEP and RESUME: phases finished,
three for each block and one for the digest entry of each shard, and whether the block in progress was OLD. REPAIR: shards finished
(`phase`), the part of the shard (0 the compare, then a block each, then the digest entry), SOURCE's digest entry of the shard, shards
copied, whether the reads of SOURCE for the part have been issued, the answers missing and those received. -/
structure Sweep where
  hyper : List Setting := []
  opened : Bool := false
  phase : Nat := 0
  old : Bool := false
  writes : List (Nat × List Byte) := []
  part : Nat := 0
  entry : List Byte := []
  copied : Nat := 0
  asked : Bool := false
  awaits : Nat := 0
  got : List (Nat × List Byte) := []
  /-- first address that a REPAIR reads at its SOURCE (R323) -/
  first : Nat := 0
  deriving DecidableEq, Repr

/-- How far a launched pour has come. -/
inductive Prog where
  /-- launched, nothing done yet -/
  | start
  /-- every write has reached its home; the pour may signal (R57) -/
  | ended
  /-- a drain: the header it has still to write, the writes left, with their bytes, and where its drain phase began, waits added, in
  seventeenths of a nanosecond of ARITH time (20 of them are one arithmetic cycle; R122 to R124) -/
  | draining (steps : List DrainStep) (header : Option (List Byte)) (start : Nat)
  /-- a vector engine copies its kernel's instruction words -/
  | copying (xfer : Xfer)
  /-- a kernel: instruction words, program counter, loop nest, the cycle since launch in which the instruction starts, what it waits for
  and its transfer -/
  | kernel (words : List Nat) (pc : Nat) (loops : List LoopSt) (used : Nat) (wait : VWait) (xfer : Xfer)
  /-- a tile move: tiles issued so far, issued tiles not yet landed, a failure found, the global address of tile 0's element part, and
  whether the arrival of R275 has been sent -/
  | moving (issued : Nat) (flying : List Fly) (failed : Bool) (first : Nat) (arrival : Bool)
  /-- a sweep, a resume or a repair -/
  | sweeping (sweep : Sweep)
  /-- a SEND that has issued the first `step` of its `total` segments; a VERDICT or BARRIER that waits for UP_AT -/
  | waiting (step total : Nat)
  /-- PACK and RENEW: PLAN_STEP_COUNT, FRAC and the headroom at launch (R189, R207, R224) -/
  | packing (c frac h : Nat)
  deriving DecidableEq, Repr

/-- A launched pour: when it launched, in FT and in the ARITH time of its die. -/
structure Running where
  held : Held
  launched : Nat
  arith : Nat
  prog : Prog
  deriving DecidableEq, Repr

/-- A unit that can be the target of a pour (R31): the pours handed to it in order, the one that runs, DISABLED and a drain
under DISABLE_UNIT (R378): its deadline, the pours aborted and refused, and the command that asked. -/
structure UnitSt where
  queue : List Held := []
  running : Option Running := none
  disabled : Bool := false
  drainBy : Option Nat := none
  aborted : Nat := 0
  refused : Nat := 0
  /-- slice cycles of the running product that have been charged (R408, R415) -/
  paid : Nat := 0
  deriving DecidableEq, Repr

/-! Contexts and commands. -/

/-- Context state (PLAN_CTX_STATE). -/
inductive CtxSt where
  | empty | loaded | armed | running | faulted | halting
  deriving DecidableEq, Repr

/-- A partition (R370). Bit vectors are numbers. -/
structure Part where
  engines : Nat := 0
  movers : Nat := 0
  banks : Nat := 0
  channels : Nat := 0
  adders : Nat := 0
  ways : List Nat := []
  allot : List Nat := []
  bridgeShare : List Nat := []
  portShare : List Nat := []
  deriving DecidableEq, Repr

/-- A command accepted and not completed: opcode, CMD_SEQ, the ring it came from (17 for I3C), and the parameters its
completion needs; `ctx` is its target context. -/
structure OutCmd where
  op : Nat
  seq : Nat
  ring : Nat
  ctx : Nat := 0
  a : Nat := 0
  b : Nat := 0
  c : Nat := 0
  deriving DecidableEq, Repr

/-- A command ring and its completion ring (R359, R360). -/
structure Ring where
  base : Nat := 0
  cplBase : Nat := 0
  cmdLog : Nat := 0
  cplLog : Nat := 0
  tail : Nat := 0
  head : Nat := 0
  cplHead : Nat := 0
  cplTail : Nat := 0
  phase : Bool := true
  out : List OutCmd := []
  fault : Bool := false
  evtLost : Bool := false
  deriving DecidableEq, Repr

/-- A bound sequence of a serving context (R382): slot, tokens, limit, page list address, pages, and the marks of the
current heat. -/
structure SeqSt where
  slot : Nat
  tokens : Nat
  maxTokens : Nat
  pageList : Nat
  pages : List Nat
  grow : Nat := 0
  isNew : Bool := false
  stalled : Bool := false
  retiring : Bool := false
  /-- the growth has been decided for a heat that has not started -/
  due : Bool := false
  deriving DecidableEq, Repr

/-- A status reply (R365) without its PHASE and FT. -/
structure Reply where
  status : Nat
  op : Nat
  event : Bool
  seq : Nat
  param : Nat
  detail : Nat
  deriving DecidableEq, Repr

/-! Power (chapter 15). -/

/-- A context slot (R370). -/
structure Ctx where
  created : Bool := false
  home : Nat := 0
  st : CtxSt := .empty
  lastCode : Nat := 0
  part : Part := {}
  tableArea : Nat := 0
  tableBytes : Nat := 0
  /-- tables in the area: package-local address and bytes; the root is the last (R346, R347) -/
  tables : List (Nat × Nat) := []
  mould : Option Mould := none
  /-- first entry and count of the context's range on each die (R53) -/
  entries : List (Nat × Nat) := []
  heatUnits : Nat := 0
  holdDefault : Nat := 0
  overN : Nat := 0
  armFt : Nat := 0
  heatBase : Nat := 0
  localArm : Bool := false
  heat : Nat := 0
  /-- start of the heat in progress, and its length, which a commit at its end no longer changes -/
  heatStart : Nat := 0
  span : Nat := 0
  gen : Nat := 0
  stepCount : Nat := 0
  /-- arrival flags by die × 1,024 + flag (R57) -/
  flags : Sparse Nat := []
  stepFlags : Nat := 0
  stage : List Setting := []
  commit : Option (Nat × List Setting) := none
  /-- the settings in force, other than the PLAN timing (R69) -/
  settings : List Setting := []
  /-- pours handed over so far: heat, die, index in the die's table -/
  handed : List (Nat × Nat × Nat) := []
  /-- a HALT waits for the next heat start -/
  haltPending : Bool := false
  /-- a PREEMPT waits for its boundary: heat and offset (R374); taken once dispatch has stopped -/
  preempt : Option (Nat × Nat) := none
  preemptTaken : Bool := false
  destroying : Bool := false
  /-- resume point (CMDP_PREEMPT_AT), offset in 64 ns units -/
  resume : Option Nat := none
  /-- dispatch of the first heat after a resume starts at this offset -/
  skipBelow : Nat := 0
  seqs : List SeqSt := []
  /-- pages freed at the last decision, usable from the next (R384) -/
  heldPages : List Nat := []
  /-- heat decided last (R384); SEQ_ADMIT and SEQ_RETIRE commands not yet decided, with the FT of their acceptance; replies that the
  next heat start posts: command, status, parameter -/
  decided : Option Nat := none
  admits : List (OutCmd × Nat × List SeqSt) := []
  retires : List (OutCmd × Nat × List Nat) := []
  seqReplies : List (OutCmd × Nat × Nat) := []
  /-- sequences that reached their token limit: slot and last heat (R366, R382) -/
  seqEvents : List (Nat × Nat) := []
  /-- recorded commands of the last host-complex reset, the number beyond 64, its FT (R381) -/
  resetCmds : Option (List OutCmd × Nat × Nat) := none
  /-- replies that CTX_CREATE with RECOVER owes the new completion ring, in order (R381) -/
  owed : List Reply := []
  /-- last verdict applied: heat, and whether it was go (R217) -/
  verdict : Option (Nat × Bool) := none
  /-- PLAN_STEP_COUNT at the start of the heat in progress (R194) -/
  stepAtStart : Nat := 0
  /-- the direction whose retirement faulted the context, and the FT, until the other direction's record has been written (R468) -/
  degraded : Option (Nat × Nat) := none
  /-- a DIVERGED compare halts the context at its next heat start (R251) -/
  diverged : Bool := false
  /-- FT at which the context last left ARMED, RUNNING, HALTING or FAULTED (R420) -/
  freeSince : Nat := 0
  deriving DecidableEq, Repr

/-- Idle states (R418). -/
inductive Idle where
  | run | hold | banked | damped
  deriving DecidableEq, Repr

/-- The power manager of a die. -/
structure DiePwr where
  idle : Idle := .run
  /-- an entry in progress: target and the FT at which it completes (R418) -/
  entering : Option (Idle × Nat) := none
  /-- an exit in progress: the FT by which it ends (R421) -/
  exitBy : Option Nat := none
  /-- FT at which the last drain under DISABLE_UNIT on the die ended (R419, R420) -/
  drainEnd : Nat := 0
  ltv : Nat := 0
  /-- backstop level L (R412), the FT since which it stands, and the nanoseconds in which ARITH ran until then -/
  level : Nat := 0
  levelAt : Nat := 0
  /-- FT of the last suppressed slots that have been counted -/
  slotFt : Option Nat := none
  arithBase : Nat := 0
  thermal : Bool := false
  /-- sensor readings, 24, in units of 0.125 °C, two's complement, with bit 16 set once sampled -/
  temps : List Nat := []
  /-- sensors whose last sample was at or above their trip temperature -/
  hot : List Nat := []
  /-- energy of the interval in progress, in fJ, and the FT up to which static energy is charged -/
  energy : Nat := 0
  settled : Nat := 0
  /-- P_d of the last interval (PWR_POWER), and whether its report reached D0 for this computation -/
  power : Nat := 0
  reported : Bool := false
  /-- the previous report D0 holds, the budget computed for this die and not yet in effect, and the budget in effect -/
  lastReport : Nat := 0
  nextBudget : Option Nat := none
  budget : Nat := 525000
  deriving DecidableEq, Repr

/-! Boot, security and pins (chapter 16, 18). -/

/-- SEC_BOOT_STAGE.STATE. -/
inductive BootSt where
  | reset | booting | done | hold
  deriving DecidableEq, Repr

/-- Boot progress and results. -/
structure Boot where
  st : BootSt := .reset
  stage : Nat := 0
  /-- the stage has started and has not passed -/
  busy : Bool := false
  cause : Nat := 0
  status : Nat := 0
  die : Nat := 0
  /-- AON times of the start of stage 0x01 and of the stage in progress -/
  started : Nat := 0
  stageStart : Nat := 0
  time : Nat := 0
  /-- AON time of the release of the last die released, and the dies that have passed their self-test (stage 0x05) -/
  lastRelease : Nat := 0
  passed : List Nat := []
  ftWaitExpired : Bool := false
  svn : Nat := 0
  slhSlot : Nat := 0
  rsaSlot : Nat := 0
  slhOk : Bool := false
  rsaOk : Bool := false
  stacksPassed : Bool := false
  /-- AON time at which the burn of R438 has ended -/
  burnEnd : Option Nat := none
  /-- board configuration block and manifest of the image that booted -/
  config : List Byte := []
  manifest : List Byte := []
  /-- stage 0x08 has loaded its registers -/
  portsLoaded : Bool := false
  /-- debug: requested at PKG_RESET_N deassertion, waiting since, level, timed out, status, challenge (R449) -/
  dbgReq : Bool := false
  dbgSince : Option Nat := none
  dbgLevel : Nat := 0
  dbgTimeout : Bool := false
  dbgStatus : Nat := 0
  challenge : List Byte := []
  deriving DecidableEq, Repr

/-- SEC_IMAGE_STATUS.STATE (R441). -/
inductive ImgSt where
  | idle | receiving | verifying | verified | programming | failed
  deriving DecidableEq, Repr

/-- Loading an image, and attestation (R441, R446). -/
structure Sec where
  img : ImgSt := .idle
  imgCause : Nat := 0
  imgStatus : Nat := 0
  progress : Nat := 0
  /-- a COMMIT made after BOOT_DONE has started: a host-complex reset request becomes a package reset (R442) -/
  committed : Bool := false
  /-- such a request waits for the end of programming -/
  resetDue : Bool := false
  attBusy : Bool := false
  attCerts : Bool := false
  attNonce : List Byte := []
  attDest : Nat := 0
  attStatus : Nat := 0
  attLength : Nat := 0
  /-- measurement slots M0 to M7, 48 bytes each (R445) -/
  meas : List (List Byte) := []
  /-- test access port instruction state: reset by TRST_N -/
  tapReset : Bool := true
  deriving DecidableEq, Repr

/-- What the board drives and what must have lasted before boot (R427, R428). -/
structure Pins where
  powered : Bool := true
  pkgReset : Bool := true
  hcxReset : Bool := false
  /-- MGMT_ADDR1:MGMT_ADDR0 as sampled when PKG_RESET_N deasserted -/
  straps : Nat := 0
  /-- AON times since which the rails are in tolerance and REFCLK is present -/
  railsAt : Nat := 0
  refclk : Bool := true
  refclkAt : Nat := 0
  vioOk : Bool := true
  /-- a trip: AON time before which the package may not leave reset (R425); `tripped` until a package reset -/
  tripUntil : Option Nat := none
  tripped : Bool := false
  /-- AON times of the start of the last package reset and of the last deassertion of PKG_RESET_N -/
  resetAt : Nat := 0
  deassertAt : Nat := 0
  /-- FT does not count: package reset has not deasserted (R42) -/
  ftHeld : Bool := true
  deriving DecidableEq, Repr

/-- What the last register or memory access gave its requester. -/
inductive Resp where
  | none
  | value (v : Nat)
  | bytes (bs : List Byte)
  /-- a read of a runner queue waits for entries that have not been written (R395) -/
  | waits
  | accessFault
  /-- the access ended with a status code -/
  | failed (code : Nat)
  deriving DecidableEq, Repr

/-- A register of another package that Meilamo reads, or writes with a value (R302): its global address. -/
structure FarReg where
  addr : Nat
  write : Option Nat
  deriving DecidableEq, Repr

/-- The management interfaces (R476 to R483). -/
structure Mgmt where
  dynAddr : Option Nat := none
  ibiOn : Bool := false
  /-- in-band interrupts raised and not yet seen, each with the mandatory byte 0xA5 -/
  ibis : Nat := 0
  /-- command packets handed to D0's command processor and not yet accepted -/
  waiting : List (List Byte) := []
  /-- queued replies, oldest first -/
  replies : List (List Byte) := []
  /-- changes of a backstop level that Meilamo has recorded: FT, die, new level (R413) -/
  levelLog : List (Nat × Nat × Nat) := []
  /-- register accesses of other packages that Meilamo has still to request, and how those it requested have ended, by address (R302) -/
  far : List FarReg := []
  farDone : List (Nat × Resp) := []
  /-- FT at which QSPI data last entered the write path, and the entries it stored then (R483) -/
  qStored : Nat × Nat := (0, 0)
  /-- AON time up to which the loop-backs have been counted (R448) -/
  lbAt : Nat := 0
  lastErr : Nat := 0
  errSrc : Nat := 0
  underrun : Bool := false
  err : Bool := false
  /-- the bytes the last I3C or QSPI read returned to the board; none when the target gave no answer -/
  returned : Option (List Byte) := none
  deriving DecidableEq, Repr

/-! Memory and translation. -/

/-- An entry of a channel's write-combining buffer (R265): the whole line, the FT of its last write, and the error bits of
its words (R268). While `fill` holds, the line is being read and the listed partial writes wait to merge (R266, R267): offset
and bytes of each. -/
structure Wcb where
  bytes : List Byte
  lastWrite : Nat
  fill : Bool := false
  writes : List (Nat × List Byte) := []
  err : List (Nat × Nat) := []
  deriving DecidableEq, Repr

/-- A translation held by a die's translation cache (R349): context, page number at its size, leaf entry, pinned. -/
structure TcEntry where
  ctx : Nat
  page : Nat
  big : Bool
  leaf : Nat
  pinned : Bool
  deriving DecidableEq, Repr

/-- An invalidation on its way (R352, R356): the context and range [lo, hi), whether its leaves were cleared, the dies that have
still to reach their invalidation point, the command it completes, the transfers through dropped entries still to retire (tile
mover's unit id, tile, and the FT of the move's launch), and the FT of the last invalidation point. -/
structure Inval where
  ctx : Nat
  lo : Nat
  hi : Nat
  unmap : Bool
  dies : List Nat
  cmd : OutCmd
  retiring : List (Nat × Nat × Nat) := []
  lastFt : Nat := 0
  deriving DecidableEq, Repr

/-! Engines (chapters 04 to 06). -/

/-- A live accumulator tile (R109, R129): first segment, shape code, format (0 FP32 compensated, 1 FP64 compensated, 2 INT32) and
per element, row by row, the bits of its value and error terms. -/
structure Tile where
  seg : Nat
  shape : Nat
  fmt : Nat
  elems : List (Nat × Nat)
  live : Bool := true
  deriving DecidableEq, Repr

/-- A matrix engine and its paired vector engine (R111, R125, R150): live tiles, the next TQ_SEQ, the vector registers
(register × 4,096 + slot), mask registers K1 to K7 (numbers of 4,096 bits), address registers, the accumulator pointer (SETACC:
IMM and POS), the rounding source (tensor id, base index), the current tile header, the rows of its tile read and the rows before
the mark, the position of the next tile's first data entry, and VE_TQ_NEXT_SEQ. -/
structure EngSt where
  tiles : List Tile := []
  tqSeq : Nat := 0
  v : Sparse Nat := []
  k : List Nat := [0, 0, 0, 0, 0, 0, 0]
  a : List Nat := [0, 0, 0, 0, 0, 0, 0, 0]
  accImm : Nat := 0
  accPos : Nat := 0
  srcTid : Nat := 0
  srcBase : Nat := 0
  header : Option (List Byte) := none
  rowsRead : Nat := 0
  rowsMark : Nat := 0
  tileBase : Nat := 0
  nextSeq : Nat := 0
  deriving DecidableEq, Repr

/-! Bridges (chapter 01). -/

/-- A bridge direction: retired groups (bit vector), spares in use (group × 4 + spare ↦ data lane + 1), the bit errors of the last
1,000,000 ns (lane as group × 68 + lane, FT, number), lanes marked for repair, lanes under repair (group and the FT their repair began),
and, of the frames in flight (group, frame number), those whose replay the receiver awaits with the replays of each that have failed in a
row, and those it has accepted that the retry buffer still holds (R20 to R27). -/
structure BridgeSt where
  retired : Nat := 0
  spares : Sparse Nat := []
  errors : List (Nat × Nat × Nat) := []
  marked : List (Nat × Nat) := []
  repairing : List (Nat × Nat) := []
  awaiting : List ((Nat × Nat) × Nat) := []
  acked : List (Nat × Nat) := []
  trained : Bool := false
  /-- frames of groups that left service which no other group's retry buffer had room for yet (R25) -/
  displaced : List QEntry := []
  deriving DecidableEq, Repr

/-! Fabric time (chapter 02). -/

/-- FT lock states (R42). -/
inductive Lock where
  | free | acquiring | locked | holdover
  deriving DecidableEq, Repr

/-- The last valid beacon of a port (R40): the port, its stratum, the FT of its arrival, its master id, and the offset of FT from the
master's FT at its arrival. -/
structure Heard where
  port : Nat
  stratum : Nat
  ft : Nat
  master : Nat
  offset : Int
  deriving DecidableEq, Repr

/-- The FT unit of D0 (R39 to R46): lock state, the current or last lock, the last measured offset, the valid beacons in a row
within ±4 ns, the FT of the last valid beacon and of the last valid SYNC_IN edge (or of the entry into the state), the start of
HOLDOVER, the last valid beacon of each port, and the DELAY_REQ that waits for its answer. -/
structure FtUnit where
  lock : Lock := .free
  master : Nat := 0
  stratum : Nat := 0
  port : Nat := 0
  offset : Int := 0
  pathDelay : Nat := 0
  syncEdge : Nat := 0
  good : Nat := 0
  lastBeacon : Nat := 0
  lastEdge : Nat := 0
  holdSince : Nat := 0
  heard : List Heard := []
  /-- port and FT of departure of the DELAY_REQ in flight -/
  delayReq : Option (Nat × Nat) := none
  lastSeq : Nat := 0
  deriving DecidableEq, Repr

/-! Ports (chapter 11). -/

/-- PORT_STATUS.STATE. -/
inductive LinkSt where
  | disabled | down | training | up | retrain
  deriving DecidableEq, Repr

/-- An outstanding request of a port (R304): tag, destination, packet type, FT of its issue, first address, and the unit,
context, and tile it serves; `ended` once its transfer has ended. -/
structure Req where
  tag : Nat
  dst : Nat
  typ : Nat
  birth : Nat
  addr : Nat
  unit : Nat
  ctx : Nat
  tile : Nat
  /-- 0 element part, 1 scale part, 2 arrival, 3 exchange segment, 4 register access, 5 read of a REPAIR (`tile` is the channel offset) -/
  part : Nat := 0
  len : Nat := 0
  /-- FSEQ of the DATA frame that holds the packet's last byte, once it is sent -/
  lastFrame : Option Nat := none
  ended : Bool := false
  /-- it has ended with LINK_LOST or FABRIC_TIMEOUT, and can still land until 2,000,000 ns after its BIRTH (R324, R354) -/
  lost : Bool := false
  /-- of a tile's part: the engine virtual address that was translated for it, and the FT of the move's launch -/
  va : Nat := 0
  launch : Nat := 0
  deriving DecidableEq, Repr

/-- A packet on its way out of a port (R294, R295): its VC, the bytes that have arrived and have not left, in whole 32-byte steps, the
bytes that have still to arrive (R300), the credits it takes, the sender that R371 counts it for (a context, or 16 for any other), the tag of
a request of this package, and the port and VC by which a relayed packet came, whose credits return when its last byte has left. -/
structure OutPkt where
  vc : Nat
  bytes : List Byte
  left : Nat := 0
  units : Nat
  ctx : Nat := 16
  tag : Option Nat := none
  came : Option (Nat × Nat) := none
  deriving DecidableEq, Repr

/-- A packet for another package the rest of which is still arriving (R300): the port that it leaves by (none: it is discarded), its VC, its
credits, and the bytes still to come. -/
structure Relay where
  out : Option Nat
  vc : Nat
  units : Nat
  left : Nat
  deriving DecidableEq, Repr

/-- A fabric port. Frames: the next FSEQ to send, the last FSEQ accepted, credits held per VC, credits to return per VC, packets
waiting to be sent, the packet being sent, the bytes of the packet being received, the packet being relayed as it arrives, whole packets
received and not yet served, the VC served last, the senders of the last 99 DATA frames, latest first (R371), the FTs of recent NAKs, the last
FSEQ reported to the partner after RETRAIN (R321), and the last frame put on the link. Ethernet: producer indices read, FT until which each
priority is paused, and until which the port has paused the partner's. -/
structure PortSt where
  link : LinkSt := .disabled
  trained : Bool := false
  peer : Option Nat := none
  delay : Nat := 0
  retrainFt : Nat := 0
  txSeq : Nat := 0
  rxSeq : Nat := 0xFFFF
  credits : List Nat := [1024, 1024, 1024, 1024, 1024, 1024]
  owed : List Nat := [0, 0, 0, 0, 0, 0]
  waiting : List OutPkt := []
  sending : Option OutPkt := none
  receiving : List Byte := []
  relay : Option Relay := none
  inbox : List (List Byte) := []
  lastVc : Nat := 5
  senders : List Nat := []
  naks : List Nat := []
  reported : Option Nat := none
  tags : List Req := []
  /-- lost requests whose tags have been freed by an answer, until they can no longer land -/
  late : List Req := []
  lastTx : List Byte := []
  producers : List Nat := []
  paused : List Nat := []
  pausing : List Nat := []
  deriving DecidableEq, Repr

/-! The host complex (chapter 12). -/

/-- The coherence messages between a home and a core, other than requests (R334). -/
inductive MsgKind where
  | inv | fwdS | fwdI | dataS | dataE | grant | nack | putAck
  | wbClean | wbDirty | invAck | notPresent
  deriving DecidableEq, Repr

/-- What a home serves (R334): a core's request, an engine-side read or write, or a recall (R333). -/
inductive OpKind where
  | getS | getX | upgrade | read | write | evict
  deriving DecidableEq, Repr

/-- An engine-side access of one line at its home: a read, with the heat epoch of a fenced one (R195); bytes from an offset of the line on,
`row` when they come by a channel's own row, so that a partial write may wait for its fill (R265); or an atomic operation (R271). -/
inductive EngAcc where
  | read (fence : Option Nat)
  | write (off : Nat) (bytes : List Byte) (row : Bool)
  | atomic (atype aop : Nat) (ops : List Byte)
  deriving DecidableEq, Repr

/-- A directory entry (R332): up to four sharers, a die vector, or the owner. -/
inductive DirSt where
  | shared (cores : List Nat)
  | vector (dies : Nat)
  | owned (core : Nat)
  deriving DecidableEq, Repr

/-- A line of a system-level cache: bytes, whether modified, and its way. -/
structure SlcLine where
  bytes : List Byte
  dirty : Bool
  way : Nat
  deriving DecidableEq, Repr

/-- A core's copy of a line. -/
inductive CopySt where
  | modified | exclusive | sharedCopy
  deriving DecidableEq, Repr

/-- A line held by a core: its state, the end of the minimum hold (R339), the INV or forward that waits for it, and whether the level-1 data
cache holds it too (R328). -/
structure CoreLine where
  core : Nat
  line : Nat
  st : CopySt
  bytes : List Byte
  holdEnd : Nat
  due : Option MsgKind := none
  l1 : Bool := false
  deriving DecidableEq, Repr

/-- A core request that has not been granted (R337, R338): its kind, NACKs in a row, the FT of its next retry once a NACK has been
received, and the FT since which the core waits for an answer. -/
structure CoreReq where
  core : Nat
  line : Nat
  kind : OpKind
  nacks : Nat := 0
  retryAt : Option Nat := none
  since : Nat := 0
  deriving DecidableEq, Repr

/-- A message in flight: its kind, the core it comes from or goes to, the line, and the data it carries. -/
structure CohMsg where
  kind : MsgKind
  core : Nat
  line : Nat
  bytes : List Byte := []
  deriving DecidableEq, Repr

/-- A home busy with a line (R334): what it serves, for which core, the cores whose answers are missing, the engine-side access,
the cores whose PUT_M is to be acknowledged afterwards (R336), the line whose recall it waits for (R333), whether the line has
been granted (then it waits for the end of the hold, R339), and since when it waits for answers. -/
structure HomeOp where
  line : Nat
  kind : OpKind
  core : Nat := 0
  missing : List Nat := []
  acc : Option EngAcc := none
  putAcks : List Nat := []
  behind : Option Nat := none
  granted : Bool := false
  since : Nat := 0
  deriving DecidableEq, Repr

/-- The coherent domain: directory entries by line (least recently used first), system-level caches by line, core copies, core
requests, messages in flight, busy homes, engine-side accesses that wait, and reservations (line, core, FT). -/
structure Hcx where
  dir : List (Nat × DirSt) := []
  slc : List (Nat × SlcLine) := []
  copies : List CoreLine := []
  reqs : List CoreReq := []
  msgs : List CohMsg := []
  busy : List HomeOp := []
  engineWait : List (Nat × EngAcc) := []
  reserved : List (Nat × Nat × Nat) := []
  /-- lines of the level-1 instruction caches: core and line (R328) -/
  l1i : List (Nat × Nat) := []
  /-- cores released from reset -/
  running : Bool := false
  /-- PUT_M messages not yet acknowledged: core and line -/
  putting : List (Nat × Nat) := []
  /-- domain lost: cause code and FT (R342) -/
  down : Option (Nat × Nat) := none
  /-- the line of a system-level cache in which an uncorrectable word has been found, until the loss of the domain is carried out (R341) -/
  found : Option Nat := none
  /-- an access of the command in progress ended unapplied because the domain is lost (R342) -/
  fenced : Bool := false
  deriving DecidableEq, Repr

/-- A 64-bit word that carries a (72,64) code outside the memories of R450 (R111, R151, R343, R453): a word of an engine's accumulator
store, a word of a vector engine's registers (slots of V0 to V15 from 0 on, K1 to K7 from 65,536 on, A0 to A7 from 66,048 on), an
instruction word of a kernel, a system-level cache line's word (line, word), a level-1 instruction
cache line of a core, a pour entry of a die's sequencer, a word of a command processor's memory, of a translation cache or of a
directory. -/
inductive StoredWord where
  | acc (engine word : Nat)
  | vreg (engine word : Nat)
  | ins (engine word : Nat)
  | slc (line word : Nat)
  | plan (die entry : Nat)
  | cmdp (die word : Nat)
  | xlate (die entry : Nat)
  | dir (line : Nat)
  | uu (unit word : Nat)
  deriving DecidableEq, Repr

/-! The exchange, the referee and the update units (chapters 08, 09). -/

/-- A bucket tag that is not free (R210, R212). -/
inductive TagSt where
  | bound (ctx : Nat)
  | quarantined (endAt : Nat)
  deriving DecidableEq, Repr

/-- The role of a link adder in the referee or barrier tree for one heat (R215 to R218, R221): the descriptor, whether it runs on a
kept descriptor of a faulted context, the words of children that have arrived (package id and word), the word sent up, the
down word, whether it has been applied, and the generation in which the role or its first word came (R211). A word that arrives before
the role begins makes a node without a descriptor. -/
structure Node where
  ctx : Nat
  unit : Nat
  tag : Nat
  barrier : Bool
  heat : Nat
  start : Nat
  desc : List Byte
  kept : Bool := false
  words : List (Nat × Nat) := []
  up : Option Nat := none
  down : Option Nat := none
  applied : Bool := false
  gen : Nat := 0
  deriving DecidableEq, Repr

/-- Segments accepted of one SEND (R204): its key, the sender's generation in it, and the FIRST fields received. -/
structure RxSend where
  gen : Nat
  die : Nat
  tag : Nat
  kind : Nat
  heat : Nat
  src : Nat
  got : List Nat
  deriving DecidableEq, Repr

/-- A weight region held by an update unit (R193, R229): the unit, the channel offset of its shard table, the index in the table, its
context, its epoch, and the shard descriptor. -/
structure Region where
  unit : Nat
  table : Nat
  shard : Nat
  ctx : Nat
  epoch : Nat
  desc : List Byte
  deriving DecidableEq, Repr

/-- A replica compare of one heat (R247 to R251): whether its COMPARE pour has run (before it, the descriptor is that of an earlier
heat), the package digest, the children (positions in CHILD) whose vote and count records have been accepted, the candidate, the result
word, the points the node has passed, and the generation of its run (R211). -/
structure Cmp where
  ctx : Nat
  heat : Nat
  start : Nat
  desc : List Byte
  begun : Bool
  digest : Nat := 0
  votes : List Nat := []
  counts : List Nat := []
  voted : Bool := false
  cand : Option Nat := none
  counted : Bool := false
  result : Option Nat := none
  decided : Bool := false
  gen : Nat := 0
  deriving DecidableEq, Repr

/-- An EXPORT_SHARD accepted whose last read has not taken place (R254): the command, the shard's unit, table and index, its context, the
destination and limit, and the region's epoch at acceptance. -/
structure Export where
  cmd : OutCmd
  target : Nat
  region : Region
  dest : Nat
  limit : Nat
  deriving DecidableEq, Repr

end Sys2Proof.Machine
end

