-- ==== Sys2Proof/Machine/State.lean ====
section
/-!
DEFINITION. The state of the block: everything the spec gives the package, as plain data, and the state after reset.
-/
namespace Sys2Proof.Machine

/-- Why the block stops. -/
inductive Fault where
  /-- raised by PKG_RESET_N_ASSERT and HCX_RESET_N_ASSERT for a pulse that the spec forbids the board to drive and gives no
  effect (R427: a PKG_RESET_N pulse of 200 ns to less than 1,000 ns, an HCX_RESET_N pulse below 1,000 ns). Safe. -/
  | forbiddenPulse
  deriving DecidableEq, Repr

/-- Why a command has no meaning. -/
inductive Refusal where
  /-- raised by `exec` for a row of the table that has no meaning yet. Safe. -/
  | notModelled (mnemonic : String)
  deriving DecidableEq, Repr

/-- The package. -/
structure State where
  /-- commands that wait, first in, first out (the block form) -/
  pending : List Instr := []
  /-- FT of D0's FT unit in ns (R37); the AON time in ns since power-on, which no reset changes -/
  ft : Nat := 0
  aon : Nat := 0
  /-- the registers, by the address of their home; an unlisted register reads 0 (State.reset lists the others) -/
  regs : Sparse W64 := []
  /-- tier 0 and tier 1 by package-local address (R32); an unlisted byte reads 0 (log 4) -/
  mem : Sparse Byte := []
  /-- error bits stored in 64-bit words, by word address: the inverted data bits (R450, R451) -/
  ecc : Sparse Nat := []
  /-- error bits stored in the words of other structures (R450, log 13); no row of the table puts one there -/
  upsets : List (StoredWord × Nat) := []
  /-- write-combining entries by line number (R265) -/
  wcb : List (Nat × Wcb) := []
  /-- lines whose fill has failed on account of another request, until WCB_FILL_DONE tells the requester of the fill (R267) -/
  failedFills : List Nat := []
  /-- clean 4 KiB granules of working store, by number (R282): unlisted granules are dirty -/
  clean : Sparse Bool := []
  /-- board flash (R435); an unlisted byte reads 0 (log 5) -/
  flash : Sparse Byte := []
  /-- runner queues by key (R386, R399) -/
  queues : List (QueueId × RunQ) := []
  /-- units by unit id (R31) -/
  units : List (Nat × UnitSt) := []
  /-- engines by global index (R2) -/
  engs : List (Nat × EngSt) := []
  ctxs : List Ctx := []
  /-- rings 0 to 16 (R358) -/
  rings : List Ring := []
  /-- translation caches of the eight dies, most recently used first (R349), and invalidations in flight (R352) -/
  tc : List (List TcEntry) := []
  invals : List Inval := []
  /-- power managers of the eight dies -/
  pwr : List DiePwr := []
  /-- energy accounts in fJ: account (context, or 16 for the host) × 8 + die; and each context's total at the end of the
  last completed interval, with that interval's end (R415, R416) -/
  energy : Sparse Nat := []
  energyAt : List Nat := []
  energyEnd : Nat := 0
  /-- stacks in self-refresh, and the FT of each stack's last access while its die is DAMPED (R422) -/
  asleep : List Nat := []
  stackUse : Sparse Nat := []
  boot : Boot := {}
  sec : Sec := {}
  pins : Pins := {}
  mgmt : Mgmt := {}
  /-- fuses: burned bits of the SVN thermometer and of the eight key slots (R438) -/
  svnMin : Nat := 0
  revoked : Nat := 0
  /-- bridge directions by the die they leave and its endpoint slot, die × 3 + slot -/
  bridges : List (Nat × BridgeSt) := []
  /-- D0's FT unit (R42) -/
  ftu : FtUnit := {}
  /-- fabric ports P0 to P15 (R288) -/
  ports : List PortSt := []
  /-- route table: entry (VALID[7], PORT[3:0]) by destination package (R299) -/
  routes : Sparse Nat := []
  /-- bias of each tier-1 page: 0 SHARED, 1 ENGINE, 2 SHARED and BUSY (R314, R315) -/
  bias : Sparse Nat := []
  /-- cores, caches and directory (chapter 12) -/
  hcx : Hcx := {}
  /-- bucket tags by number (R210); the other tags are free -/
  tags : List (Nat × TagSt) := []
  /-- referee and barrier nodes, latest first: the newest of each context and kind is also the kept descriptor of R218 -/
  nodes : List Node := []
  /-- exchange segments accepted so far of each SEND (R204) -/
  rx : List RxSend := []
  /-- region tables of the update units (R229), and the shard table each update unit last swept: TABLE_OFF, SHARDS, context -/
  regions : List Region := []
  uuTables : List (Nat × Nat × Nat × Nat) := []
  cmps : List Cmp := []
  /-- EXPORT_SHARD commands whose reads have not taken place, oldest first (R254) -/
  exports : List Export := []
  /-- interrupts sent to interrupt files: hart and identity (R459) -/
  interrupts : List (Nat × Nat) := []
  /-- answer to the last register or memory access -/
  resp : Resp := .none
  /-- the model's own counter for free values (log 6) -/
  freeCount : Nat := 0
  deriving DecidableEq, Repr

/-- The registers stored in `regs` that a package reset leaves at another value than 0 (R11); every other register with such a
reset value is computed from the rest of the state. -/
def resetRegs : Sparse W64 :=
  [Reg.HCX_CORE_CTRL, Reg.PWR_PKG_CAP, Reg.DFT_CHAIN].foldl (fun m r =>
    let i := regInfo r
    (if i.scope = .die then List.range 8 else [0]).foldl (fun m d =>
      (List.range i.slots).foldl (fun m k => Sparse.put 0#64 m (regHome r d k) (BitVec.ofNat 64 i.reset)) m) m) []

/-- The machine right after a package reset: PKG_RESET_N still asserted, every unit in reset (R428). -/
def State.reset : State :=
  { regs := resetRegs
    ctxs := List.replicate 16 {}
    rings := List.replicate 17 {}
    tc := List.replicate 8 []
    pwr := List.replicate 8 { temps := List.replicate 24 0 }
    ports := List.replicate 16 {}
    energyAt := List.replicate 16 0
    sec := { meas := List.replicate 8 (List.replicate 48 0#8) } }

end Sys2Proof.Machine
end

