-- ==== Sys2Proof/Machine/Ops.lean ====
section
/-!
DEFINITION. The shared operations over the state: time, registers, counters and fault records (chapters 00 and 17), energy
accounts (15), tier 0 and tier 1 with their check bits and write-combining buffers (10, 17), address translation (12), arrival
flags and the ending of a context by a fault (02), replies (13).
-/
namespace Sys2Proof.Machine

/-! Time. -/

/-- An event takes place at FT `t`: FT and AON move on to it and never back (R38). -/
def State.advance (s : State) (t : Nat) : State :=
  if t ≤ s.ft then s else { s with ft := t, aon := s.aon + (t - s.ft) }

/-- An event takes place at AON time `t`; once package reset has deasserted FT moves with AON (R42). -/
def State.advanceAon (s : State) (t : Nat) : State :=
  if t ≤ s.aon then s
  else { s with aon := t, ft := if s.pins.ftHeld then s.ft else s.ft + (t - s.aon) }

/-- Where a die's FT lies when D0's FT is `x`: in a window of 2 ns that holds `x`, at a free place (R47). -/
def skewed (die x : Nat) : Nat := x + Config.skew die x % 3 - min x (Config.skew 0 x % 3)

/-- FT of a die: D0's FT for D0; for another die a free value such that no two dies differ by more than 2 ns (R47) and that decreases at
no FT (R38): the largest that `skewed` has given so far, which the last four values of D0's FT decide. Every die's FT starts from 0 (R42). -/
def State.dieFt (s : State) (die : Nat) : Nat :=
  if die = 0 then s.ft else min (2 * s.ft) ((List.range 5).foldl (fun m k => max m (skewed die (s.ft - k))) 0)

/-! Units and contexts. -/

/-- Unit classes (R31). -/
def clsME : Nat := 0x01
def clsVE : Nat := 0x02
def clsWS : Nat := 0x03
def clsSTK : Nat := 0x04
def clsUU : Nat := 0x05
def clsBRG : Nat := 0x06
def clsPORT : Nat := 0x07
def clsLADD : Nat := 0x08
def clsCMDP : Nat := 0x09
def clsPTU : Nat := 0x0A
def clsHCX : Nat := 0x0B
def clsPWR : Nat := 0x0C
def clsSEC : Nat := 0x0D
def clsMGMT : Nat := 0x0E
def clsFT : Nat := 0x0F
def clsPLAN : Nat := 0x10

/-- A unit id (R31). -/
def unitId (die cls inst : Nat) : Nat := 0x2000 * die + 0x100 * cls + inst
def unitDie (u : Nat) : Nat := u / 0x2000 % 8
def unitCls (u : Nat) : Nat := u / 0x100 % 0x20
def unitInst (u : Nat) : Nat := u % 0x100

/-- The unit id "no unit" of fault records. -/
def noUnit : Nat := 0xFFFF

/-- A die has a bridge endpoint at a slot (R2, BRG block): slot 0 toward the left, 1 toward the right, 2 toward the other row. -/
def brgSlot (die slot : Nat) : Bool :=
  match slot with
  | 0 => die % 4 != 0
  | 1 => die % 4 != 3
  | 2 => true
  | _ => false

/-- The unit exists (table of R31). DESIGN CHOICE (log 93): a BRG id whose slot has no bridge names no unit. -/
def unitExists (u : Nat) : Bool :=
  let i := unitInst u
  let d := unitDie u
  u < 0x10000 &&
  (match unitCls u with
   | 0x01 => i < 48 | 0x02 => i < 48 | 0x03 => i < 32 | 0x04 => i < 64 | 0x05 => i < 64
   | 0x06 => brgSlot d i
   | 0x07 => i < 2 | 0x08 => i < 2 | 0x09 => i = 0 | 0x0A => i = 0 | 0x0B => i < 24 || i == 0x80
   | 0x0C => i = 0 | 0x0D => i = 0 && d == 0 | 0x0E => i = 0 && d == 0 | 0x0F => i = 0 | 0x10 => i = 0
   | _ => false)

/-- A context slot. -/
def State.ctx (s : State) (c : Nat) : Ctx := s.ctxs.getD c {}

/-- Change a context slot. -/
def State.setCtx (s : State) (c : Nat) (f : Ctx → Ctx) : State := { s with ctxs := modAt f s.ctxs c }

/-- The created contexts, ascending. -/
def State.created (s : State) : List Nat := (List.range 16).filter (fun c => (s.ctx c).created)

/-- ARMED or RUNNING. -/
def Ctx.active (c : Ctx) : Bool := c.created && (c.st == .armed || c.st == .running)

/-- Some context is ARMED or RUNNING (R44, R46). -/
def State.anyActive (s : State) : Bool := s.ctxs.any Ctx.active

/-- A unit's state. -/
def lookupD {κ α : Type} [DecidableEq κ] (d : α) : List (κ × α) → κ → α
  | [], _ => d
  | (k', v) :: l, k => if k = k' then v else lookupD d l k

/-- Set the value at a key, in place when it is listed, else in front. -/
def setKey {κ α : Type} [DecidableEq κ] (l : List (κ × α)) (k : κ) (v : α) : List (κ × α) :=
  if l.any (fun kv => decide (kv.1 = k)) then l.map (fun kv => if kv.1 = k then (k, v) else kv) else (k, v) :: l

def State.unit (s : State) (u : Nat) : UnitSt := lookupD {} s.units u
def State.setUnit (s : State) (u : Nat) (f : UnitSt → UnitSt) : State :=
  { s with units := setKey s.units u (f (s.unit u)) }

def State.queue (s : State) (q : QueueId) : RunQ := lookupD {} s.queues q
def State.setQueue (s : State) (q : QueueId) (f : RunQ → RunQ) : State :=
  { s with queues := setKey s.queues q (f (s.queue q)) }

def State.die (s : State) (d : Nat) : DiePwr := s.pwr.getD d {}
def State.setDie (s : State) (d : Nat) (f : DiePwr → DiePwr) : State := { s with pwr := modAt f s.pwr d }

/-- Nanoseconds below `ft` in which ARITH has edges at backstop level `l`: all but the first 64 × l of every 1,024 (R412). -/
def runNs (l ft : Nat) : Nat := ft / 1024 * (1024 - 64 * l) + (ft % 1024 - 64 * l)

/-- The nanoseconds in which a die's ARITH has run, up to an FT at its present level (R412, R413). -/
def DiePwr.arithNs (p : DiePwr) (ft : Nat) : Nat := p.arithBase + (runNs p.level ft - runNs p.level p.levelAt)
def State.arithNs (s : State) (d : Nat) : Nat := (s.die d).arithNs s.ft

/-- The backstop level changes at an FT. -/
def DiePwr.setLevel (p : DiePwr) (ft l : Nat) : DiePwr := { p with arithBase := p.arithNs ft, levelAt := ft, level := l }

/-- At least `n` arithmetic cycles of a die have passed since its ARITH time `from'`, counted in whole nanoseconds (20 of 17 ns). -/
def State.passed (s : State) (d from' n : Nat) : Bool := from' + n * 20 / 17 ≤ s.arithNs d

/-- The arithmetic cycles of a die that have passed since its ARITH time `from'`. -/
def State.ran (s : State) (d from' : Nat) : Nat := ((s.arithNs d + 1 - from') * 17 - 1) / 20

def State.ring (s : State) (r : Nat) : Ring := s.rings.getD r {}
def State.setRing (s : State) (r : Nat) (f : Ring → Ring) : State := { s with rings := modAt f s.rings r }

def State.bridge (s : State) (die slot : Nat) : BridgeSt := lookupD {} s.bridges (die * 3 + slot)
def State.setBridge (s : State) (die slot : Nat) (f : BridgeSt → BridgeSt) : State :=
  { s with bridges := setKey s.bridges (die * 3 + slot) (f (s.bridge die slot)) }

/-- A value the spec leaves open, below `bound` when that is not 0: the next free value (log 6). -/
def State.free (s : State) (bound : Nat) : Nat × State :=
  let v := Config.freeNat s.freeCount
  (if bound = 0 then v else v % bound, { s with freeCount := s.freeCount + 1 })

/-! Partitions (R370, R284). -/

def partHasEngine (p : Part) (e : Nat) : Bool := bitOf p.engines e
def partHasMover (p : Part) (i : Nat) : Bool := bitOf p.movers i
def partHasBank (p : Part) (b : Nat) : Bool := bitOf p.banks b
def partHasChannel (p : Part) (ch : Nat) : Bool := bitOf p.channels ch
def partHasAdder (p : Part) (i : Nat) : Bool := bitOf p.adders i

/-- The context that owns a resource of a kind, if any. -/
def State.ownerOf (s : State) (has : Part → Bool) : Option Nat := s.created.find? (fun c => has (s.ctx c).part)
def State.engineOwner (s : State) (e : Nat) : Option Nat := s.ownerOf (fun p => partHasEngine p e)
def State.moverOwner (s : State) (i : Nat) : Option Nat := s.ownerOf (fun p => partHasMover p i)
def State.bankOwner (s : State) (b : Nat) : Option Nat := s.ownerOf (fun p => partHasBank p b)
def State.channelOwner (s : State) (ch : Nat) : Option Nat := s.ownerOf (fun p => partHasChannel p ch)
def State.adderOwner (s : State) (i : Nat) : Option Nat := s.ownerOf (fun p => partHasAdder p i)

/-- The unit is one of a partition's own: engines, movers, banks, channels, update units, adders. -/
def partHasUnit (p : Part) (u : Nat) : Bool :=
  let d := unitDie u
  let i := unitInst u
  match unitCls u with
  | 0x01 => partHasEngine p (d * 48 + i)
  | 0x02 => partHasEngine p (d * 48 + i)
  | 0x03 => if i < 16 then partHasBank p (d * 16 + i) else partHasMover p (d * 16 + (i - 16))
  | 0x04 => partHasChannel p (64 * d + i)
  | 0x05 => partHasChannel p (64 * d + i)
  | 0x08 => partHasAdder p (d * 2 + i)
  | _ => false

/-- The unit counts as inside the partition for STAGE and LOAD_MOULD (R368). -/
def inPartition (p : Part) (u : Nat) : Bool :=
  unitExists u &&
  (match unitCls u with
   | 0x06 => true | 0x07 => true | 0x09 => true | 0x0A => true | 0x0C => true | 0x0F => true | 0x10 => true
   | _ => partHasUnit p u)

/-- The context touches a die (R419): an engine, tile mover, bank, channel or adder of it. -/
def touchesDie (p : Part) (d : Nat) : Bool :=
  bitsOf p.engines (d * 48 + 47) (d * 48) != 0 || bitsOf p.movers (d * 16 + 15) (d * 16) != 0 ||
  bitsOf p.banks (d * 16 + 15) (d * 16) != 0 || bitsOf p.channels (64 * d + 63) (64 * d) != 0 ||
  bitsOf p.adders (d * 2 + 1) (d * 2) != 0

/-! Registers and counters. -/

/-- The stored value of a register. -/
def State.reg (s : State) (r : Reg) (die slot : Nat) : Nat := (Sparse.at? 0#64 s.regs (regHome r die slot)).toNat

/-- Store a register. -/
def State.setReg (s : State) (r : Reg) (die slot v : Nat) : State :=
  { s with regs := Sparse.put 0#64 s.regs (regHome r die slot) (BitVec.ofNat 64 v) }

/-- The unit a counter belongs to (R462); a block that is no unit class of R31 has none (log 7). -/
def regUnit (r : Reg) (die slot : Nat) : Nat :=
  let o := (regInfo r).off
  match o / 0x10000 with
  | 0x01 => unitId 0 clsFT 0
  | 0x02 => unitId die clsPLAN 0
  | 0x03 => unitId die clsCMDP 0
  | 0x04 => unitId die clsPTU 0
  | 0x05 => unitId die clsWS (if o ≥ 0x50100 then 0x10 + slot else 0)
  | 0x06 => unitId die clsSTK slot
  | 0x07 => unitId die clsUU (if o < 0x73000 then slot else 0)
  | 0x08 => unitId die clsBRG slot
  | 0x09 => unitId die clsPORT slot
  | 0x0A => unitId die clsLADD (if o < 0xA0800 then slot else 0)
  | 0x0B => unitId die clsHCX (if o ≥ 0xB1000 then slot else 0x80)
  | 0x0C => unitId die (if 0xC1100 ≤ o then clsVE else clsME) slot
  | 0x0D => unitId die clsPWR 0
  | 0x0F => unitId 0 clsSEC 0
  | 0x10 => unitId 0 clsMGMT 0
  | _ => noUnit

/-- Largest COUNT of a counter (R460). -/
def countMax : Nat := 0xFFFFFFFFFFFF

/-- A counter after `n` more events (R461). -/
def countUp (old n : Nat) : Nat :=
  let c := min (old % 2 ^ 48 + n) countMax
  if c = countMax then c + 2 ^ 63 else c

/-- The eight-byte words of a fault record (R454). -/
def faultBytes (r : FaultRec) : List Byte :=
  leBytes 8 r.ft ++ leBytes 2 r.code ++ leBytes 2 r.unit ++ leBytes 1 r.ctx ++ leBytes 1 r.severity ++ leBytes 2 r.seq ++
  leBytes 8 r.address ++ leBytes 8 r.detail

/-- A lost-item word (R394). -/
def lostWord (code unit ctx : Nat) : Nat := 2 ^ 63 + 2 ^ 32 * ctx + 2 ^ 16 * unit + code

/-- Depth of an instance (R399). -/
def queueDepth : QueueId → Nat
  | .tileData _ => 4096
  | .tileHeader _ => 64
  | .bridgeRetry _ _ _ => 32
  | .portReplay _ => 1536
  | .faultQueue _ => 256
  | .dataPort => 1024

/-- The two sides run on one clock (R399). -/
def queueSync : QueueId → Bool
  | .tileData _ => true
  | .tileHeader _ => true
  | .faultQueue _ => true
  | _ => false

/-- An instance whose writer posts (R392, R399). -/
def queuePosts : QueueId → Bool
  | .faultQueue _ => true
  | .dataPort => true
  | _ => false

/-- Store an entry at WR; the read side of a one-clock queue sees it at once. -/
def qPush (sync : Bool) (e : QEntry) (q : RunQ) : RunQ :=
  { q with entries := q.entries ++ [e], wr := q.wr + 1, wrSeen := if sync then q.wr + 1 else q.wrSeen }

/-- An item is lost (R394): LAST_LOST, and FIRST_LOST while its VALID bit is 0. -/
def qLost (now word : Nat) (q : RunQ) : RunQ :=
  { q with
    lastLost := word, firstLost := if bitOf q.firstLost 63 then q.firstLost else word
    lostFt := some now, lostFirst := if q.lostFt = some now then q.lostFirst else word }

/-- A posted entry that finds the queue full (R392): OVERRUN, and the lost-item words. -/
def qLose (now word : Nat) (q : RunQ) : RunQ := { qLost now word q with overrun := true }

/-- The words of an entry, its tag among them, whose reads are corrected; and whether one of them is uncorrectable (R398). -/
def QEntry.corr (e : QEntry) : Nat := ((e.err :: e.errs).filter (fun b => popCount 64 b = 1)).length
def QEntry.bad (e : QEntry) : Bool := (e.err :: e.errs).any (fun b => popCount 64 b ≥ 2)

/-- An interrupt to the supervisor-level file of a hart (R459). -/
def State.notify (s : State) (die : Nat) : State :=
  let n := s.reg .ERR_NOTIFY die 0
  if bitOf n 0 then { s with interrupts := s.interrupts ++ [(bitsOf n 15 8, bitsOf n 23 16)] } else s

/-- Error bits that ERR_INJECT gives the next word written into a target, and the state with ARM cleared (ERR_INJECT). -/
def State.inject (s : State) (die target index : Nat) : Nat × State :=
  let r := s.reg .ERR_INJECT die 0
  if bitOf r 6 && bitsOf r 3 0 == target && (target == 3 || bitsOf r 15 8 == index) then
    ((match bitsOf r 5 4 with | 1 => 1 | 2 => 3 | _ => 0), s.setReg .ERR_INJECT die 0 (setBits r 6 6 0))
  else (0, s)

/-- The die whose fault queue takes the records of a unit (R456). -/
def faultDie (unit : Nat) : Nat := if unit = noUnit then 0 else unitDie unit

/-- What a counter or the fault collector of a die takes in. -/
inductive Ev where
  | bump (r : Reg) (die slot n : Nat)
  | record (die : Nat) (f : FaultIn)
  deriving DecidableEq, Repr

/-- Count events (R461, R462) or file a fault record (R454 to R458). A saturating counter files a NOTICE record, and filing a
record counts; the fuel bounds that chain, in which each of three counters saturates at most once. -/
def State.happen : Nat → Ev → State → State
  | 0, _, s => s
  | k + 1, .bump r die slot n, s =>
    if n = 0 then s
    else
      let old := s.reg r die slot
      let new := countUp old n
      let s := s.setReg r die slot new
      if bitOf new 63 && !bitOf old 63 then
        let s := s.happen k (.record (faultDie (regUnit r die slot)) ⟨0, regUnit r die slot, 0xFF, 0, regHome r die slot, 0⟩)
        s.happen k (.bump .ERR_SAT_EVENTS die 0 1)
      else s
  | k + 1, .record die f, s =>
    let seq := s.reg .ERR_FQ_NEXT_SEQ die 0
    let s := s.setReg .ERR_FQ_NEXT_SEQ die 0 ((seq + 1) % 65536)
    let s := s.happen k (.bump .ERR_RAISED die 0 1)
    let q := s.queue (.faultQueue die)
    if q.entries.length < 256 then
      let (err, s) := s.inject die 3 0
      let rec' : FaultRec := ⟨s.dieFt die, f.code, f.unit, f.ctx, f.severity, seq, f.address, f.detail⟩
      let s := if q.entries.isEmpty then s.notify die else s
      s.setQueue (.faultQueue die) (qPush true { bytes := faultBytes rec', valid := 2 ^ 32 - 1, last := true, err := err })
    else
      let s := if q.overrun then s else s.notify die
      let s := s.setQueue (.faultQueue die) (qLose s.ft (lostWord f.code f.unit f.ctx))
      s.happen k (.bump .ERR_FQ_LOST die 0 1)

/-- Count `n` events. -/
def State.count (s : State) (r : Reg) (die slot n : Nat) : State := s.happen 8 (.bump r die slot n)

/-- Write one fault record. -/
def State.raise (s : State) (code unit ctx severity address detail : Nat) : State :=
  s.happen 8 (.record (faultDie unit) ⟨code, unit, ctx, severity, address, detail⟩)

/-! Status codes (R369). -/

def stOk : Nat := 0x0000
def stBadOpcode : Nat := 0x0001
def stBadParam : Nat := 0x0002
def stBadState : Nat := 0x0003
def stNoResource : Nat := 0x0004
def stRefusedAdmission : Nat := 0x0005
def stTranslationFault : Nat := 0x0010
def stEpochFence : Nat := 0x0011
def stLateInput : Nat := 0x0012
def stMemUncorrectable : Nat := 0x0013
def stFabricTimeout : Nat := 0x0014
def stLinkLost : Nat := 0x0015
def stBridgeDegraded : Nat := 0x0016
def stStepSkipped : Nat := 0x0020
def stDigestMismatch : Nat := 0x0021
def stReplicaDiverged : Nat := 0x0022
def stAbortedDisable : Nat := 0x0030
def stAbortedReset : Nat := 0x0031
def stContextFenced : Nat := 0x0032
def stSigInvalid : Nat := 0x0040
def stConfigInconsistent : Nat := 0x0041

/-- The status codes of the table; the other values are reserved and never returned (R12, R369). -/
def isStatus (c : Nat) : Bool :=
  c ≤ 5 || (0x10 ≤ c && c ≤ 0x16) || (0x20 ≤ c && c ≤ 0x22) || (0x30 ≤ c && c ≤ 0x32) || c == 0x40 || c == 0x41

/-! Energy (R415). -/

/-- The host account. -/
def acctHost : Nat := 16

/-- Charge `n` events of a class on a die to an account (R415); PWR_CTX_ENERGY and PWR_ENERGY_HOST follow in whole mJ. -/
def State.charge (s : State) (die acct cls n : Nat) : State :=
  let e := n * (if cls < 20 then (Config.energyCoef die cls).toNat else 0)
  let k := acct * 8 + die
  let old := Sparse.at? 0 s.energy k
  let s := { s with energy := Sparse.put 0 s.energy k (old + e) }
  let s := s.setDie die (fun p => { p with energy := p.energy + e })
  let mj := (old + e) / 10 ^ 12 - old / 10 ^ 12
  if acct = acctHost then s.count .PWR_ENERGY_HOST die 0 mj else s.count .PWR_CTX_ENERGY die acct mj

/-- The account of an owner. -/
def acctOf (o : Option Nat) : Nat := o.getD acctHost

/-- The coherent domain is lost, or an error that loses it has been found (R341, R342). -/
def State.domainDown (s : State) : Bool := s.hcx.down.isSome || s.hcx.found.isSome

/-- Engines of a die that a partition owns. -/
def enginesOn (p : Part) (d : Nat) : Nat := popCount 48 (bitsOf p.engines (d * 48 + 47) (d * 48))

/-- The event class of the compute die's static energy in an idle state (R415). -/
def idleClass : Idle → Nat
  | .run => 15 | .hold => 16 | .banked => 17 | .damped => 18

/-- The cycles with an instruction retired that the 24 cores of a die have made in `n` ns at 2.6 GHz: how many is open (R415 class 14, log
97). -/
def State.retiredCycles (s : State) (n : Nat) : Nat × State := if s.hcx.running && !s.domainDown && n ≠ 0 then s.free (n * 24 * 13 / 5 + 1) else (0, s)

/-- Charge what a die has used since it was last charged: the compute die's static energy split by engines owned, the rest, the base die and
the cores to the host account (R415). Shares of `n` ns are charged as n × engines / 48 events, rounded down. It is done before anything that
the shares depend on changes. -/
def State.settle (s : State) (d : Nat) : State :=
  let p := s.die d
  let n := s.ft - p.settled
  let s := s.setDie d (fun p => { p with settled := s.ft })
  let cls := idleClass p.idle
  let owned := s.created.map (fun c => (c, enginesOn (s.ctx c).part d))
  let total := owned.foldl (fun a e => a + e.2) 0
  let s := owned.foldl (fun s (c, k) => s.charge d c cls (n * k / 48)) s
  let s := s.charge d acctHost cls (n * (48 - total) / 48)
  let s := s.charge d acctHost 19 n
  let (k, s) := s.retiredCycles n
  s.charge d acctHost 14 k

/-- Every die. -/
def State.settleAll (s : State) : State := (List.range 8).foldl State.settle s

/-- The dies that a context touches have been eligible, for its part, since it last ran; it touches them no longer from now on (R419, R420). -/
def State.leaveDies (s : State) (c : Nat) : State :=
  let x := s.ctx c
  let since := if x.st = .empty || x.st == .loaded then x.freeSince else s.ft
  let s := (List.range 8).foldl (fun s d => if touchesDie x.part d then s.setDie d (fun p => { p with drainEnd := max p.drainEnd since }) else s) s
  s.setCtx c (fun x => { x with freeSince := 0 })

/-- The level of a die changes, and Meilamo records it (R412, R413). -/
def State.setLevel (s : State) (d l : Nat) : State :=
  let s' := s.setDie d (fun p => p.setLevel s.ft l)
  if (s.die d).level = l then s' else { s' with mgmt := { s'.mgmt with levelLog := s'.mgmt.levelLog ++ [(s.ft, d, l)] } }

/-! Addresses (R32, R258, R262, R263). -/

def isTier1 (a : Nat) : Bool := a < 0x10000000000
def isWs (a : Nat) : Bool := 0x80000000000 ≤ a && a < 0x80200000000
/-- The address is assigned (R32). -/
def isAssigned (a : Nat) : Bool := isTier1 a || isWs a || isRegAddr a

def wsBase (die : Nat) : Nat := 0x80000000000 + 0x40000000 * die
def wsDie (a : Nat) : Nat := a / 0x40000000 % 0x2000
/-- Package-wide bank number of a working-store address. -/
def wsBank (a : Nat) : Nat := a / 0x4000000 % 0x20000
/-- 4 KiB granule number of a working-store address, package-wide. -/
def wsGranule (a : Nat) : Nat := a / 4096 % 0x80000000

/-- Stripe exponent of a stack (R262). -/
def State.stripe (s : State) (stack : Nat) : Nat :=
  let r := s.reg .STK_ILV (stack / 2) 0
  if stack % 2 = 0 then bitsOf r 2 0 else bitsOf r 10 8

/-- Global channel and channel offset of a tier-1 address (R262, R263). -/
def State.channelAt (s : State) (a : Nat) : Nat × Nat :=
  let fine := bitsOf (s.reg .STK_FINE 0 0) 1 0
  if fine = 0 then
    let st := a >>> 36
    let o := a % 2 ^ 36
    let j := s.stripe st
    let n := 2 ^ j
    let k := o >>> (31 + j)
    let gi := (o % 2 ^ (31 + j)) >>> 12
    (st * 32 + k * n + gi % n, ((gi >>> j) <<< 12) ||| (o % 4096))
  else
    let g := 2 ^ fine
    let f := (a >>> 37) / g * g
    let nn := 64 * g
    let gi := (a - 2 ^ 37 * f) >>> 12
    (64 * f + gi % nn, ((gi / nn) <<< 12) ||| (a % 4096))

/-- Die that owns an address. -/
def State.homeDie (s : State) (a : Nat) : Nat :=
  if isTier1 a then (s.channelAt a).1 / 64
  else if isWs a then wsDie a
  else if inWindow a then (a - regBase) / 0x1000000
  else 0

/-- Hops between two dies (R29). -/
def hops (a b : Nat) : Nat :=
  (if a % 4 ≤ b % 4 then b % 4 - a % 4 else a % 4 - b % 4) + (if a / 4 = b / 4 then 0 else 1)

/-! Stored words and their check bits (R450, R451). -/

/-- The line number of a tier-1 address. -/
def lineOf (a : Nat) : Nat := a / 64

/-- The write-combining entry of a line. -/
def State.entry (s : State) (ln : Nat) : Option Wcb := (s.wcb.find? (fun e => e.1 = ln)).map Prod.snd

/-- The byte a memory cell stores. -/
def State.cell (s : State) (a : Nat) : Byte := Sparse.at? 0#8 s.mem a

/-- The system-level cache's line (R328). -/
def State.slcLine (s : State) (ln : Nat) : Option SlcLine := (s.hcx.slc.find? (fun e => e.1 = ln)).map Prod.snd

/-- The byte an access delivers: from the system-level cache on a hit (R329), else through the line's write-combining entry when there
is one (R265, R266). -/
def State.peek (s : State) (a : Nat) : Byte :=
  if isTier1 a then
    match s.slcLine (lineOf a) with
    | some l => l.bytes.getD (a % 64) 0#8
    | none =>
    match s.entry (lineOf a) with
    | none => s.cell a
    | some w =>
      if w.fill then
        w.writes.foldl (fun b (o, bs) => if o ≤ a % 64 ∧ a % 64 < o + bs.length then bs.getD (a % 64 - o) b else b) (s.cell a)
      else w.bytes.getD (a % 64) 0#8
  else s.cell a

/-- Bytes as an access delivers them. -/
def State.peekBytes (s : State) (a n : Nat) : List Byte := (countFrom a n).map s.peek

/-- The error bits of the 64-bit word at word address `w` (address / 8), as a read meets them: in the system-level cache on a hit (R329),
in the write-combining entry, or in the DRAM or the working store. -/
def State.wordErr (s : State) (w : Nat) : Nat :=
  if isTier1 (w * 8) then
    if (s.slcLine (w / 8)).isSome then lookupD 0 s.upsets (.slc (w / 8) (w % 8))
    else
      match s.entry (w / 8) with
      | some e => if e.fill then Sparse.at? 0 s.ecc w else lookupD 0 e.err w
      | none => Sparse.at? 0 s.ecc w
  else Sparse.at? 0 s.ecc w

/-- The word addresses of a byte range. -/
def wordsOf (a n : Nat) : List Nat := if n = 0 then [] else countFrom (a / 8) ((a + n - 1) / 8 - a / 8 + 1)

/-- The tier-1 lines of a byte range. -/
def linesOf (a n : Nat) : List Nat := if n = 0 then [] else countFrom (a / 64) ((a + n - 1) / 64 - a / 64 + 1)

/-- What a read of the words that `p` names meets (R450): the number of corrected words, and whether one is uncorrectable. -/
def State.meets (s : State) (p : StoredWord → Bool) : Nat × Bool :=
  let hit := s.upsets.filter (fun e => p e.1)
  ((hit.filter (fun e => popCount 64 e.2 = 1)).length, hit.any (fun e => popCount 64 e.2 ≥ 2))

/-- The words that `p` names are written: they hold no error any more. -/
def State.mend (s : State) (p : StoredWord → Bool) : State := { s with upsets := s.upsets.filter (fun e => !p e.1) }

/-- First uncorrectable word of a range, as a word address. -/
def State.badWord (s : State) (a n : Nat) : Option Nat := (wordsOf a n).find? (fun w => popCount 64 (s.wordErr w) ≥ 2)

/-- The error counters of the structure that holds a word. -/
def State.countErr (s : State) (corrected : Bool) (a n : Nat) : State :=
  if isTier1 a then
    let ch := (s.channelAt a).1
    s.count (if corrected then .STK_ECC_CORR else .STK_ECC_UNCORR) (ch / 64) (ch % 64) n
  else s.count (if corrected then .WS_ECC_CORR else .WS_ECC_UNCORR) (wsDie a) 0 n

/-- A stack in self-refresh wakes for an access (R422), and the access is noted. -/
def State.touchStack (s : State) (a : Nat) : State :=
  if isTier1 a then
    let ch := (s.channelAt a).1
    let st := ch / 32
    let s := if s.asleep.contains st
      then { s.count .PWR_SR_WAKES (ch / 64) 0 1 with asleep := s.asleep.filter (fun x => x ≠ st) } else s
    if (s.die (ch / 64)).idle = .damped then { s with stackUse := Sparse.put 0 s.stackUse st s.ft } else s
  else s

/-- Count and charge the lines and 64-byte accesses of a range (R415 classes 7, 9 and 10; STK_LINES_RD and STK_LINES_WR). -/
def State.countLines (s : State) (write : Bool) (a n : Nat) : State :=
  (linesOf a n).foldl (fun s ln =>
    if isTier1 (64 * ln) then
      let ch := (s.channelAt (64 * ln)).1
      let s := s.charge (ch / 64) (acctOf (s.channelOwner ch)) (if write then 10 else 9) 1
      s.count (if write then .STK_LINES_WR else .STK_LINES_RD) (ch / 64) (ch % 64) 1
    else s.charge (wsDie (64 * ln)) (acctOf (s.bankOwner (wsBank (64 * ln)))) 7 1) s

/-- Store bytes into cells, with new check bits; the first word takes an injected error (ERR_INJECT) when one is armed. -/
def State.storeCells (s : State) (a : Nat) (bs : List Byte) : State :=
  let mem := (bs.foldl (fun (acc : Sparse Byte × Nat) b => (Sparse.put 0#8 acc.1 acc.2 b, acc.2 + 1)) (s.mem, a)).1
  let ecc := (wordsOf a bs.length).foldl (fun m w => Sparse.put 0 m w 0) s.ecc
  let (err, s) :=
    if bs.isEmpty then (0, s)
    else if isWs a then s.inject (wsDie a) 1 (wsBank a % 16)
    else let ch := (s.channelAt a).1; s.inject (ch / 64) 2 (ch % 64)
  let s := { s with mem := mem, ecc := if err = 0 then ecc else Sparse.put 0 ecc (a / 8) err }
  if isWs a then
    let granules := countFrom (wsGranule a) (wsGranule (a + (bs.length - 1)) - wsGranule a + 1)
    { s with clean := granules.foldl (fun m g => Sparse.put false m g false) s.clean }
  else s

/-- A whole line goes to the DRAM, which wakes for it (R265, R422). -/
def State.toDram (s : State) (ln : Nat) (bs : List Byte) : State :=
  ((s.touchStack (64 * ln)).storeCells (64 * ln) bs).countLines true (64 * ln) 1

/-- The write-combining entries of a channel, in the order of their last write. -/
def State.channelEntries (s : State) (ch : Nat) : List (Nat × Wcb) :=
  s.wcb.filter (fun e => (s.channelAt (64 * e.1)).1 = ch)

/-- Keep or replace the entry of a line. -/
def State.setEntry (s : State) (ln : Nat) (w : Wcb) : State := { s with wcb := setKey s.wcb ln w }

def State.dropEntry (s : State) (ln : Nat) : State := { s with wcb := s.wcb.filter (fun e => e.1 ≠ ln) }

/-! Engine-side accesses to lines that cores can hold (R313, R314, R329, R334, R342). Each is one step here: the home's messages and
their answers are part of the access (log 60). -/

/-- The line of a tier-1 address lies on a SHARED page. -/
def State.isShared (s : State) (a : Nat) : Bool :=
  isTier1 a && !(bitOf (s.reg .PORT_PKG_CTRL 0 0) 0 && Sparse.at? 0 s.bias (a / 2 ^ 26) == 1)

/-- The directory's entry of a line (R332). -/
def State.homeEntry (s : State) (ln : Nat) : Option DirSt := (s.hcx.dir.find? (fun e => e.1 = ln)).map Prod.snd

/-- The cores that an entry lists. -/
def DirSt.cores : DirSt → List Nat
  | .shared l => l
  | .vector v => (onesOf 8 v).flatMap (fun d => countFrom (d * 24) 24)
  | .owned k => [k]

def State.setMgmt (s : State) (f : Mgmt → Mgmt) : State := { s with mgmt := f s.mgmt }
def State.setHcx (s : State) (f : Hcx → Hcx) : State := { s with hcx := f s.hcx }

/-- The core's copy of a line. -/
def State.copyOf (s : State) (core ln : Nat) : Option CoreLine := s.hcx.copies.find? (fun c => c.core = core && c.line == ln)

/-- The home's state at a line. -/
def State.homeOp (s : State) (ln : Nat) : Option HomeOp := s.hcx.busy.find? (fun o => o.line = ln)

/-- An access to a range needs a snoop that the lost domain cannot give, or waits at a home (R342): a read meets state O, a write S or O. -/
def State.fencedIn (s : State) (write : Bool) (a n : Nat) : Bool :=
  s.domainDown && isTier1 a &&
  (linesOf a n).any (fun ln => s.isShared (64 * ln) && ((s.homeOp ln).isSome ||
    (match s.homeEntry ln with | none => false | some (.owned _) => true | some _ => write)))

/-- An engine-side access to a range waits at a home (R334, R339): the home is busy with a line, or a core that has to answer holds it within
its minimum hold. -/
def State.homeBusy (s : State) (write : Bool) (a n : Nat) : Bool :=
  !s.domainDown && isTier1 a &&
  (linesOf a n).any (fun ln => s.isShared (64 * ln) && ((s.homeOp ln).isSome ||
    (let held : Bool := s.hcx.copies.any (fun c => c.line = ln && decide (s.ft < c.holdEnd))
     match s.homeEntry ln with | none => false | some (.owned _) => held | some _ => write && held)))

def State.setFenced (s : State) : State := s.setHcx (fun h => { h with fenced := true })

/-- The words of a line in a system-level cache are gone or written anew. -/
def State.mendSlc (s : State) (ln : Nat) : State := s.mend (fun w => match w with | .slc l _ => l == ln | _ => false)

/-- A whole line reaches the memory side of its home: the write-combining entry when one is held, else the DRAM (R265). It replaces an entry
whose fill is in progress too: the line's bytes are known then, those of the writes that waited among them. -/
def State.putLine (s : State) (ln : Nat) (bs : List Byte) : State :=
  match s.entry ln with
  | some _ => s.setEntry ln { bytes := bs, lastWrite := s.ft }
  | none => s.toDram ln bs

/-- The modified bytes of a system-level cache's copy join the line's write-combining entry, ahead of a partial write (R329). A line not
held takes an entry: all its bytes are known, so nothing is read (log 79). -/
def State.mergeCopy (s : State) (ln : Nat) (bs : List Byte) : State :=
  match s.entry ln with
  | some _ => s.putLine ln bs
  | none => s.setEntry ln { bytes := bs, lastWrite := s.ft }

/-- Modified data that a core gives back on an engine-side access: to the cache line when the system-level cache holds it, else to the
write-combining buffer (R334). -/
def State.homeWrite (s : State) (ln : Nat) (bs : List Byte) : State :=
  if (s.slcLine ln).isSome then (s.setHcx (fun h => { h with slc := h.slc.map (fun e =>
    if e.1 = ln then (ln, { e.2 with bytes := bs, dirty := true }) else e) })).mendSlc ln
  else s.putLine ln bs

/-- Modified data of a line at a core or on its way from one; the core keeps it shared, the message goes on without it. -/
def State.takeDirty (s : State) (ln : Nat) : State × Option (List Byte) :=
  match s.hcx.msgs.find? (fun m => m.kind = .wbDirty && m.line == ln) with
  | some m => (s.setHcx (fun h => { h with msgs := h.msgs.map (fun x => if x = m then { x with kind := .wbClean } else x) }), some m.bytes)
  | none =>
    match s.hcx.copies.find? (fun c => c.line = ln && c.st == .modified) with
    | some c => (s.setHcx (fun h => { h with copies := h.copies.map (fun x => if x = c then { x with st := .sharedCopy } else x) }), some c.bytes)
    | none => (s, none)

/-- The home die of a line. -/
def State.lineHome (s : State) (ln : Nat) : Nat := (s.channelAt (64 * ln)).1 / 64

/-- An engine-side read of a line (R334): FWD_S to an owner; its modified data goes to the home. While the home is busy with the line
only the data is taken. -/
def State.snoopRead (s : State) (ln : Nat) : State :=
  if !s.isShared (64 * ln) || (s.hcx.dir.isEmpty && s.hcx.msgs.isEmpty) then s
  else
    let (s, d) := s.takeDirty ln
    let s := match d with | some b => s.homeWrite ln b | none => s
    match s.homeOp ln, s.homeEntry ln with
    | none, some (.owned k) =>
      let s := s.count .HCX_SNOOPS (s.lineHome ln) 0 1
      if (s.copyOf k ln).isSome then
        s.setHcx (fun h => { h with
          dir := setKey h.dir ln (.shared [k])
          copies := h.copies.map (fun c => if c.line = ln then { c with st := .sharedCopy } else c) })
      else (s.count .HCX_NOT_PRESENT (s.lineHome ln) 0 1).setHcx (fun h => { h with dir := h.dir.filter (fun e => e.1 ≠ ln) })
    | _, _ => s

/-- An engine-side write to a line (R329, R334): INV to every sharer or FWD_I to the owner, modified bytes merged only for a partial
write; the system-level cache gives up the line. A grant on its way to a core carries the line as written. -/
def State.snoopWrite (s : State) (a : Nat) (bs : List Byte) : State :=
  let ln := lineOf a
  if !s.isShared a || (s.hcx.dir.isEmpty && s.hcx.msgs.isEmpty && s.hcx.slc.isEmpty) then s
  else
    let part : Bool := bs.length < 64
    let (s, d) := s.takeDirty ln
    let s := match d with | some b => if part then s.homeWrite ln b else s | none => s
    let s :=
      match s.homeOp ln, s.homeEntry ln with
      | none, some e =>
        let home := s.lineHome ln
        let s := s.count .HCX_SNOOPS home 0 1
        let s := s.count .HCX_NOT_PRESENT home 0 (e.cores.filter (fun k => (s.copyOf k ln).isNone)).length
        s.setHcx (fun h => { h with dir := h.dir.filter (fun e => e.1 ≠ ln) })
      | _, _ => s
    let granted (c : CoreLine) : Bool := s.hcx.msgs.any (fun m => m.kind = .grant && m.core == c.core && m.line == ln)
    let s := s.setHcx (fun h => { h with
      copies := h.copies.filterMap (fun c =>
        if c.line ≠ ln then some c else if granted c then some { c with bytes := overlay c.bytes (a % 64) bs } else none)
      msgs := h.msgs.map (fun m => if m.line = ln && (m.kind == .dataS || m.kind == .dataE)
        then { m with bytes := overlay m.bytes (a % 64) bs } else m) })
    match s.slcLine ln with
    | none => s
    | some l =>
      let s := (s.setHcx (fun h => { h with slc := h.slc.filter (fun e => e.1 ≠ ln) })).mendSlc ln
      if part && l.dirty then s.mergeCopy ln l.bytes else s

/-- An uncorrectable word of a system-level cache has been found: the domain stops (R341); what R342 adds follows in the rows of the coherent
domain, or as time passes (log 94). -/
def State.findError (s : State) (ln : Nat) : State := s.setHcx (fun h => { h with found := some (h.found.getD ln) })

/-- A corrected word counts at the structure that holds it (R450): the system-level cache on a hit. -/
def State.countCorr (s : State) (w : Nat) : State :=
  if isTier1 (w * 8) && (s.slcLine (w / 8)).isSome then s.count .HCX_ECC_CORR (s.lineHome (w / 8)) 0 1 else s.countErr true (w * 8) 1

/-- Read bytes of tier 0 or tier 1 on behalf of any requester: corrected words count (R450); none on an uncorrectable word, which
counts once and stays as it is (R451). One in a system-level cache stops the coherent domain (R341, log 94). A stack in self-refresh wakes
for a line that neither a buffer nor the cache serves (R422). -/
def State.load (s : State) (a n : Nat) : State × Option (List Byte) :=
  if s.fencedIn false a n then (s.setFenced, none)
  else
  let s := if isTier1 a then (linesOf a n).foldl State.snoopRead s else s
  let s := (linesOf a n).foldl (fun s ln =>
    if isTier1 (64 * ln) && ((s.entry ln).isSome || (s.slcLine ln).isSome) then s
    else (s.touchStack (64 * ln)).countLines false (64 * ln) 1) s
  let corr := ((wordsOf a n).filter (fun w => popCount 64 (s.wordErr w) = 1))
  let s := corr.foldl State.countCorr s
  match s.badWord a n with
  | some w => (if isTier1 (w * 8) && (s.slcLine (w / 8)).isSome then s.findError (w / 8) else s.countErr false (w * 8) 1, none)
  | none => (s, some (s.peekBytes a n))

/-- The die ids 0 to 7. -/
def dies : List Nat := List.range 8

end Sys2Proof.Machine
end

