-- ==== Sys2Proof/Machine/Mem.lean ====
section
/-!
DEFINITION. Writes to tier 0 and tier 1 through the write-combining buffers (R260, R265 to R268, R451), address translation
(R344 to R350), replies (R360 to R366) and the ending of a context by a fault (R61, R71, R375).
-/
namespace Sys2Proof.Machine

/-! Writes. What happens to the owner of a channel when an entry with an uncorrectable word is written out (R268) is the
parameter `lost`: the line whose new data is lost. -/

/-- Merge bytes into a held entry; words the write covers whole lose their error (R451). -/
def mergeEntry (ft off : Nat) (bs : List Byte) (w : Wcb) : Wcb :=
  { w with bytes := overlay w.bytes off bs, lastWrite := ft }

/-- Merge a partial write into an entry that holds the line (R265). A word written in part is read first: an uncorrectable one stops the
write (R451), and the answer is false. -/
def State.mergeWrite (s : State) (a : Nat) (bs : List Byte) (w : Wcb) : State × Bool :=
  let ch := (s.channelAt a).1
  let words := wordsOf a bs.length
  let whole (w : Nat) : Bool := a ≤ w * 8 && w * 8 + 8 ≤ a + bs.length
  let touched := w.err.filter (fun e => words.contains e.1)
  if touched.any (fun e => popCount 64 e.2 ≥ 2 && !whole e.1) then (s.countErr false a 1, false)
  else
    let s := s.countErr true a ((touched.filter (fun e => !whole e.1)).length)
    let (err, s) := s.inject (ch / 64) 2 (ch % 64)
    let rest := w.err.filter (fun e => !words.contains e.1)
    let w' := mergeEntry s.ft (a % 64) bs w
    (s.setEntry (lineOf a) { w' with err := if err = 0 then rest else (a / 8, err) :: rest }, true)

/-- The writes that waited for a fill merge, in order; false when one of them was not applied. -/
def State.mergeWaiting (ln : Nat) : List (Nat × List Byte) → State → State × Bool
  | [], s => (s, true)
  | (o, d) :: rest, s =>
    match s.entry ln with
    | none => (s, false)
    | some w =>
      let (s, a) := s.mergeWrite (64 * ln + o) d w
      let (s, b) := State.mergeWaiting ln rest s
      (s, a && b)

/-- A fill ends (R265, R267): the entry holds the line, and the writes that waited merge. False when the line cannot be read: no entry is
kept, and the writes are not applied; WCB_FILL_DONE tells their requester. -/
def State.finishFill (s : State) (ln : Nat) : State × Bool :=
  match s.entry ln with
  | none => (s, true)
  | some w =>
    if !w.fill then (s, true)
    else
      match (s.dropEntry ln).load (64 * ln) 64 with
      | (s, none) => ({ s with failedFills := ln :: s.failedFills }, false)
      | (s, some bs) => State.mergeWaiting ln w.writes (s.setEntry ln { bytes := bs, lastWrite := s.ft })

/-- Write an entry out to the DRAM (R268): the entry goes; an uncorrectable word leaves the old line. -/
def State.writeOut (lost : State → Nat → State) (s : State) (ln : Nat) : State :=
  match s.entry ln with
  | none => s
  | some w =>
    let ch := (s.channelAt (64 * ln)).1
    let bad := w.err.any (fun e => popCount 64 e.2 ≥ 2)
    let corr := (w.err.filter (fun e => popCount 64 e.2 = 1)).length
    let s := s.dropEntry ln
    let s := s.count .STK_WCB_FLUSH (ch / 64) (ch % 64) 1
    let s := s.countErr true (64 * ln) corr
    if bad then lost (s.countErr false (64 * ln) 1) ln
    else s.toDram ln w.bytes

/-- The same of an entry whose fill may still be in progress: the fill ends first (R267). -/
def State.flushEntry (lost : State → Nat → State) (s : State) (ln : Nat) : State :=
  match s.finishFill ln with
  | (s, true) => s.writeOut lost ln
  | (s, false) => s

/-- The least recently written of some entries. -/
def oldestEntry : List (Nat × Wcb) → Option Nat
  | [] => none
  | e :: rest => some (rest.foldl (fun (b : Nat × Wcb) x => if x.2.lastWrite < b.2.lastWrite then x else b) e).1

/-- Room for one more entry on a channel: the least recently written one is written out first, and the allocation waits for it (R268). -/
def State.makeRoom (lost : State → Nat → State) (s : State) (ch : Nat) : State :=
  let es := s.channelEntries ch
  if es.length < 32 then s
  else
    match oldestEntry es with
    | none => s
    | some ln => s.flushEntry lost ln

/-- Room for the entry that the modified bytes of a cached copy take, when a partial write meets one (R329). -/
def State.copyRoom (lost : State → Nat → State) (s : State) (a n : Nat) : State :=
  match s.slcLine (lineOf a), s.entry (lineOf a) with
  | some l, none => if l.dirty && n < 64 && s.isShared a then s.makeRoom lost (s.channelAt a).1 else s
  | _, _ => s

/-- The entry of a line, for a partial write: a fill in progress ends first, and a line that is not held is filled, which reads it (R265).
False when the line cannot be read. -/
def State.holdLine (lost : State → Nat → State) (s : State) (ln ch : Nat) : State × Bool :=
  match s.entry ln with
  | some _ => s.finishFill ln
  | none =>
    match (s.count .STK_WCB_FILL (ch / 64) (ch % 64) 1).load (64 * ln) 64 with
    | (s, none) => (s, false)
    | (s, some line) => let s := s.makeRoom lost ch; (s.setEntry ln { bytes := line, lastWrite := s.ft }, true)

/-- Write part of one line, or all of it (R265). False when a partial write met an uncorrectable word: it is not applied. -/
def State.saveLine (lost : State → Nat → State) (s : State) (a : Nat) (bs : List Byte) : State × Bool :=
  if s.fencedIn true a bs.length then (s.setFenced, false)
  else
  let s := (s.copyRoom lost a bs.length).snoopWrite a bs
  let ln := lineOf a
  let ch := (s.channelAt a).1
  if bs.length = 64 then
    match s.entry ln with
    | some _ =>
      let (err, s) := s.inject (ch / 64) 2 (ch % 64)
      (s.setEntry ln { bytes := bs, lastWrite := s.ft, err := if err = 0 then [] else [(a / 8, err)] }, true)
    | none => (s.toDram ln bs, true)
  else
    let (s, ok) := s.holdLine lost ln ch
    match s.entry ln with
    | none => (s, false)
    | some w => if ok then s.mergeWrite a bs w else (s, false)

/-- Change bytes of the working store; a word written in part is read first (R260, R451). -/
def State.putWs (s : State) (a : Nat) (bs : List Byte) : State × Bool :=
  let whole (w : Nat) : Bool := a ≤ w * 8 && w * 8 + 8 ≤ a + bs.length
  let part := (wordsOf a bs.length).filter (fun w => !whole w)
  if part.any (fun w => popCount 64 (s.wordErr w) ≥ 2) then (s.countErr false a 1, false)
  else
    let s := s.countErr true a ((part.filter (fun w => popCount 64 (s.wordErr w) = 1)).length)
    (s.storeCells a bs, true)

/-- Bytes of the working store for one element: corrected words count; none on an uncorrectable word (R450, R451). -/
def State.getWs (s : State) (a n : Nat) : State × Option (List Byte) :=
  let s := s.countErr true a (((wordsOf a n).filter (fun w => popCount 64 (s.wordErr w) = 1)).length)
  match s.badWord a n with
  | some w => (s.countErr false (w * 8) 1, none)
  | none => (s, some (s.peekBytes a n))

/-- Write bytes of the working store. -/
def State.saveWs (s : State) (a : Nat) (bs : List Byte) : State × Bool :=
  match s.putWs a bs with
  | (s, true) => (s.countLines true a bs.length, true)
  | (s, false) => (s, false)

/-- The pieces of a byte string, one per line: addresses and bytes. -/
def linePieces (a : Nat) (bs : List Byte) : List (Nat × List Byte) :=
  (linesOf a bs.length).map (fun ln =>
    let lo := max a (64 * ln)
    let hi := min (a + bs.length) (64 * ln + 64)
    (lo, (bs.drop (lo - a)).take (hi - lo)))

/-- Write bytes of tier 0 or tier 1 on behalf of any requester. False when some piece was not applied. -/
def State.saveWith (lost : State → Nat → State) (s : State) (a : Nat) (bs : List Byte) : State × Bool :=
  if bs.isEmpty then (s, true)
  else if isTier1 a then
    (linePieces a bs).foldl (fun (acc : State × Bool) (p : Nat × List Byte) =>
      let (s, ok) := acc.1.saveLine lost p.1 p.2
      (s, acc.2 && ok)) (s, true)
  else s.saveWs a bs

/-! Translation. -/

/-- What an access needs of a leaf (R348). -/
inductive Need where
  | rd | wr | atom
  deriving DecidableEq, Repr

/-- A failed translation: status code, detail of the record (R348). The address is the virtual address. -/
structure XErr where
  code : Nat
  detail : Nat
  deriving DecidableEq, Repr

/-- The leaf allows the access. -/
def leafAllows (leaf : Nat) : Need → Bool
  | .rd => bitOf leaf 2
  | .wr => bitOf leaf 3
  | .atom => bitOf leaf 4 && bitOf leaf 2 && bitOf leaf 3

/-- Global address that a leaf gives a virtual address. -/
def leafAddr (big : Bool) (leaf va : Nat) : Nat :=
  if big then 2 ^ 30 * bitsOf leaf 57 30 + va % 2 ^ 30 else 2 ^ 26 * bitsOf leaf 57 26 + va % 2 ^ 26

/-- The levels of a walk, top down: level, low index bit, index width. -/
def walkLevels : List (Nat × Nat × Nat) := [(3, 48, 8), (2, 39, 9), (1, 30, 9), (0, 26, 4)]

/-- Address of a table entry. -/
def pteAddr (table va lo width : Nat) : Nat := table + 8 * bitsOf va (lo + width - 1) lo

/-- A pointer's reserved bits are 0 (R346). -/
def pointerOk (e : Nat) : Bool := bitsOf e 63 44 == 0 && bitsOf e 6 2 == 0

/-- A leaf's reserved bits are 0 (R346). -/
def leafOk (level e : Nat) : Bool := bitsOf e 63 58 == 0 && bitsOf e 25 5 == 0 && (level == 0 || bitsOf e 29 26 == 0)

/-- Walk the tables from the root (R348): the leaf and whether it is a 1 GiB leaf. An entry that cannot be corrected is reported with the
bits that the word holds (log 80). -/
def State.walk (need : Need) (va : Nat) : State → List (Nat × Nat × Nat) → Nat → State × Except XErr (Nat × Bool)
  | s, [], _ => (s, .error ⟨stTranslationFault, 0⟩)
  | s, (level, lo, width) :: rest, table =>
    let a := pteAddr table va lo width
    let (s, got) := s.load a 8
    match got with
    | none => (s, .error ⟨stMemUncorrectable, level + 256 * ((leNat (s.peekBytes a 8) ^^^ s.wordErr (a / 8)) / 256)⟩)
    | some bs =>
      let e := leNat bs
      let bad : Except XErr (Nat × Bool) := .error ⟨stTranslationFault, level + 256 * (e / 256)⟩
      if !bitOf e 0 then (s, bad)
      else if bitOf e 1 then
        if (level = 1 || level == 0) && leafOk level e && leafAllows e need then (s, .ok (e, level == 1)) else (s, bad)
      else if level = 0 || !pointerOk e then (s, bad)
      else State.walk need va s rest (128 * bitsOf e 43 7)

/-- Walk from PTU_CTX_ROOT; a context without a root has nothing mapped. -/
def State.walkFrom (s : State) (need : Need) (c va : Nat) : State × Except XErr (Nat × Bool) :=
  let root := s.reg .PTU_CTX_ROOT 0 c
  if bitOf root 0 then State.walk need va s walkLevels (2048 * bitsOf root 43 11) else (s, .error ⟨stTranslationFault, 3⟩)

/-- The cache entry of a page on a die. -/
def tcHit (l : List TcEntry) (c va : Nat) : Option TcEntry :=
  l.find? (fun e => e.ctx = c && e.page == (if e.big then va >>> 30 else va >>> 26))

/-- The words of a cached entry, among the stored words. -/
def TcEntry.word (die : Nat) (e : TcEntry) : StoredWord := .xlate die (32 * e.page + 16 * b2n e.big + e.ctx % 16)

/-- Look a page up in a die's cache: a corrected entry counts; an uncorrectable one is dropped, and the translation walks. -/
def State.tcRead (s : State) (die c va : Nat) : State × Option TcEntry :=
  match tcHit (s.tc.getD die []) c va with
  | none => (s, none)
  | some e =>
    match s.meets (fun w => w = e.word die) with
    | (_, true) => ({ s with tc := modAt (fun l => l.erase e) s.tc die }.mend (fun w => w = e.word die), none)
    | (0, false) => (s, some e)
    | (n, false) => (s.count .PTU_ECC_CORR die 0 n, some e)

/-- Fill the pool (R349): the new entry in front; the least recently used unpinned one goes when the cache is full. -/
def tcFill (l : List TcEntry) (e : TcEntry) : List TcEntry :=
  if l.length < 4096 then e :: l
  else
    match (l.reverse.find? (fun x => !x.pinned)) with
    | some old => e :: l.erase old
    | none => l

/-- Translate a virtual address on a die for a context (R344, R348 to R350): a global address. -/
def State.translate (s : State) (die c va : Nat) (need : Need) : State × Except XErr Nat :=
  if bitsOf va 63 56 ≠ 0 then (s, .error ⟨stTranslationFault, 0⟩)
  else
    match s.tcRead die c va with
    | (s, some e) =>
      let s := s.count .PTU_HITS die 0 1
      let s := { s with tc := modAt (fun l => e :: l.erase e) s.tc die }
      if leafAllows e.leaf need then (s, .ok (leafAddr e.big e.leaf va))
      else (s, .error ⟨stTranslationFault, (if e.big then 1 else 0) + 256 * (e.leaf / 256)⟩)
    | (s, none) =>
      let s := s.count .PTU_MISSES die 0 1
      let (s, r) := s.walkFrom need c va
      match r with
      | .error x => (s.count .PTU_WALK_FAULTS die 0 1, .error x)
      | .ok (leaf, big) =>
        let e : TcEntry := ⟨c, if big then va >>> 30 else va >>> 26, big, leaf, false⟩
        ({ s with tc := modAt (fun l => tcFill l e) s.tc die }, .ok (leafAddr big leaf va))

/-- The package id (PKG_ID). -/
def State.pkgId (s : State) : Nat := s.reg .PKG_ID 0 0 % 2 ^ 14

/-- Package id and package-local address of a global address (58 bits). -/
def gaPkg (g : Nat) : Nat := bitsOf g 57 44
def gaLocal (g : Nat) : Nat := g % 2 ^ 44

/-- A package-local address lies in the context's banks or channels (R285). -/
def State.ownsAddr (s : State) (c a : Nat) : Bool :=
  let p := (s.ctx c).part
  if isTier1 a then partHasChannel p (s.channelAt a).1
  else if isWs a then partHasBank p (wsBank a)
  else false

/-- Translate for an access that must stay in this package and in the context's partition (R285): a package-local address. -/
def State.translateLocal (s : State) (die c va : Nat) (need : Need) : State × Except XErr Nat :=
  let (s, r) := s.translate die c va need
  match r with
  | .error e => (s, .error e)
  | .ok g =>
    if gaPkg g = s.pkgId && s.ownsAddr c (gaLocal g) then (s, .ok (gaLocal g))
    else (s, .error ⟨stTranslationFault, 0⟩)

/-- Read `n` bytes at a virtual address, page piece by page piece (64 MiB pages). -/
def State.loadVa (s : State) (die c va n : Nat) : State × Except XErr (List Byte) :=
  let first := min n (2 ^ 26 - va % 2 ^ 26)
  let piece (s : State) (va n : Nat) : State × Except XErr (List Byte) :=
    if n = 0 then (s, .ok [])
    else
      let (s, r) := s.translateLocal die c va .rd
      match r with
      | .error e => (s, .error e)
      | .ok a =>
        let (s, bs) := s.load a n
        (s, match bs with | none => .error ⟨stMemUncorrectable, 0⟩ | some bs => .ok bs)
  let (s, r1) := piece s va first
  match r1 with
  | .error e => (s, .error e)
  | .ok b1 =>
    let (s, r2) := piece s (va + first) (n - first)
    match r2 with
    | .error e => (s, .error e)
    | .ok b2 => (s, .ok (b1 ++ b2))

/-! Replies. -/

/-- The 32 bytes of a reply (R365). -/
def replyBytes (r : Reply) (phase : Bool) (ft : Nat) : List Byte :=
  leBytes 2 r.status ++ leBytes 1 r.op ++ leBytes 1 (b2n r.event + 2 * b2n phase) ++ leBytes 4 r.seq ++
  leBytes 8 r.param ++ leBytes 8 r.detail ++ leBytes 8 ft

/-- Entries of a completion ring in use (R360). -/
def Ring.used (r : Ring) : Nat := (r.cplTail + 2 ^ r.cplLog - r.cplHead) % 2 ^ r.cplLog

/-- The completion ring has a free entry beyond those reserved for accepted commands (R361). A command that came over I3C answers into the
reply queue of R478 and reserves none. -/
def Ring.hasFree (r : Ring) : Bool :=
  r.cplLog ≠ 0 && r.used + (r.out.filter (fun o => o.ring ≠ 17)).length < 2 ^ r.cplLog - 1

/-- After an entry has been written: CPL_TAIL, and PHASE at the end of a pass (R360). -/
def Ring.pushed (r : Ring) : Ring :=
  if r.cplTail + 1 = 2 ^ r.cplLog then { r with cplTail := 0, phase := !r.phase } else { r with cplTail := r.cplTail + 1 }

/-- A reply to the I3C reply queue (R478): an in-band interrupt when it was empty and ENEC has enabled them. -/
def State.replyI3c (s : State) (r : Reply) : State :=
  let m := s.mgmt
  { s with mgmt := { m with
      replies := m.replies ++ [replyBytes r false s.ft]
      ibis := if m.replies.isEmpty && m.ibiOn then m.ibis + 1 else m.ibis } }

/-- Write a reply into the control ring's completion ring. -/
def State.replyControl (lost : State → Nat → State) (s : State) (r : Reply) : State :=
  let g := s.ring 16
  let a := g.cplBase + g.cplTail * 32
  if isTier1 a || isWs a then
    match s.saveWith lost a (replyBytes r g.phase s.ft) with
    | (s, true) => s.setRing 16 Ring.pushed
    | (s, false) => s.setRing 16 (fun g => { g with fault := true })
  else s.setRing 16 (fun g => { g with fault := true })

/-- An event reply on the control ring takes an unreserved entry or is lost (R361). -/
def State.eventControl (lost : State → Nat → State) (s : State) (r : Reply) : State :=
  if (s.ring 16).hasFree then s.replyControl lost r else s.count .CMDP_EVT_LOST 0 16 1

/-- A ring access failed (R362): the ring stops and the control ring hears of it. -/
def State.ringFault (lost : State → Nat → State) (s : State) (c code va : Nat) : State :=
  (s.setRing c (fun g => { g with fault := true })).eventControl lost ⟨code, 0, true, 0, c, va⟩

/-- Write a reply into the completion ring of a context (R362) or of the host, or into the I3C queue. -/
def State.replyWith (lost : State → Nat → State) (s : State) (ring : Nat) (r : Reply) : State :=
  if ring = 17 then s.replyI3c r
  else if ring = 16 then s.replyControl lost r
  else
    let g := s.ring ring
    let c := s.ctx ring
    if g.fault || c.destroying || !c.created then s
    else
      let va := g.cplBase + g.cplTail * 32
      let (s, x) := s.translateLocal c.home ring va .wr
      match x with
      | .error e => s.ringFault lost ring e.code va
      | .ok a =>
        let (s, ok) := s.saveWith lost a (replyBytes r g.phase s.ft)
        if ok then s.setRing ring Ring.pushed else s.ringFault lost ring stMemUncorrectable va

/-- An event reply to a context (R361, R366), behind those that RECOVER still owes it, which come first (R381). -/
def State.eventWith (lost : State → Nat → State) (s : State) (c : Nat) (r : Reply) : State :=
  if !(s.ctx c).owed.isEmpty && !(s.ctx c).destroying then s.setCtx c (fun x => { x with owed := x.owed ++ [r] })
  else if (s.ring c).hasFree then s.replyWith lost c r
  else (s.setRing c (fun g => { g with evtLost := true })).count .CMDP_EVT_LOST 0 c 1

/-- A command ends: it leaves the list of accepted commands and its reply is posted (R365). -/
def State.finishWith (lost : State → Nat → State) (s : State) (o : OutCmd) (status param detail : Nat) : State :=
  let slot := if o.ring = 17 then 16 else o.ring
  let s := s.setRing slot (fun g => { g with out := g.out.erase o })
  s.replyWith lost o.ring ⟨status, o.op, false, o.seq, param, detail⟩

/-- FENCE commands of a ring complete once no earlier command of their ring is outstanding (R368). -/
def Ring.readyFence (g : Ring) : Option OutCmd :=
  match g.out with
  | o :: _ => if o.op = 0x11 then some o else none
  | [] => none

/-- Complete the fences that are ready on a ring; each leaves the list, so the fuel is its length. -/
def State.drainFences (lost : State → Nat → State) (s : State) (ring : Nat) : Nat → State
  | 0 => s
  | k + 1 =>
    match (s.ring ring).readyFence with
    | some o => (s.finishWith lost o stOk 0 0).drainFences lost ring k
    | none => s

/-- Complete every fence that is ready, on every ring. -/
def State.fencesWith (lost : State → Nat → State) (s : State) : State :=
  (List.range 17).foldl (fun s r => s.drainFences lost r (s.ring r).out.length) s

/-! The ending of a context by a fault. -/

/-- Pours of a context that were handed over and have not launched are withdrawn (R61, R66). -/
def State.withdraw (s : State) (c : Nat) : State :=
  { s with units := s.units.map (fun (u, x) => (u, { x with queue := x.queue.filter (fun h => h.ctx ≠ c) })) }

/-- Those of them whose heat is `first` or later. -/
def State.withdrawFrom (s : State) (c first : Nat) : State :=
  { s with units := s.units.map (fun (u, x) => (u, { x with queue := x.queue.filter (fun h => h.ctx ≠ c || h.heat < first) })) }

/-- A drained row finds no room in the tile queue of its engine, as the writer sees it (R124, R389). DESIGN CHOICE (log 71): a row of several
entries waits until the queue has room for all of it. -/
def State.rowFull (s : State) (e : Nat) (r : List Byte) : Bool :=
  let q := s.queue (.tileData e)
  4096 < q.wr - q.rpSeen + ceilDiv r.length 64

/-- A tile header finds no room (R124, R389). -/
def State.headerFull (s : State) (e : Nat) : Bool :=
  let q := s.queue (.tileHeader e)
  64 ≤ q.wr - q.rpSeen

/-- Global engine index of an ME or VE unit id. -/
def engineOf (u : Nat) : Nat := unitDie u * 48 + unitInst u

/-- When the next write of a drain falls, in seventeenths of a nanosecond of ARITH time: its header, else its first step. -/
def drainDue (steps : List DrainStep) (header : Option (List Byte)) (start : Nat) : Nat :=
  match header, steps with
  | none, p :: _ => start + 20 * p.cycle
  | _, _ => start

/-- The next write of the drain that runs on a matrix engine is due and finds its queue full (R124). -/
def State.drainWaits (s : State) (u : Nat) : Bool :=
  let e := engineOf u
  match (s.unit u).running with
  | some ⟨_, _, _, .draining steps hdr start⟩ =>
    drainDue steps hdr start ≤ 17 * s.arithNs (unitDie u) &&
    (match hdr, steps with
     | some _, _ => s.headerFull e
     | none, [] => false
     | none, p :: _ => !p.queue.isEmpty && s.rowFull e p.queue)
  | _ => false

/-- A waiting drain's cycles up to now count in ME_TQ_STALL, each adds one cycle to the pour, and its writes fall due that much later
(R124). -/
def State.countWait (s : State) (u : Nat) : State :=
  match (s.unit u).running with
  | some ⟨h, l, a, .draining steps hdr start⟩ =>
    let n := (17 * s.arithNs (unitDie u) - drainDue steps hdr start) / 20
    let s := s.count .ME_TQ_STALL (unitDie u) (unitInst u) n
    let s := s.count .ME_BUSY (unitDie u) (unitInst u) n
    s.setUnit u (fun x => { x with running := some ⟨h, l, a, .draining steps hdr (start + 20 * n)⟩ })
  | _ => s

/-- Entries of an engine's tile queue are about to be released: a drain that waits for them has waited until now (R124). -/
def State.noteWait (s : State) (e : Nat) : State :=
  let u := unitId (e / 48) clsME (e % 48)
  if s.drainWaits u then s.countWait u else s

/-- A waiting drain of a context that has become FAULTED writes no further rows and ends without SIGNAL; its tile stops being live
(R168). -/
def State.dropDrain (s : State) (u : Nat) : State :=
  match (s.unit u).running with
  | some r =>
    let seg := fieldAt (r.held.desc.getD []) 2 1
    let s := (s.countWait u).setUnit u (fun x => { x with running := none })
    { s with engs := s.engs.map (fun (k, x) => (k, if k = engineOf u then { x with tiles := x.tiles.filter (fun t => t.seg ≠ seg) } else x)) }
  | none => s

/-- Every waiting drain of a context that becomes FAULTED (R168). -/
def State.dropDrains (s : State) (c : Nat) : State :=
  let hit := (s.units.filter (fun e => (match e.2.running with | some r => r.held.ctx = c | none => false) && s.drainWaits e.1)).map Prod.fst
  hit.foldl State.dropDrain s

/-- The oldest accepted command with an opcode that names a context, on its own ring or on the control ring. -/
def State.outOf (s : State) (c op : Nat) : Option OutCmd :=
  ((s.ring c).out ++ (s.ring 16).out).find? (fun o => o.op = op && o.ctx == c)

/-- First address of the transfer that a running pour makes (R323). -/
def Running.firstAddr (r : Running) : Nat :=
  match r.prog with
  | .moving _ _ _ first _ => first
  | .sweeping w => w.first
  | _ => fieldAt (r.held.desc.getD []) 24 8

/-- The link frames in a port's replay buffer (R297). -/
def State.heldFrames (s : State) (p : Nat) : Nat := (s.queue (.portReplay p)).entries.length / 3

/-- A request of this package has a packet among those that a port holds: waiting, or in a frame not acknowledged (R322, R323). -/
def PortSt.holds (x : PortSt) (frames : Nat) (r : Req) : Bool :=
  !r.ended && (match r.lastFrame with | none => true | some f => (x.txSeq + 65536 - f) % 65536 ≤ frames)

/-- The transfers, as unit ids, that have a packet held in a port. -/
def State.heldTransfers (s : State) (p : Nat) : List Nat :=
  let x := s.ports.getD p {}
  ((x.tags.filter (x.holds (s.heldFrames p))).map (fun r => r.unit)).eraseDups

/-- The requests of a unit's transfer have ended; their packets that are in no frame yet are discarded (R304, R323). -/
def State.endRequests (s : State) (u : Nat) : State :=
  { s with ports := s.ports.map (fun x =>
      let gone := (x.tags.filter (fun r => r.unit = u && r.lastFrame.isNone)).map (fun r => some r.tag)
      { x with
        waiting := x.waiting.filter (fun w => !gone.contains w.tag)
        tags := x.tags.map (fun r => if r.unit = u then { r with ended := true } else r) }) }

/-- The same when they have ended with LINK_LOST or FABRIC_TIMEOUT. -/
def State.loseRequests (s : State) (u : Nat) : State :=
  let s := s.endRequests u
  { s with ports := s.ports.map (fun x => { x with tags := x.tags.map (fun r => if r.unit = u then { r with lost := true } else r) }) }

/-- A transfer that a port holds ends with LINK_LOST: a record with the port's unit id and the transfer's first address (R323). -/
def State.linkLost (s : State) (p u : Nat) : State :=
  match (s.unit u).running with
  | none => s.loseRequests u
  | some r =>
    let s := (s.setUnit u (fun x => { x with running := none })).loseRequests u
    s.raise stLinkLost (unitId (p / 2) clsPORT (p % 2)) r.held.ctx 2 r.firstAddr 0

/-- Ports in RETRAIN end the transfers of a faulted context that have a packet there (R323). -/
def State.dropHeld (s : State) (c : Nat) : State :=
  (List.range 16).foldl (fun s p =>
    if (s.ports.getD p {}).link ≠ .retrain then s
    else
      ((s.heldTransfers p).filter (fun u => match (s.unit u).running with | some r => r.held.ctx = c | none => false)).foldl
        (fun s u => s.linkLost p u) s) s

/-- The context is FAULTED, or a HALT of the FAULTED context is in progress: it has made its transition (R366). -/
def Ctx.hasFailed (x : Ctx) : Bool := x.st == .faulted || (x.st == .halting && x.lastCode != 0)

/-- The context becomes FAULTED (R61): one event reply, no pending commit (R71), a pending HALT takes effect (R66), a pending
PREEMPT completes with the fault's code (R375), and the fences behind it (R368); pours not launched are withdrawn. Nothing happens to a
context that has failed already, or is not created. -/
def State.becomeFaulted (lost : State → Nat → State) (s : State) (c code unit seq offset : Nat) : State :=
  let x := s.ctx c
  if !x.created || x.hasFailed then s
  else
    let halting := x.haltPending || x.st == .halting
    let s := s.setCtx c (fun x => { x with
      st := if halting then .halting else .faulted
      lastCode := code, commit := none, preempt := none, preemptTaken := false, degraded := none })
    let s := ((s.withdraw c).dropDrains c).dropHeld c
    let s := s.eventWith lost c ⟨code, 0, true, 0, x.heat, unit + 2 ^ 16 * seq + 2 ^ 32 * offset⟩
    match s.outOf c 0x12 with
    | some o => (s.finishWith lost o code x.heat 0).fencesWith lost
    | none => s

/-- One fault raised against a context (R455): its record, and the context's ending. -/
def State.faultCtxWith (lost : State → Nat → State) (s : State) (c code unit address detail offset : Nat) : State :=
  let seq := s.reg .ERR_FQ_NEXT_SEQ (faultDie unit) 0
  let s := s.raise code unit c 2 address detail
  s.becomeFaulted lost c code unit seq offset

/-- An entry's data is lost at its write-out (R268): a record, and the owner of the channel, if any, is faulted. -/
def State.lineLostWith (lost : State → Nat → State) (s : State) (ln : Nat) : State :=
  let ch := (s.channelAt (64 * ln)).1
  let u := unitId (ch / 64) clsSTK (ch % 64)
  match s.channelOwner ch with
  | some c => s.faultCtxWith lost c stMemUncorrectable u (64 * ln) 0 0
  | none => s.raise stMemUncorrectable u 0xFF 1 (64 * ln) 0

/-- The same while a reply is being written on account of such losses: a loss makes a further one only by faulting a context, which each
context suffers once, so the sixteenth within another finds every owner FAULTED and its record stands alone. -/
def State.lineLostIn : Nat → State → Nat → State
  | 0, s, ln =>
    let ch := (s.channelAt (64 * ln)).1
    let o := s.channelOwner ch
    s.raise stMemUncorrectable (unitId (ch / 64) clsSTK (ch % 64)) (o.getD 0xFF) (if o.isSome then 2 else 1) (64 * ln) 0
  | n + 1, s, ln => s.lineLostWith (State.lineLostIn n) ln

def State.lineLost (s : State) (ln : Nat) : State := State.lineLostIn 17 s ln

/-- Write bytes of tier 0 or tier 1. -/
def State.save (s : State) (a : Nat) (bs : List Byte) : State × Bool := s.saveWith State.lineLost a bs

/-- Post a command's reply and end the command. -/
def State.finish (s : State) (o : OutCmd) (status param detail : Nat) : State :=
  s.finishWith State.lineLost o status param detail

/-- Post an event reply to a context (R366). -/
def State.event (s : State) (c : Nat) (r : Reply) : State := s.eventWith State.lineLost c r

/-- Raise a fault against a context; `offset` is the OFFSET of the pour it concerns, or 0 (R366). -/
def State.faultCtx (s : State) (c code unit address detail offset : Nat) : State :=
  s.faultCtxWith State.lineLost c code unit address detail offset

/-- The windows of a context are disabled when it is torn down (R311), or, after a fault, halted (R325). -/
def State.closeWindows (s : State) (c : Nat) : State :=
  (List.range 64).foldl (fun s w =>
    let v := s.reg .PORT_WIN_CTRL 0 w
    if bitOf v 12 && bitsOf v 11 8 == c && bitOf v 0 then s.setReg .PORT_WIN_CTRL 0 w (v - 1) else s) s

/-! Arrival flags (R57, R58). -/

/-- The value of an arrival flag. -/
def Ctx.flag (x : Ctx) (die f : Nat) : Nat := Sparse.at? 0 x.flags (1024 * die + f)

/-- Set an arrival flag. -/
def Ctx.setFlag (x : Ctx) (die f v : Nat) : Ctx := { x with flags := Sparse.put 0 x.flags (1024 * die + f) v }

/-- One arrival on a flag of a die, made by `unit`: an arrival above 65,535 leaves the flag and faults the context (R58). -/
def State.arrive (s : State) (c die f unit : Nat) : State :=
  let x := s.ctx c
  let v := x.flag die f
  if v ≥ 65535 then s.faultCtx c stBadState unit f die 0
  else s.setCtx c (fun x => x.setFlag die f (v + 1))

end Sys2Proof.Machine
end

