-- ==== Sys2Proof/Machine/Queue.lean ====
section
/-!
DEFINITION. Runner queues (chapter 14): the writer's and the reader's operations, and the rows QUEUE_WRITE to OVERRUN_CLEAR.
-/
namespace Sys2Proof.Machine

/-- Entry width in bytes (R399). -/
def queueWidth : QueueId → Nat
  | .tileData _ => 64
  | .tileHeader _ => 64
  | .bridgeRetry _ _ _ => 72
  | .portReplay _ => 176
  | .faultQueue _ => 32
  | .dataPort => 8

/-- Entries held, unread. -/
def RunQ.held (q : RunQ) : Nat := q.wr - q.rp
def RunQ.unread (q : RunQ) : Nat := q.wr - q.rd

/-- The writer's FULL flag, from RP as the write side sees it (R389). -/
def RunQ.full (q : RunQ) (depth : Nat) : Bool := q.wr - q.rpSeen ≥ depth
/-- The reader's EMPTY flag, from WR as the read side sees it (R389). -/
def RunQ.isEmpty (q : RunQ) : Bool := q.wrSeen ≤ q.rd

/-- All valid bits of an entry of `w` bytes. -/
def allValid (w : Nat) : Nat := 2 ^ w - 1

/-- The lost-item word of a fault record (R394, R454). -/
def recordWord (bs : List Byte) : Nat := lostWord (fieldAt bs 8 2) (fieldAt bs 10 2) (fieldAt bs 12 1)

/-- Store one entry: a waiting writer that sees FULL writes nothing; a posted entry that finds the queue full is lost and counts, and the
fault queue records it (R392, R394). -/
def State.queuePut (s : State) (id : QueueId) (e : QEntry) : State :=
  let q := s.queue id
  let d := queueDepth id
  if queuePosts id then
    if q.held < d then s.setQueue id (qPush (queueSync id) e)
    else
      match id with
      | .dataPort =>
        (s.setQueue id (fun q => { q with overrun := true, lostFt := some s.ft })).count .MDP_WQ_LOST 0 0 1
      | .faultQueue die => (s.setQueue id (qLose s.ft (recordWord e.bytes))).count .ERR_FQ_LOST die 0 1
      | _ => s
  else if q.full d then s
  else s.setQueue id (qPush (queueSync id) e)

/-- Write bytes narrow into wide (R390, R391): whole entries are stored as they fill; `last` completes a partial one with zero
bytes, only the written bytes valid, LAST set. -/
def State.queuePack (s : State) (id : QueueId) (addr window : Nat) : Nat → List Byte → Bool → State
  | 0, _, _ => s
  | fuel + 1, bs, last =>
    let q := s.queue id
    let w := queueWidth id
    let base := if q.packer.isEmpty then addr else q.packAddr
    let all := q.packer ++ bs
    let ends := all.length ≤ w
    if all.isEmpty then s
    else if all.length ≥ w then
      let e : QEntry := { bytes := all.take w, valid := allValid w, last := last && ends, addr := base, window := window }
      let s := (s.setQueue id (fun q => { q with packer := [] })).queuePut id e
      s.queuePack id (base + w) window fuel (all.drop w) last
    else if last then
      let e : QEntry := { bytes := all ++ List.replicate (w - all.length) 0#8, valid := allValid all.length, last := true
                          addr := base, window := window }
      (s.setQueue id (fun q => { q with packer := [] })).queuePut id e
    else s.setQueue id (fun q => { q with packer := all, packAddr := base })

/-- The entry at an absolute position. -/
def RunQ.at? (q : RunQ) (p : Nat) : Option QEntry := if p < q.rp then none else q.entries[p - q.rp]?

/-- The threshold of an instance for a packet of `l` entries (R397, R399): a row of the tile data queue is one packet, and goes on whole. -/
def queueThresh (id : QueueId) (l : Nat) : Nat :=
  match id with
  | .tileData _ => l
  | .dataPort => 64
  | _ => 1

/-- A writer declares a packet that begins at WR (R397). -/
def RunQ.declare (q : RunQ) (l : Nat) : RunQ := if l = 0 then q else { q with packets := q.packets ++ [(q.wr, l)] }

/-- A read of `n` entries waits for none (R395, R397): all of them have been written as the read side sees it, and of each packet that it
begins min(THRESH, L) have. -/
def RunQ.serves (q : RunQ) (id : QueueId) (n : Nat) : Bool :=
  q.rd + n ≤ q.wrSeen &&
  (q.packets.filter (fun p => q.rd ≤ p.1 && p.1 < q.rd + n)).all (fun p => p.1 + min (queueThresh id p.2) p.2 ≤ q.wrSeen)

/-- READ n moves RD (R395): only entries the read side sees are delivered. -/
def RunQ.readN (q : RunQ) (n : Nat) : RunQ := { q with rd := min (q.rd + n) q.wrSeen }

/-- The reader has read on to a position at or before WR, which it has thus seen. -/
def RunQ.readTo (p : Nat) (q : RunQ) : RunQ := { q with wrSeen := max q.wrSeen p, rd := max q.rd p }

/-- MARK. -/
def RunQ.doMark (q : RunQ) : RunQ := { q with mark := q.rd }
/-- REWIND. -/
def RunQ.rewind (q : RunQ) : RunQ := { q with rd := q.mark }
/-- RELEASE p, for RP < p ≤ RD (R395); in a one-clock queue the write side sees it at once. -/
def RunQ.release (sync : Bool) (p : Nat) (q : RunQ) : RunQ :=
  if q.rp < p && p ≤ q.rd then
    { q with
      entries := q.entries.drop (p - q.rp), rp := p, mark := max q.mark p, rpSeen := if sync then p else q.rpSeen
      packets := q.packets.filter (fun k => p ≤ k.1) }
  else q
/-- Emptying: RP, MK and RD become WR (R396); OVERRUN and the lost-item words stay. Both sides see it. -/
def RunQ.emptied (q : RunQ) : RunQ :=
  { q with entries := [], rp := q.wr, mark := q.wr, rd := q.wr, wrSeen := q.wr, rpSeen := q.wr, packer := [], packets := [] }

/-- A queue after a package reset. -/
def State.emptyQueue (s : State) (id : QueueId) : State := s.setQueue id RunQ.emptied

/-- The instance exists. -/
def queueExists : QueueId → Bool
  | .tileData e => e < 384
  | .tileHeader e => e < 384
  | .bridgeRetry d sl g => d < 8 && unitExists (unitId d clsBRG sl) && g < 64
  | .portReplay p => p < 16
  | .faultQueue d => d < 8
  | .dataPort => true

/-- Reads of words with stored errors (R398): a corrected word counts in the instance's correction counter. -/
def State.queueEcc (s : State) (id : QueueId) (n : Nat) : State :=
  match id with
  | .tileData e => s.count .VE_TQ_ECC_CORR (e / 48) (e % 48) n
  | .tileHeader e => s.count .VE_TQ_ECC_CORR (e / 48) (e % 48) n
  | .bridgeRetry d sl _ => s.count .BRG_RQ_ECC_CORR d sl n
  | .portReplay p => s.count .PORT_RQ_ECC_CORR (p / 2) (p % 2) n
  | .faultQueue d => s.count .ERR_FQ_ECC_CORR d 0 n
  | .dataPort => s.count .MDP_WQ_ECC_CORR 0 0 n

/-- The drain of the engine that fills a tile queue waits no longer than to the release of its entries (R124). -/
def State.beforeRelease (s : State) : QueueId → State
  | .tileData e => s.noteWait e
  | .tileHeader e => s.noteWait e
  | _ => s

/-- RELEASE of a queue (R395). -/
def State.releaseTo (s : State) (id : QueueId) (p : Nat) : State := (s.beforeRelease id).setQueue id (RunQ.release (queueSync id) p)

/-- One clock edge of a queue whose sides share a clock (R387): release comes first, so the releases of the same FT that wait behind a write
are made before it. DESIGN CHOICE (log 100): rows of one queue at one FT are one edge. -/
def State.edgeReleases (s : State) (t : Nat) (id : QueueId) : State :=
  if queueSync id then
    s.pending.foldl (fun s c =>
      match c with
      | .queueRelease t' id' p => if t' = t && id' == id then s.releaseTo id p else s
      | _ => s) s
  else s

/-- QUEUE_WRITE: bytes that a writer stores (R390 to R392); `last` ends the transfer. A transfer that one row brings whole is declared as a
packet (R397). -/
def execQueueWrite (t : Nat) (id : QueueId) (data : List Byte) (last : Bool) (s : State) :
    Host.Outcome State Fault Refusal :=
  let s := s.advance t
  if !queueExists id then .next s
  else
    let s := s.edgeReleases t id
    let s := if last && (s.queue id).packer.isEmpty then s.setQueue id (fun q => q.declare (ceilDiv data.length (queueWidth id))) else s
    .next (s.queuePack id 0 0 (data.length + 2) data last)

/-- QUEUE_MARK. -/
def execQueueMark (t : Nat) (id : QueueId) (s : State) : Host.Outcome State Fault Refusal :=
  let s := s.advance t
  if !queueExists id then .next s else .next (s.setQueue id RunQ.doMark)

/-- QUEUE_REWIND. -/
def execQueueRewind (t : Nat) (id : QueueId) (s : State) : Host.Outcome State Fault Refusal :=
  let s := s.advance t
  if !queueExists id then .next s else .next (s.setQueue id RunQ.rewind)

/-- QUEUE_RELEASE: position p is absolute, as RP is. -/
def execQueueRelease (t : Nat) (id : QueueId) (p : Nat) (s : State) : Host.Outcome State Fault Refusal :=
  let s := s.advance t
  if !queueExists id then .next s else .next (s.releaseTo id p)

/-- QUEUE_POSITION_SYNC: WR crosses to the read side, or RP to the write side (R388). -/
def execQueuePositionSync (t : Nat) (id : QueueId) (toReader : Bool) (s : State) : Host.Outcome State Fault Refusal :=
  let s := s.advance t
  if !queueExists id then .next s
  else if toReader then .next (s.setQueue id (fun q => { q with wrSeen := q.wr }))
  else .next (s.setQueue id (fun q => { q with rpSeen := q.rp }))

/-- OVERRUN and both VALID bits clear in one step (R394). A loss in the same clock leaves OVERRUN set, and the words take the items lost in
it (R10; log 100: a clock is an FT). -/
def RunQ.clearOverrun (now : Nat) (q : RunQ) : RunQ :=
  if q.lostFt = some now then { q with firstLost := q.lostFirst }
  else { q with overrun := false, firstLost := q.firstLost % 2 ^ 63, lastLost := q.lastLost % 2 ^ 63 }

/-- A write to a queue's status word: bit 63 is W1C (R400). -/
def State.queueStatusWrite (s : State) (id : QueueId) (v : Nat) : State :=
  if bitOf v 63 then s.setQueue id (RunQ.clearOverrun s.ft) else s

/-- OVERRUN_CLEAR. -/
def execOverrunClear (t : Nat) (id : QueueId) (value : Nat) (s : State) : Host.Outcome State Fault Refusal :=
  let s := s.advance t
  if !queueExists id then .next s else .next (s.queueStatusWrite id value)

end Sys2Proof.Machine
end

