-- ==== Sys2Proof/Machine/Accept.lean ====
section
/-!
DEFINITION. Acceptance of commands (R358 to R364, R367, R440, R492): the conditions under which a command is accepted, the checks of
its header, and the list of accepted commands.
-/
namespace Sys2Proof.Machine

/-- A row of the opcode table (R367): accepted on context rings, on the control ring, names a target context. -/
structure OpRow where
  onC : Bool
  onK : Bool
  names : Bool
  deriving DecidableEq, Repr

/-- The opcode table (R367). -/
def opRow : Nat → Option OpRow
  | 0x01 => some ⟨true, false, true⟩ | 0x02 => some ⟨true, false, true⟩ | 0x03 => some ⟨true, false, true⟩
  | 0x04 => some ⟨true, false, true⟩ | 0x05 => some ⟨true, false, true⟩
  | 0x06 => some ⟨true, true, true⟩ | 0x07 => some ⟨true, true, true⟩ | 0x08 => some ⟨true, true, true⟩
  | 0x09 => some ⟨true, false, true⟩ | 0x0A => some ⟨true, false, true⟩
  | 0x0B => some ⟨true, true, true⟩ | 0x0C => some ⟨true, true, true⟩
  | 0x0D => some ⟨false, true, false⟩ | 0x0E => some ⟨false, true, false⟩ | 0x0F => some ⟨false, true, false⟩
  | 0x10 => some ⟨true, true, true⟩ | 0x11 => some ⟨true, true, false⟩ | 0x12 => some ⟨true, true, true⟩
  | 0x20 => some ⟨false, true, true⟩ | 0x21 => some ⟨false, true, true⟩ | 0x22 => some ⟨false, true, true⟩
  | _ => none

/-- The ring slot of a command's ring: I3C commands are control-ring commands (R358). -/
def slotOf (ring : Nat) : Nat := if ring = 17 then 16 else ring

/-- The die whose command processor serves a ring (R358). -/
def State.servedBy (s : State) (ring : Nat) : Nat := if ring < 16 then (s.ctx ring).home else 0

/-- The target context of a command. -/
def cmdTarget (c : Cmd) : Nat := if c.ring < 16 then c.ring else c.ctx

/-- In BOOT_HOLD, whether EXPORT_SHARD and DIGEST_QUERY are accepted (R440). -/
def State.holdServes (s : State) : Bool := s.boot.stage = 0x0A || s.boot.stacksPassed

/-- The status with which a command ends at its header, or OK (R364, R440). -/
def State.headerStatus (s : State) (c : Cmd) (op : Nat) : Nat :=
  match opRow op with
  | none => if s.boot.st = .hold then stBadState else stBadOpcode
  | some r =>
    if s.boot.st = .hold && !(op = 0x11 || ((op = 0x0B || op == 0x0C) && s.holdServes)) then stBadState
    else if (if c.ring < 16 then !r.onC else !r.onK) then stBadOpcode
    else if (if c.ring < 16 then c.ctx ≠ c.ring else if r.names then c.ctx ≥ 16 else c.ctx ≠ 0) then stBadParam
    else if r.names && op ≠ 0x20 && s.boot.st ≠ .hold && !(s.ctx (cmdTarget c)).created then stBadState
    else stOk

/-- The command can be accepted now (R361 to R363, R477): the ring runs and is not stopped, no trip has turned the
rails off (R425), a free completion entry is there, and an
ORDERED command finds no earlier command of its ring outstanding; the commands of the control ring and those of I3C are one ring's, in the
order of their acceptance (R358). -/
def State.canAccept (s : State) (c : Cmd) : Bool :=
  let g := s.ring (slotOf c.ring)
  let runs :=
    if c.ring < 16 then (s.ctx c.ring).created && !(s.ctx c.ring).destroying && (s.ctx c.ring).owed.isEmpty && s.boot.st == .done && g.cmdLog != 0
    else if c.ring = 16 then s.boot.st == .done && g.cmdLog != 0
    else c.ring == 17 && (s.boot.st == .done || s.boot.st == .hold)
  let room := if c.ring = 17 then s.mgmt.replies.length + (g.out.filter (fun o => o.ring = 17)).length < 16 else g.hasFree
  runs && !s.pins.tripped && (c.ring == 17 || !g.fault) && room && !(c.ordered && !g.out.isEmpty)

/-- Accept a command: HEAD passes its slot (R359), it counts and joins the accepted commands of its ring (CMDP_ACCEPTED,
CMDP_OUTSTANDING). -/
def State.enroll (s : State) (c : Cmd) (op : Nat) : OutCmd × State :=
  let o : OutCmd := { op := op, seq := c.seq, ring := c.ring, ctx := cmdTarget c }
  let s := s.setRing (slotOf c.ring) (fun g => { g with
    out := g.out ++ [o], head := if c.ring = 17 then g.head else (g.head + 1) % 2 ^ g.cmdLog })
  (o, s.count .CMDP_ACCEPTED (s.servedBy c.ring) 0 1)

/-- A command that touches translation waits for the earlier ones of its context (R357, R363). -/
def State.xlateBusy (s : State) (c : Cmd) (op : Nat) : Bool :=
  (op = 0x06 || op == 0x07 || op == 0x08) && s.invals.any (fun i => i.ctx = cmdTarget c)

/-- What serving a command meets in the memory of its command processor (R450, R453): corrected words count in CMDP_ECC_CORR, and true
stands for an uncorrectable one. The words hold the command being served, and the next one is written over them (log 13). -/
def State.serveMemory (s : State) (die : Nat) : State × Bool :=
  let mine (w : StoredWord) : Bool := match w with | .cmdp d _ => d == die | _ => false
  let (corr, bad) := s.meets mine
  ((s.count .CMDP_ECC_CORR die 0 corr).mend mine, bad)

/-- Accept a command and carry it out: a header that fails ends it at once, and so does an uncorrectable word of the command processor's
memory (R453); otherwise `body` does what its opcode says. -/
def State.accept (s : State) (c : Cmd) (op : Nat) (body : OutCmd → State → State) : State :=
  let st := s.headerStatus c op
  let (o, s) := s.enroll c op
  let (s, bad) := s.serveMemory (s.servedBy c.ring)
  if bad then s.finish o stMemUncorrectable 0 0 else if st ≠ stOk then s.finish o st 0 0 else body o s

/-- The replies of RECOVER go out, in order, as soon as the completion ring can be reached and has room (R381). -/
def State.postRecover (c : Nat) : Nat → State → State
  | 0, s => s
  | k + 1, s =>
    match (s.ctx c).owed with
    | [] => s
    | r :: rest =>
      let g := s.ring c
      let reach : Bool := match (s.translateLocal (s.ctx c).home c (g.cplBase + g.cplTail * 32) .wr).2 with | .ok _ => true | .error _ => false
      if c < 16 && g.hasFree && !g.fault && reach then
        State.postRecover c k ((s.setCtx c (fun x => { x with owed := rest })).replyWith State.lineLost c r)
      else s

/-- Post what RECOVER owes. -/
def State.recovered (s : State) (c : Nat) : State := State.postRecover c ((s.ctx c).owed.length) s

/-- A command row: the driver has put the command into the slot at TAIL and rung the doorbell, and it is accepted. While commands wait
in the ring, or it cannot be accepted yet, the state stays as it is. -/
def State.command (s : State) (c : Cmd) (op : Nat) (body : OutCmd → State → State) : State :=
  let s := s.recovered c.ring
  let g := s.ring c.ring
  if !s.canAccept c || s.xlateBusy c op || (c.ring != 17 && g.head != g.tail) then s
  else
    let s := if c.ring = 17 then s else s.setRing c.ring (fun g => { g with tail := (g.tail + 1) % 2 ^ g.cmdLog })
    s.accept c op body

/-- Complete every fence that is ready, on every ring (R368). -/
def State.fences (s : State) : State := s.fencesWith State.lineLost

/-- End a command and complete the fences that waited for it. -/
def State.complete (s : State) (o : OutCmd) (status param detail : Nat) : State :=
  (s.finish o status param detail).fences

end Sys2Proof.Machine
end

