-- ==== Sys2Proof/Machine/Operands.lean ====
section
/-!
DEFINITION. Operand forms: channel offsets and addresses (R226, R262, R263), pour entries (R51), packet and segment headers (R203,
R301), descriptor offsets (R202), partition payloads (R370).
-/
namespace Sys2Proof.Machine

/-- The package-local address of a channel offset (R262, R263 read backwards). -/
def State.channelAddr (s : State) (ch off : Nat) : Nat :=
  let fine := bitsOf (s.reg .STK_FINE 0 0) 1 0
  if fine = 0 then
    let st := ch / 32
    let j := s.stripe st
    let n := 2 ^ j
    let k := ch % 32 / n
    2 ^ 36 * st + (k * 2 ^ (31 + j)) + (4096 * (off / 4096 * n + ch % n) + off % 4096)
  else
    let g := 2 ^ fine
    let f := ch / (64 * g) * g
    2 ^ 37 * f + 4096 * (off / 4096 * (64 * g) + (ch - 64 * f)) + off % 4096

/-- Working-store address of an offset on a die. -/
def wsAt (die off : Nat) : Nat := wsBase die + off % 2 ^ 30

/-- Every byte of a working-store range of a die lies in a bank of the partition. -/
def inBanks (p : Part) (die off n : Nat) : Bool :=
  n = 0 || (off + n ≤ 2 ^ 30 &&
    (countFrom (off / 2 ^ 26) ((off + n - 1) / 2 ^ 26 - off / 2 ^ 26 + 1)).all (fun b => partHasBank p (die * 16 + b)))

/-- A pour entry (R51). -/
def parsePour (b : List Byte) : Pour :=
  { offset := fieldAt b 0 4, unit := fieldAt b 4 2, action := fieldAt b 6 2, desc := fieldAt b 8 8, hold := fieldAt b 16 2
    flags := fieldAt b 18 1, wait := fieldAt b 20 2, waitCount := fieldAt b 22 2, signal := fieldAt b 24 2 }

/-- FLAGS of a pour. -/
def Pour.remote (p : Pour) : Bool := bitOf p.flags 0
def Pour.gated (p : Pour) : Bool := bitOf p.flags 1
def Pour.overLast (p : Pour) : Bool := bitOf p.flags 2

/-- Packet types (R301). -/
def tNull : Nat := 0x00
def tRead : Nat := 0x01
def tWrite : Nat := 0x02
def tMasked : Nat := 0x03
def tAtomic : Nat := 0x04
def tArrival : Nat := 0x05
def tSegment : Nat := 0x06
def tReadData : Nat := 0x81
def tWriteAck : Nat := 0x82
def tAtomicData : Nat := 0x84
def tArrivalAck : Nat := 0x85
def tError : Nat := 0x8F

/-- A packet: its header fields and its payload. -/
structure Pkt where
  typ : Nat
  vc : Nat
  dst : Nat
  src : Nat
  tag : Nat
  port : Nat
  addr : Nat
  len : Nat
  birth : Nat
  ops : Nat
  flag : Nat
  epoch : Nat
  body : List Byte
  deriving DecidableEq, Repr

/-- Read a packet; none when it is shorter than a header. -/
def parsePkt (b : List Byte) : Option Pkt :=
  if b.length < 32 then none
  else some
    { typ := fieldAt b 0 1, vc := fieldAt b 1 1 % 8, dst := fieldAt b 2 2 % 2 ^ 14, src := fieldAt b 4 2 % 2 ^ 14
      tag := fieldAt b 6 2 % 4096, port := fieldAt b 6 2 / 4096, addr := fieldAt b 8 8 % 2 ^ 44, len := fieldAt b 16 4
      birth := fieldAt b 20 4, ops := fieldAt b 24 1, flag := fieldAt b 26 2 % 1024, epoch := fieldAt b 28 4
      body := b.drop 32 }

/-- The bytes of a packet. -/
def pktBytes (p : Pkt) : List Byte :=
  leBytes 1 p.typ ++ leBytes 1 p.vc ++ leBytes 2 p.dst ++ leBytes 2 p.src ++ leBytes 2 (p.tag + 4096 * p.port) ++
  leBytes 8 p.addr ++ leBytes 4 p.len ++ leBytes 4 p.birth ++ leBytes 1 p.ops ++ leBytes 1 0 ++ leBytes 2 p.flag ++
  leBytes 4 p.epoch ++ p.body

/-- Payload bytes that a header announces (R301). -/
def payloadLen (p : Pkt) : Nat :=
  if p.typ = tRead || p.typ == tArrival || p.typ == tWriteAck || p.typ == tArrivalAck || p.typ == tError || p.typ == tNull then 0
  else if p.typ = tMasked then p.len + p.len / 64 * 8
  else if p.typ = tSegment then 32 + p.len
  else p.len

/-- The class of a type: 0 REQ, 1 RSP, 2 XCH. -/
def classOf (typ : Nat) : Nat := if typ = tSegment then 2 else if typ ≥ 0x80 then 1 else 0

/-- An exchange segment header (R203) and the data after it. -/
structure Seg where
  tag : Nat
  gen : Nat
  kind : Nat
  heat : Nat
  src : Nat
  first : Nat
  count : Nat
  segs : Nat
  dest : Nat
  destFlag : Nat
  data : List Byte
  deriving DecidableEq, Repr

def parseSeg (b : List Byte) : Seg :=
  { tag := fieldAt b 0 2 % 4096, gen := fieldAt b 2 1, kind := fieldAt b 3 1, heat := fieldAt b 4 2, src := fieldAt b 6 2 % 2 ^ 14
    first := fieldAt b 8 4, count := fieldAt b 12 2, segs := fieldAt b 14 2, dest := fieldAt b 16 8
    destFlag := fieldAt b 24 2, data := b.drop 32 }

def segBytes (g : Seg) : List Byte :=
  leBytes 2 g.tag ++ leBytes 1 g.gen ++ leBytes 1 g.kind ++ leBytes 2 g.heat ++ leBytes 2 g.src ++ leBytes 4 g.first ++
  leBytes 2 g.count ++ leBytes 2 g.segs ++ leBytes 8 g.dest ++ leBytes 2 g.destFlag ++ leBytes 6 0 ++ g.data

/-- The 16-bit (or 8-bit) entries of a payload field. -/
def entriesAt (b : List Byte) (off size n : Nat) : List Nat := (List.range n).map (fun i => fieldAt b (off + i * size) size)

/-- A partition payload (R370). -/
def parsePart (b : List Byte) : Part :=
  { engines := fieldAt b 0 48, movers := fieldAt b 48 16, banks := fieldAt b 64 16, channels := fieldAt b 80 64
    adders := fieldAt b 144 2, ways := entriesAt b 148 2 8, allot := entriesAt b 164 2 8, bridgeShare := entriesAt b 180 1 20
    portShare := entriesAt b 200 1 16 }

/-- A link frame (R293): its CRC is computed. -/
def frameBytes (fseq ack kind cvc cunits : Nat) (body : List Byte) : List Byte :=
  let f := leBytes 2 fseq ++ leBytes 2 ack ++ leBytes 1 kind ++ leBytes 1 cvc ++ leBytes 2 cunits ++
    body ++ List.replicate (512 - body.length) 0#8
  f ++ leBytes 8 (crc64 f)

/-- The body of a TIME frame (R306): type 0 BEACON, 1 DELAY_REQ, 2 DELAY_RESP. -/
def timeBody (ftTx master stratum typ seq turnaround : Nat) : List Byte :=
  leBytes 8 ftTx ++ leBytes 2 master ++ leBytes 1 (stratum % 16 + typ * 16) ++ leBytes 1 0 ++ leBytes 2 seq ++ leBytes 2 0 ++
  leBytes 4 turnaround

/-- The FT of a kept time after heat start: an offset in units of 64 ns. -/
def at64 (start off : Nat) : Nat := start + 64 * off

end Sys2Proof.Machine
end

