-- ==== Sys2Proof/Machine/Unit.lean ====
section
/-!
DEFINITION. A pour at its unit (R55 to R62): the running pour, its end, its failure, its signal; heat epochs (R194); the empty tile
queues and dead segments that LOAD_MOULD, ARM_AT and HALT leave (R111, R168).
-/
namespace Sys2Proof.Machine

/-! Writes at virtual addresses. -/

/-- Write bytes at a virtual address, page by page; `fuel` is at least the number of pages. -/
def State.saveRange (die c : Nat) (need : Need) : Nat → State → Nat → List Byte → State × Option XErr
  | 0, s, _, bs => (s, if bs.isEmpty then none else some ⟨stTranslationFault, 0⟩)
  | k + 1, s, va, bs =>
    if bs.isEmpty then (s, none)
    else
      let n := min bs.length (2 ^ 26 - va % 2 ^ 26)
      let (s, r) := s.translateLocal die c va need
      match r with
      | .error e => (s, some e)
      | .ok a =>
        match s.save a (bs.take n) with
        | (s, false) => (s, some ⟨stMemUncorrectable, 0⟩)
        | (s, true) => State.saveRange die c need k s (va + n) (bs.drop n)

/-- Write bytes at a virtual address for a context, from the command processor or unit of a die. -/
def State.saveVa (s : State) (die c va : Nat) (bs : List Byte) : State × Option XErr :=
  State.saveRange die c .wr (bs.length / 2 ^ 26 + 2) s va bs

/-- The running pour of a unit ends with a failed translation or read. -/
def XErr.isXlate (e : XErr) : Bool := e.code = stTranslationFault

/-- The pour that runs on a unit. -/
def State.runningOn (s : State) (u : Nat) : Option Running := (s.unit u).running

/-- Set how far the running pour has come. -/
def State.setProg (s : State) (u : Nat) (p : Prog) : State :=
  s.setUnit u (fun x => { x with running := x.running.map (fun r => { r with prog := p }) })

/-- The pour has ended without a signal: the unit is free. -/
def State.dropRunning (s : State) (u : Nat) : State := s.setUnit u (fun x => { x with running := none })

/-- Every write of the running pour has reached its home. -/
def State.ended (s : State) (u : Nat) : State := s.setProg u .ended

/-- The running pour of a unit ends with a status code: one record, the context is faulted, and the pour signals nothing (R61, R286). -/
def State.failPour (s : State) (u code address detail : Nat) : State :=
  match s.runningOn u with
  | none => s
  | some r =>
    let code := if code = stMemUncorrectable && s.hcx.fenced then stContextFenced else code
    ((s.dropRunning u).setHcx (fun h => { h with fenced := false })).faultCtx r.held.ctx code u address detail r.held.pour.offset

/-- The unit runs a pour with an action code, has not finished it, and the launch lies behind. -/
def State.runsAction (s : State) (u action : Nat) : Option Running :=
  match s.runningOn u with
  | some r => if r.held.pour.action = action then some r else none
  | none => none

/-- The heat epoch of a pour (R194): bits 31:0 of PLAN_STEP_COUNT at the start of its heat. -/
def Held.heatEpoch (h : Held) : Nat := h.epoch % 2 ^ 32

/-- The descriptor of a held pour. -/
def Held.bytes (h : Held) : List Byte := h.desc.getD []

/-- Hold window of a pour in ns at the moment it is asked for: HOLD, or the default in force (R51). -/
def Ctx.holdNs (x : Ctx) (p : Pour) : Nat := 64 * (if p.hold = 0 then x.holdDefault else p.hold)

/-- End of the hold window of a held pour. -/
def State.holdEndOf (s : State) (h : Held) : Nat := h.due + (s.ctx h.ctx).holdNs h.pour

/-- Heat length in ns (R64). -/
def Ctx.heatLen (x : Ctx) : Nat := 1024 * x.heatUnits

/-- The heat that starts next and the FT of its start (R64). -/
def Ctx.nextHeat (x : Ctx) : Nat × Nat := if x.st = .armed then (x.heat, x.armFt) else (x.heat + 1, x.heatStart + x.span)

/-- FT at which a heat starts: the heat in progress, or a later one (R64). -/
def Ctx.startOf (x : Ctx) (n : Nat) : Nat :=
  let (m, start) := x.nextHeat
  if n < m then x.heatStart else start + (n - m) * x.heatLen

/-- An engine's state by its global index. -/
def State.eng (s : State) (e : Nat) : EngSt := lookupD {} s.engs e
def State.setEng (s : State) (e : Nat) (f : EngSt → EngSt) : State := { s with engs := setKey s.engs e (f (s.eng e)) }

/-- The engine's tiles stop being live and its tile queues empty (R111, R168); `fresh` sets its whole state to 0 (R125, R150). -/
def State.resetEngine (fresh : Bool) (s : State) (e : Nat) : State :=
  let listed := s.engs.any (fun x => x.1 = e)
  let s := if s.queue (.tileHeader e) = {} then s else s.setQueue (.tileHeader e) RunQ.emptied
  if s.queue (.tileData e) = {} && !listed then s
  else
    let s := s.setQueue (.tileData e) RunQ.emptied
    let base := (s.queue (.tileData e)).wr
    s.setEng e (fun x => if fresh then { tileBase := base }
      else { x with tiles := [], header := none, rowsRead := 0, rowsMark := 0, tileBase := base })

def State.clearEngine (s : State) (e : Nat) : State := State.resetEngine false s e

/-- The same for every engine of a context. -/
def State.clearEngines (s : State) (c : Nat) : State :=
  (onesOf 384 (s.ctx c).part.engines).foldl (State.resetEngine false) s

/-- ARM_AT: every engine of the context starts from 0. -/
def State.freshEngines (s : State) (c : Nat) : State :=
  let es := onesOf 384 (s.ctx c).part.engines
  (es.foldl (State.resetEngine true) s).mend (fun w => match w with | .vreg e _ => es.contains e | _ => false)

/-- Unit ids of an engine by its global index. -/
def meUnit (e : Nat) : Nat := unitId (e / 48) clsME (e % 48)
def veUnit (e : Nat) : Nat := unitId (e / 48) clsVE (e % 48)

/-- A parameter in force for a unit of a context (R69). -/
def Ctx.setting (x : Ctx) (unit param : Nat) : Option Nat :=
  (x.settings.find? (fun g => g.unit = unit && g.param == param)).map (fun g => g.value)

/-- Launched pours of a context have all ended and signalled (R66, R373, R374). -/
def State.quiet (s : State) (c : Nat) : Bool :=
  s.units.all (fun e => match e.2.running with | some r => r.held.ctx ≠ c | none => true)

/-- A context leaves its states ARMED, RUNNING, HALTING and FAULTED at this FT (R420). -/
def State.loaded (s : State) (c : Nat) : State :=
  s.setCtx c (fun x => { x with st := .loaded, lastCode := 0, freeSince := s.ft, haltPending := false, preempt := none,
                                preemptTaken := false, diverged := false })

end Sys2Proof.Machine
end

