-- ==== Sys2Proof/Machine/Bridge.lean ====
section
/-!
DEFINITION. Bridges (chapter 01, R20 to R30) and their degradation (R465 to R468): frames, replays, lane repair, retirement, and
the rows BRIDGE_FRAME_RX to BRIDGE_REPAIR_DONE.
-/
namespace Sys2Proof.Machine

/-- The die at the far end of an endpoint slot: left, right, other row. -/
def neighbour (die slot : Nat) : Option Nat :=
  if die ≥ 8 then none
  else match slot with
    | 0 => if die % 4 = 0 then none else some (die - 1)
    | 1 => if die % 4 = 3 then none else some (die + 1)
    | 2 => some (if die < 4 then die + 4 else die - 4)
    | _ => none

/-- The slot of `die` that faces `other`. -/
def slotToward (die other : Nat) : Nat :=
  if other + 1 = die && other / 4 == die / 4 then 0 else if die + 1 = other && other / 4 == die / 4 then 1 else 2

/-- Instance number of an endpoint (R31: instance is the endpoint slot). -/
def dirExists (d : Dir) : Bool := (neighbour d.die d.slot).isSome

/-- The bridges in the order of R48. -/
def bridgePairs : List (Nat × Nat) :=
  [(0, 1), (1, 2), (2, 3), (4, 5), (5, 6), (6, 7), (0, 4), (1, 5), (2, 6), (3, 7)]

/-- Direction index 0 to 19 in the MARGIN order of R48: for each bridge the direction toward the higher die first. -/
def dirIndex (d : Dir) : Nat :=
  match neighbour d.die d.slot with
  | none => 0
  | some o =>
    let lo := min d.die o
    let hi := max d.die o
    2 * (bridgePairs.findIdx (fun p => p = (lo, hi))) + (if d.die = lo then 0 else 1)

/-- The direction with an index. -/
def dirOf (i : Nat) : Dir :=
  let (lo, hi) := bridgePairs.getD (i / 2) (0, 1)
  if i % 2 = 0 then ⟨lo, slotToward lo hi⟩ else ⟨hi, slotToward hi lo⟩

/-- The state of a direction. -/
def State.dir (s : State) (d : Dir) : BridgeSt := s.bridge d.die d.slot
def State.setDir (s : State) (d : Dir) (f : BridgeSt → BridgeSt) : State := s.setBridge d.die d.slot f

/-- The endpoint that receives a direction: die and slot. -/
def receiver (d : Dir) : Nat × Nat :=
  match neighbour d.die d.slot with
  | some o => (o, slotToward o d.die)
  | none => (d.die, d.slot)

/-- The directions that traffic from die `a` to die `b` crosses (R28): along the source's row to the destination's column, then over the
column bridge. A reply follows the same rule from its own source. -/
def route (a b : Nat) : List Dir :=
  let row := a / 4
  let along : List Dir := (List.range (hops (a % 4) (b % 4))).map (fun i =>
    if a % 4 ≤ b % 4 then ⟨4 * row + (a % 4 + i), 1⟩ else ⟨4 * row + (a % 4 - i), 0⟩)
  along ++ (if row = b / 4 then [] else [⟨4 * row + b % 4, 2⟩])

/-- Retired groups of a direction, k of R26. -/
def BridgeSt.lost (b : BridgeSt) : Nat := popCount 64 b.retired

/-- A group is under repair, out of service (R23); it is in service when it is neither retired nor under repair. -/
def BridgeSt.underRepair (b : BridgeSt) (group : Nat) : Bool := b.repairing.any (fun r => r.1 = group)
def BridgeSt.serves (b : BridgeSt) (group : Nat) : Bool := group < 64 && !bitOf b.retired group && !b.underRepair group

/-- Groups in service. -/
def BridgeSt.inService (b : BridgeSt) : Nat := ((List.range 64).filter b.serves).length

/-- The margin a loaded mould reserves in a direction (R48). -/
def Mould.margin (m : Mould) (i : Nat) : Nat := fieldAt m.header (48 + i) 1

/-- The retired bandwidth of a direction exceeds a margin (R466): the direction is planned for (below 100) and k × 100 > m × 64. -/
def exceeds (k m : Nat) : Bool := m < 100 && 100 * k > 64 * m

/-- A context whose mould no longer fits a direction (R466). -/
def Ctx.misfits (x : Ctx) (i k : Nat) : Bool :=
  match x.mould with
  | some m => exceeds k (m.margin i)
  | none => false

/-- DETAIL bits 21:0 of the records of a retirement (R465): groups still in service, groups retired, the group. -/
def retireDetail (serving k group : Nat) : Nat := serving + 2 ^ 8 * k + 2 ^ 16 * group

/-- The number of a frame in its group: the low 16 bits of the position of its entry in the retry buffer (log 18). -/
def frameNo (position : Nat) : Nat := position % 65536

/-- The entries of a group's retry buffer whose frames the receiver has not accepted. -/
def State.inFlight (s : State) (d : Dir) (group : Nat) : List QEntry :=
  let q := s.queue (.bridgeRetry d.die d.slot group)
  ((countFrom q.rp q.entries.length).zip q.entries).filterMap (fun (p, e) =>
    if (s.dir d).acked.contains (group, frameNo p) then none else some e)

/-- The groups in service of a direction, but for one (none of them: 64), whose retry buffer has room. -/
def State.otherGroups (s : State) (d : Dir) (group : Nat) : List Nat :=
  (List.range 64).filter (fun g => g != group && (s.dir d).serves g && decide ((s.queue (.bridgeRetry d.die d.slot g)).held < 32))

/-- Frames in flight are replayed over the other groups (R25): each goes to the retry buffer of one of them; which one is open (log 18).
The frames that find no room stay. -/
def State.replayOver (d : Dir) (group : Nat) : List QEntry → State → State × List QEntry
  | [], s => (s, [])
  | e :: l, s =>
    match s.otherGroups d group with
    | [] => (s, e :: l)
    | g :: gs =>
      let (i, s) := s.free (gs.length + 1)
      State.replayOver d group l (s.setQueue (.bridgeRetry d.die d.slot ((g :: gs).getD i g)) (qPush false e))

/-- The receiver's notes of a group's frames are dropped. -/
def BridgeSt.forget (group : Nat) (b : BridgeSt) : BridgeSt :=
  { b with awaiting := b.awaiting.filter (fun a => a.1.1 ≠ group), acked := b.acked.filter (fun a => a.1 ≠ group) }

/-- Frames that found no room in another group's retry buffer take it once there is some (R25). -/
def State.rehome (s : State) (d : Dir) : State :=
  let (s, left) := State.replayOver d 64 (s.dir d).displaced s
  s.setDir d (fun b => { b with displaced := left })

/-- A group leaves service, for a repair or for good: its frames in flight go over the other groups, so that none is lost (R25, R26), as soon
as those have room, and its retry buffer empties (R399). -/
def State.clearGroup (s : State) (d : Dir) (group : Nat) : State :=
  let (s, left) := State.replayOver d group (s.inFlight d group) s
  (s.setQueue (.bridgeRetry d.die d.slot group) RunQ.emptied).setDir d (fun b =>
    { b.forget group with displaced := b.displaced ++ left })

/-- A group is retired in the field (R26, R465, R466, R468): pending repairs in it are dropped, its frames go over the other groups and its
retry buffer empties, a NOTICE record goes to the receiving endpoint's die, and every ARMED or RUNNING context that no longer fits is faulted. A context that the
other direction of the bridge faulted gets its record of this direction as well, once. Rows of one FT are carried out in the order in which
they come: of two that retire both directions of a bridge the sender lists that of the lower index first (log 104). -/
def State.retire (s : State) (d : Dir) (group : Nat) : State :=
  if bitOf (s.dir d).retired group then s
  else
    let s := s.setDir d (fun b => { b with
      retired := b.retired + 2 ^ group
      marked := b.marked.filter (fun m => m.1 ≠ group)
      repairing := b.repairing.filter (fun m => m.1 ≠ group) })
    let s := s.clearGroup d group
    let (rd, rs) := receiver d
    let u := unitId rd clsBRG rs
    let i := dirIndex d
    let k := (s.dir d).lost
    let note := retireDetail (s.dir d).inService k group
    let s := s.raise stOk u 0xFF 0 i note
    (List.range 16).foldl (fun s c =>
      let x := s.ctx c
      let detail := note + 2 ^ 24 * (x.mould.map (fun m => m.margin i)).getD 0
      if x.active && x.misfits i k then
        (s.faultCtx c stBridgeDegraded u i detail 0).setCtx c (fun x => { x with degraded := some (i, s.ft) })
      else if x.created && x.hasFailed && x.degraded.map Prod.fst == some (i ^^^ 1) && x.misfits i k then
        (s.raise stBridgeDegraded u c 2 i detail).setCtx c (fun x => { x with degraded := none })
      else s) s

/-- Spares in use in a group: data lane + 1 of each of the four. -/
def BridgeSt.spare (b : BridgeSt) (group i : Nat) : Nat := Sparse.at? 0 b.spares (group * 4 + i)

/-- The mark of a spare that has failed and is never used (R22). -/
def failedSpare : Nat := 200

/-- The lowest-numbered spare of a group that is neither in use nor failed. -/
def BridgeSt.freeSpare (b : BridgeSt) (group : Nat) : Option Nat :=
  (List.range 4).find? (fun i => b.spare group i = 0)

/-- Some context is ARMED or RUNNING on a die (R24: armed contexts of either die of a bridge). -/
def State.dieArmed (s : State) (die : Nat) : Bool :=
  s.ctxs.any (fun x => x.active && (match x.mould with | some m => !(m.pours.getD die []).isEmpty | none => false))

/-- A repair begins (R23): the lane goes to the lowest free spare, or the group is retired when none is left (R26); the group is
out of service for 2,048 ns, and its frames in flight are replayed over the other groups (R25). -/
def State.startRepair (s : State) (d : Dir) (group lane : Nat) : State :=
  let b := s.dir d
  if bitOf b.retired group then s
  else
    match b.freeSpare group with
    | none => s.retire d group
    | some i =>
      -- a spare that fails gives its data lane to the new spare and is never used again
      let data := if lane < 64 then lane else b.spare group (lane - 64) - 1
      let s := s.setDir d (fun b =>
        let sp := if lane < 64 then b.spares else Sparse.put 0 b.spares (group * 4 + (lane - 64)) failedSpare
        { b with
          spares := Sparse.put 0 sp (group * 4 + i) (data + 1)
          marked := b.marked.filter (fun m => m ≠ (group, lane))
          errors := b.errors.filter (fun e => e.1 ≠ 68 * group + lane)
          repairing := (group, s.ft) :: b.repairing })
      s.clearGroup d group

/-- At a mould boundary every marked lane of a direction is repaired (R23, R24). -/
def State.repairMarked (s : State) (d : Dir) : State :=
  (s.dir d).marked.foldl (fun s (g, l) => s.startRepair d g l) s

/-- A heat start of a context on some dies is a mould boundary for every bridge of those dies (R24). -/
def State.bridgeBoundary (s : State) (die : Nat) : State :=
  (List.range 20).foldl (fun s i =>
    let d := dirOf i
    if d.die = die || neighbour d.die d.slot == some die then s.repairMarked d else s) s

/-- The lane is a spare that carries no data: not in use, or failed. -/
def BridgeSt.idleSpare (b : BridgeSt) (group lane : Nat) : Bool :=
  64 ≤ lane && (b.spare group (lane - 64) == 0 || b.spare group (lane - 64) == failedSpare)

/-- Mark a lane (R23, R26): without a free spare the group is retired at once; with no context armed on either die the repair
runs at once (R24). A spare that carries no data needs no repair: it is never used (R22). DESIGN CHOICE (log 65): a free spare that a
lane marked earlier is to take still counts as free here, so that the second lane is marked too and the group is retired only when
its repair finds no spare, at the mould boundary. -/
def State.markLane (s : State) (d : Dir) (group lane : Nat) : State :=
  let b := s.dir d
  if bitOf b.retired group || b.marked.contains (group, lane) then s
  else if b.idleSpare group lane then
    s.setDir d (fun b => { b with spares := Sparse.put 0 b.spares (group * 4 + (lane - 64)) failedSpare })
  else if (b.freeSpare group).isNone then s.retire d group
  else
    let s := s.setDir d (fun b => { b with marked := b.marked ++ [(group, lane)] })
    if s.dieArmed d.die || s.dieArmed (receiver d).1 then s else s.repairMarked d

/-- The oldest entries of a group's retry buffer whose frames have been accepted are released, in order, as far as they have been sent. -/
def State.releaseAcked (s : State) (d : Dir) (group : Nat) : State :=
  let id := QueueId.bridgeRetry d.die d.slot group
  let q := s.queue id
  let n := ((countFrom q.rp q.entries.length).takeWhile (fun p => (s.dir d).acked.contains (group, frameNo p))).length
  let p := min (q.rp + n) q.rd
  let gone := (countFrom q.rp (p - q.rp)).map (fun p => (group, frameNo p))
  let s := s.setQueue id (RunQ.release true p)
  (s.setDir d (fun b => { b with acked := b.acked.filter (fun a => !gone.contains a) })).rehome d

/-- The transmitter reads a frame from its retry buffer (R21, R395, R398): corrected words count, and true stands for an uncorrectable one. A
frame that has been read already is not read again without a replay. -/
def State.readFrame (s : State) (d : Dir) (group frame : Nat) : State × Bool :=
  let id := QueueId.bridgeRetry d.die d.slot group
  let q := s.queue id
  match ((countFrom q.rp q.entries.length).zip q.entries).find? (fun e => frameNo e.1 = frame && q.rd ≤ e.1) with
  | none => (s, false)
  | some (p, e) =>
    let s := s.setQueue id (RunQ.readTo (p + 1))
    if e.bad then (s, true) else (s.queueEcc id e.corr, false)

/-- The pours of `l` whose requests or responses have bytes in a frame end with MEM_UNCORRECTABLE (R399). DESIGN CHOICE (log 101): which of the
pours in progress those are is open. -/
def State.bytesLost : List Nat → State → State
  | [], s => s
  | u :: rest, s =>
    let (hit, s) := s.free 2
    State.bytesLost rest (if hit = 1 then s.failPour u stMemUncorrectable 0 0 else s)

/-- A frame whose entry cannot be read is sent as an empty frame in its place (R399). -/
def State.emptyFrame (s : State) : State := State.bytesLost ((s.units.filter (fun e => e.2.running.isSome)).map Prod.fst) s

/-- The receiver accepts a frame: nothing more is awaited of it, and the sender's entry of it is free once those before it are. -/
def State.takeFrame (s : State) (d : Dir) (group frame : Nat) : State :=
  let q := s.queue (.bridgeRetry d.die d.slot group)
  let held := (countFrom q.rp q.entries.length).any (fun p => frameNo p = frame)
  let s := s.setDir d (fun b => { b with
    awaiting := b.awaiting.filter (fun a => a.1 ≠ (group, frame))
    acked := if held && !b.acked.contains (group, frame) then b.acked ++ [(group, frame)] else b.acked })
  s.releaseAcked d group

/-- A bridge frame is charged to the context whose transfer it carries, or to the host (R415): which one is open (log 97). -/
def State.framePays (s : State) (die : Nat) : State :=
  let (i, s) := s.free (s.created.length + 1)
  s.charge die (s.created.getD i acctHost) 12 1

/-- BRIDGE_FRAME_RX: the receiving endpoint takes a frame of a group in service. A frame with a CRC error counts and a replay of it is
requested; a frame whose CRC fails on three replays in a row retires the group (R21, R26). A good frame is accepted. -/
def execBridgeFrameRx (t : Nat) (d : Dir) (group frame : Nat) (crcOk : Bool) (s : State) :
    Host.Outcome State Fault Refusal :=
  let s := s.advance t
  if !dirExists d || !(s.dir d).serves group then .next s
  else
    let s := s.framePays d.die
    let (s, bad) := s.readFrame d group frame
    let s := if bad then s.emptyFrame else s
    let (rd, rs) := receiver d
    if crcOk then .next (s.takeFrame d group frame)
    else
      let s := s.count .BRG_CRC_ERR rd rs 1
      let n := match (s.dir d).awaiting.find? (fun a => a.1 = (group, frame)) with | some a => a.2 + 1 | none => 0
      if n ≥ 3 then .next (s.retire d group)
      else
        let s := s.setDir d (fun b => { b with awaiting := setKey b.awaiting (group, frame) n })
        .next (s.count .BRG_REPLAYS rd rs 1)

/-- BRIDGE_REPLAY: the sender reads the group's unacknowledged frames again from its retry buffer (R21, R395). -/
def execBridgeReplay (t : Nat) (d : Dir) (group : Nat) (s : State) : Host.Outcome State Fault Refusal :=
  let s := s.advance t
  if !dirExists d || !(s.dir d).serves group then .next s
  else .next (s.setQueue (.bridgeRetry d.die d.slot group) (fun q => ({ q with mark := q.rp } : RunQ).rewind))

/-- Bit errors of a lane within the last 1,000,000 ns, both ends included (R5). -/
def BridgeSt.laneErrors (b : BridgeSt) (now k : Nat) : Nat :=
  ((b.errors.filter (fun e => e.1 = k && decide (now ≤ e.2.1 + 1000000))).map (fun e => e.2.2)).foldl (· + ·) 0

/-- LANE_MARK_REPAIR: bit errors counted on a lane at this FT; more than 16 within any 1,000,000 ns of FT mark it (R23). -/
def execLaneMarkRepair (t : Nat) (lane : Lane) (errors : Nat) (s : State) : Host.Outcome State Fault Refusal :=
  let s := s.advance t
  let d := lane.dir
  if !dirExists d || lane.group ≥ 64 || lane.lane ≥ 68 then .next s
  else
    let k := 68 * lane.group + lane.lane
    let s := s.setDir d (fun b => { b with
      errors := (b.errors.filter (fun e => s.ft ≤ e.2.1 + 1000000)) ++ (if errors = 0 then [] else [(k, s.ft, errors)]) })
    if (s.dir d).laneErrors s.ft k > 16 then .next (s.markLane d lane.group lane.lane) else .next s

/-- BRIDGE_REPAIR_DONE: 2,048 ns after a lane's repair began it is complete and counts; the group is back in service once none of its
lanes is under repair (R23). -/
def execBridgeRepairDone (t : Nat) (d : Dir) (group : Nat) (s : State) : Host.Outcome State Fault Refusal :=
  let s := s.advance t
  let past (r : Nat × Nat) : Bool := r.1 = group && decide (r.2 + 2048 ≤ s.ft)
  let n := ((s.dir d).repairing.filter past).length
  if !dirExists d || n = 0 then .next s
  else
    let (rd, rs) := receiver d
    let s := s.setDir d (fun b => { b with repairing := b.repairing.filter (fun r => !past r) })
    .next ((s.count .BRG_REPAIRS rd rs n).rehome d)

end Sys2Proof.Machine
end

