-- ==== Sys2Proof/Machine/Accum.lean ====
section
/-!
DEFINITION. Accumulation and reduction order (R126 to R132, R136, R137, R141, R144).
-/
namespace Sys2Proof.Machine

/-- A compensated element: value and error term (R129). An INT32 element has its value in `v` and +0 in `e`. -/
structure Acc where
  v : Val
  e : Val
  deriving DecidableEq, Repr

def Acc.zero : Acc := ⟨vZero, vZero⟩

/-- Bits below emax that a chunk's window keeps (R126). -/
def floorBits (f : Fmt) : Int := if f = .fp64 then 120 else 60

/-- A product in units of the window's floor weight 2^q, truncated toward zero (R128). -/
def windowTerm (q : Int) : Val → Int
  | .fin neg m e => sgnNum neg (rndMag .rtz m e q)
  | _ => 0

/-- The chunk step (R127, R128) into an accumulator of format `f`. -/
def chunkSum (f : Fmt) (ps : List Val) : Acc :=
  let posInf := ps.contains (.inf false)
  let negInf := ps.contains (.inf true)
  if ps.any vIsNan || (posInf && negInf) then ⟨.nan, vZero⟩
  else if posInf then ⟨.inf false, vZero⟩
  else if negInf then ⟨.inf true, vZero⟩
  else if ps.all vIsZero then ⟨.fin (ps.all vSign && !ps.isEmpty) 0 0, vZero⟩
  else
    let emax := ps.foldl (fun (a : Option Int) p =>
      match p with
      | .fin _ m e => if m = 0 then a else some (match a with | none => magExp m e | some x => max x (magExp m e))
      | _ => a) none
    let q := emax.getD 0 - floorBits f
    let w := ps.foldl (fun w p => w + windowTerm q p) 0
    let x := vOfDyadic w q
    let hi := rneVal f x
    ⟨hi, if vIsInf hi then vZero else rneVal f (vSub x hi)⟩

/-- A chunk sum enters a compensated accumulator (R129, R130). -/
def accAdd (f : Fmt) (a c : Acc) : Acc :=
  if !vFinite a.v || !vFinite c.v then ⟨vAdd a.v c.v, vZero⟩
  else
    let (s, t) := twoSum f a.v c.v
    if vIsInf s then ⟨s, vZero⟩
    else
      let e := rneVal f (vAdd a.e (rneVal f (vAdd t c.e)))
      let (v, e) := twoSum f s e
      ⟨v, if vIsInf v then vZero else e⟩

/-- INT32 saturation (R132): the value and whether it saturated. -/
def satInt32 (i : Int) : Int × Bool :=
  if i > 0x7FFFFFFF then (0x7FFFFFFF, true) else if i < -0x80000000 then (-0x80000000, true) else (i, false)

/-- The integer value of a finite value that is an integer. -/
def intOf : Val → Int
  | .fin neg m e => sgnNum neg (if e ≥ 0 then m <<< e.toNat else m >>> (-e).toNat)
  | _ => 0

/-- Chunks of `n` consecutive elements. -/
def chunksOf {α : Type} (n : Nat) (l : List α) : List (List α) :=
  (List.range (ceilDiv l.length n)).map (fun i => (l.drop (i * n)).take n)

/-- One chunk enters an accumulator element (R128, R129, R132): the element and its saturations. -/
def addChunk (f : Fmt) (x : Acc × Nat) (c : List Val) : Acc × Nat :=
  if f = .int32 then
    let (i, sat) := satInt32 (intOf x.1.v + c.foldl (fun w p => w + intOf p) 0)
    (⟨vInt i, vZero⟩, x.2 + b2n sat)
  else (accAdd f x.1 (chunkSum f c), x.2)

/-- Accumulate products, chunk by chunk, from an accumulator element (R99): the element and its saturations. -/
def accumulate (f : Fmt) (len : Nat) (a : Acc) (ps : List Val) : Acc × Nat := (chunksOf len ps).foldl (addChunk f) (a, 0)

/-- Accumulate the chunks of a sum from +0; an element that is masked off takes no part (R135, R141). -/
def accumulateIn (f : Fmt) (chunks : List (List (Option Val))) : Acc × Nat :=
  chunks.foldl (fun x c => addChunk f x (c.filterMap id)) (Acc.zero, 0)

/-- The exact value of an accumulator element (R117). -/
def Acc.exact (a : Acc) : Val := if vFinite a.v then vAdd a.v a.e else a.v

/-- The bits of an element, value and error term (R109, R129). -/
def accBits (f : Fmt) (a : Acc) : Nat × Nat := ((roundTo f .rne a.v).bits, if f = .int32 then 0 else (roundTo f .rne a.e).bits)
def accOf (f : Fmt) (b : Nat × Nat) : Acc := ⟨valOf f b.1, if f = .int32 then vZero else valOf f b.2⟩

/-- The sum node of R136 for a compensated format. -/
def nodeSum (f : Fmt) (a b : Acc) : Acc :=
  if !vFinite a.v || !vFinite b.v then ⟨vAdd a.v b.v, vZero⟩
  else
    let (s, t) := twoSum f a.v b.v
    if vIsInf s then ⟨s, vZero⟩
    else
      let e := rneVal f (vAdd (rneVal f (vAdd a.e b.e)) t)
      let (v, e) := twoSum f s e
      ⟨v, if vIsInf v then vZero else e⟩

/-- One level of the pairing of R137. -/
def pairUp {α : Type} (op : α → α → α) : List α → List α
  | a :: b :: l => op a b :: pairUp op l
  | l => l

/-- The tree of R137, level by level; the fuel is at least the number of levels. -/
def treeLevels {α : Type} (op : α → α → α) : Nat → List α → List α
  | 0, l => l
  | k + 1, l => treeLevels op k (pairUp op l)

/-- A node whose children carry an empty mark: one empty child passes the other up unchanged, two pass up an empty partial (R144). -/
def passUp {α : Type} (op : α → α → α) : Option α → Option α → Option α
  | some a, some b => some (op a b)
  | some a, none => some a
  | none, b => b

/-- The root of the tree over the leaves, empty ones among them (R137, R144); none when every leaf is empty. -/
def tree {α : Type} (op : α → α → α) (l : List (Option α)) : Option α :=
  ((treeLevels (passUp op) (clog2 l.length + 1) l).head?).join

/-- The argmax or argmin node of R136 on (value, index) pairs. -/
def nodeArg (isMax : Bool) (a b : Val × Nat) : Val × Nat :=
  if vIsNan a.1 then a
  else if vIsNan b.1 then b
  else if (if isMax then vMax a.1 b.1 else vMin a.1 b.1) = a.1 then a
  else b

/-- The encoding 1 in a format (R141). -/
def oneBits (f : Fmt) : Nat := (roundTo f .rne vOne).bits

end Sys2Proof.Machine
end

