-- ==== Sys2Proof/Machine/Power.lean ====
section
/-!
DEFINITION. Power (chapter 15): budgets and the backstop (R408 to R413), the energy model (R415, R416), idle states (R418 to R422),
temperature (R423 to R425), and the rows SENSOR_SAMPLE to ENERGY_QUERY and IDLE_ENTRY_DONE.
-/
namespace Sys2Proof.Machine

/-! Energy. -/

/-- A context's total over the dies, in fJ. -/
def State.ctxEnergy (s : State) (c : Nat) : Nat :=
  dies.foldl (fun a d => a + Sparse.at? 0 s.energy (c * 8 + d)) 0

/-! Budgets. -/

/-- Length of a budget interval (R408). -/
def interval : Nat := 100000

/-- Energy in fJ over an interval as power in mW (R408), rounded down. -/
def powerOf (fj : Nat) : Nat := fj / (1000 * interval)

/-- BUDGET_MESSAGE_RX: D0 receives the report of a die (R408). One that comes after 40,000 ns of the interval is the previous report of the
next computation (R410). -/
def execBudgetMessageRx (t die : Nat) (s : State) : Host.Outcome State Fault Refusal :=
  let s := s.advance t
  if die ≥ 8 then .next s
  else
    let intime : Bool := s.ft % interval ≤ 40000
    .next (s.setDie die (fun p => { p with lastReport := p.power, reported := p.reported || intime }))

/-- The budget of a die (R409): C the cap, `sum` the sum of the reports, `p` its report. -/
def budgetOf (cap sum p : Nat) : Nat := if sum ≤ cap then p + (cap - sum) / 8 else cap * p / sum

/-- BUDGET_COMPUTE: D0 computes the next budgets; a missing report is replaced by the previous one and counts at D0 (R409, R410). -/
def execBudgetCompute (t : Nat) (s : State) : Host.Outcome State Fault Refusal :=
  let s := s.advance t
  if t % interval ≠ 40000 || t ≠ s.ft then .next s
  else
    let missing := (dies.filter (fun d => !(s.die d).reported)).length
    let sum := dies.foldl (fun a d => a + (s.die d).lastReport) 0
    let cap := s.reg .PWR_PKG_CAP 0 0
    let give (p : DiePwr) : DiePwr := { p with nextBudget := some (budgetOf cap sum p.lastReport), reported := false }
    let s := { s with pwr := s.pwr.map give }
    let s := s.setReg .PWR_PKG_POWER 0 0 sum
    .next (s.count .PWR_BUDGET_MISS 0 0 missing)

/-- The backstop level after a budget takes effect (R412, R424): `p` the power reported, `b` the new budget. -/
def nextLevel (level p b : Nat) (thermal : Bool) : Nat :=
  if thermal then max 4 (min 8 (level + 1))
  else if p > b then min 8 (level + 1)
  else if 100 * p ≤ 95 * b then level - 1
  else level

/-- BUDGET_TAKE_EFFECT: 50,000 ns into the interval the new budgets take effect and the levels change; a die whose budget has not
arrived (bit of `missing`) keeps the old one and counts a miss (R409, R410, R412). -/
def execBudgetTakeEffect (t missing : Nat) (s : State) : Host.Outcome State Fault Refusal :=
  let s := s.advance t
  if t % interval ≠ 50000 || t ≠ s.ft then .next s
  else
    .next (dies.foldl (fun s d =>
      match (s.die d).nextBudget with
      | some b =>
        if bitOf missing d then
          (s.setDie d (fun p => { p with nextBudget := none })).count .PWR_BUDGET_MISS d 0 1
        else
          let p := s.die d
          (s.setLevel d (nextLevel p.level p.power b p.thermal)).setDie d (fun p => { p with budget := b, nextBudget := none })
      | none => s.count .PWR_BUDGET_MISS d 0 1) s)

/-- BACKSTOP_SLOT: at each FT multiple of 1,024 ns, L slots of 64 ns have no ARITH edge, and count once (R412). -/
def execBackstopSlot (t die : Nat) (s : State) : Host.Outcome State Fault Refusal :=
  let s := s.advance t
  if die ≥ 8 || t % 1024 ≠ 0 || t ≠ s.ft || (s.die die).slotFt == some t then .next s
  else .next ((s.setDie die (fun p => { p with slotFt := some t })).count .PWR_BACKSTOP_SLOTS die 0 (s.die die).level)

/-- ARITH has no edge on a die at FT `t` (R412). -/
def State.arithStopped (s : State) (die t : Nat) : Bool := t % 1024 < 64 * (s.die die).level

/-- A write to PWR_PKG_CAP (R411). -/
def State.writeCap (s : State) (v : Nat) : State :=
  if 1500000 ≤ v && v ≤ 4200000 then s.setReg .PWR_PKG_CAP 0 0 v else s

/-- PWR_PKG_CAP_WRITE. -/
def execPwrPkgCapWrite (t value : Nat) (s : State) : Host.Outcome State Fault Refusal :=
  .next ((s.advance t).writeCap value)

/-! Idle states. -/

/-- Entry time and exit latency (R418). -/
def entryTime : Idle → Nat
  | .run => 0 | .hold => 64 | .banked => 20000 | .damped => 500000
def exitLatency : Idle → Nat
  | .run => 0 | .hold => 1000 | .banked => 40000 | .damped => 3000000

/-- Depth of an idle state: PWR_STATUS.STATE. -/
def idleCode : Idle → Nat
  | .run => 0 | .hold => 1 | .banked => 2 | .damped => 3

/-- The deepest state whose exit latency does not exceed a tolerance (R420). -/
def deepestFor (ltv : Nat) : Idle :=
  if ltv ≥ 3000000 then .damped else if ltv ≥ 40000 then .banked else if ltv ≥ 1000 then .hold else .run

/-- Units of a die that drain under DISABLE_UNIT. -/
def State.dieDraining (s : State) (d : Nat) : Bool := s.units.any (fun e => unitDie e.1 = d && e.2.drainBy.isSome)

/-- Eligible for HOLD and BANKED (R419). -/
def State.eligible (s : State) (d : Nat) : Bool :=
  !s.dieDraining d &&
  s.created.all (fun c =>
    let x := s.ctx c
    !(touchesDie x.part d) || x.st == .empty || x.st == .loaded)

/-- Eligible for DAMPED in addition (R419): no context with engines on the die holds a resume point. -/
def State.eligibleDamped (s : State) (d : Nat) : Bool :=
  s.created.all (fun c => enginesOn (s.ctx c).part d = 0 || (s.ctx c).resume.isNone)

/-- FT since which the die has been eligible without a break (R420). -/
def State.eligibleSince (s : State) (d : Nat) : Nat :=
  s.created.foldl (fun a c => if touchesDie (s.ctx c).part d then max a (s.ctx c).freeSince else a) (s.die d).drainEnd

/-- The state a die's power manager enters now: the deepest one allowed by the tolerance and by R419. -/
def State.idleTarget (s : State) (d : Nat) : Idle :=
  match deepestFor (s.die d).ltv with
  | .damped => if s.eligibleDamped d then .damped else .banked
  | x => x

/-- Write out every write-combining entry of a die's stacks (R268, R422). -/
def State.flushDie (s : State) (d : Nat) : State :=
  (s.wcb.filter (fun e => (s.channelAt (64 * e.1)).1 / 64 = d)).foldl (fun s e => s.flushEntry State.lineLost e.1) s

/-- Write out every write-combining entry of a stack. -/
def State.flushStack (s : State) (st : Nat) : State :=
  (s.wcb.filter (fun e => (s.channelAt (64 * e.1)).1 / 32 = st)).foldl (fun s e => s.flushEntry State.lineLost e.1) s

/-- IDLE_ENTRY: a die eligible for 10,240 ns starts to enter the deepest state allowed (R420). -/
def execIdleEntry (t die : Nat) (s : State) : Host.Outcome State Fault Refusal :=
  let s := s.advance t
  let p := s.die die
  let target := s.idleTarget die
  if die ≥ 8 || s.boot.st ≠ .done || !s.eligible die || s.ft < s.eligibleSince die + 10240 || p.exitBy.isSome
      || p.entering.isSome || idleCode target ≤ idleCode p.idle then .next s
  else .next (s.setDie die (fun p => { p with entering := some (target, s.ft + entryTime target) }))

/-- Compute-die state that DAMPED loses (R418, R422): accumulator tiles are not live, vector-engine state is 0. -/
def State.loseComputeDie (s : State) (d : Nat) : State :=
  let lose (x : EngSt) : EngSt := { x with
    tiles := [], v := [], k := [0, 0, 0, 0, 0, 0, 0], a := [0, 0, 0, 0, 0, 0, 0, 0], accImm := 0, accPos := 0
    srcTid := 0, srcBase := 0, header := none, rowsRead := 0, rowsMark := 0 }
  { s with engs := s.engs.map (fun (e, x) => (e, if e / 48 = d then lose x else x)) }

/-- IDLE_ENTRY_DONE: the entry completes after the state's entry time (R418); DAMPED writes out the buffers, puts both stacks into
self-refresh and loses the compute die's state (R422). -/
def execIdleEntryDone (t die : Nat) (s : State) : Host.Outcome State Fault Refusal :=
  let s := s.advance t
  match (s.die die).entering with
  | none => .next s
  | some (target, at') =>
    if die ≥ 8 || s.ft < at' then .next s
    else
      let s := s.settle die
      let s := s.setDie die (fun p => { p with idle := target, entering := none })
      let s := s.count .PWR_STATE_ENTRIES die 0 1
      if target = .damped then
        let s := (s.flushDie die).loseComputeDie die
        .next { s with asleep := (2 * die) :: (2 * die + 1) :: s.asleep.filter (fun x => x / 2 ≠ die) }
      else .next s

/-- A die begins its exit (R421): from the state it is in or is entering. -/
def State.beginExit (s : State) (d : Nat) : State :=
  let p := s.die d
  let from' := match p.entering with | some (x, _) => x | none => p.idle
  if from' = .run || p.exitBy.isSome then s
  else s.setDie d (fun p => { p with exitBy := some (s.ft + exitLatency from') })

/-- Every die that a context touches begins its exit (R421). -/
def State.wakeDies (s : State) (c : Nat) : State :=
  dies.foldl (fun s d => if touchesDie (s.ctx c).part d then s.beginExit d else s) s

/-- IDLE_EXIT_DONE: the exit ends; the die runs and its stacks are active (R421). -/
def execIdleExitDone (t die : Nat) (s : State) : Host.Outcome State Fault Refusal :=
  let s := s.advance t
  if die ≥ 8 || (s.die die).exitBy.isNone then .next s
  else
    let s := s.settle die
    let s := s.setDie die (fun p => { p with idle := .run, entering := none, exitBy := none })
    .next { s with asleep := s.asleep.filter (fun x => x / 2 ≠ die) }

/-- STACK_WAKE: an access to a stack in self-refresh wakes it, and counts (R422). -/
def execStackWake (t stack : Nat) (s : State) : Host.Outcome State Fault Refusal :=
  let s := s.advance t
  if !s.asleep.contains stack then .next s
  else
    let s := s.count .PWR_SR_WAKES (stack / 2) 0 1
    .next { s with asleep := s.asleep.filter (fun x => x ≠ stack), stackUse := Sparse.put 0 s.stackUse stack s.ft }

/-- SELF_REFRESH_ENTRY: 1,000,000 ns after its last access a stack of a DAMPED die re-enters self-refresh, after its buffers have been
written out (R422). -/
def execSelfRefreshEntry (t stack : Nat) (s : State) : Host.Outcome State Fault Refusal :=
  let s := s.advance t
  if stack ≥ 16 || s.asleep.contains stack || (s.die (stack / 2)).idle ≠ .damped
      || s.ft < Sparse.at? 0 s.stackUse stack + 1000000 then .next s
  else
    let s := s.flushStack stack
    .next { s with asleep := stack :: s.asleep }

/-- SET_LTV (R420, R421): the tolerance of the dies in the mask; the reply carries the deepest state it permits. -/
def State.doSetLtv (s : State) (o : OutCmd) (mask ltv : Nat) : State :=
  let s := dies.foldl (fun s d =>
    if bitOf mask d then
      let p := s.die d
      let now := match p.entering with | some (x, _) => x | none => p.idle
      let s := s.setDie d (fun p => { p with ltv := ltv })
      if ltv < exitLatency now then s.beginExit d else s
    else s) s
  s.complete o stOk (idleCode (deepestFor ltv)) 0

def execSetLtv (t : Nat) (c : Cmd) (mask ltv : Nat) (s : State) : Host.Outcome State Fault Refusal :=
  .next ((s.advance t).command c 0x0F (fun o s => s.doSetLtv o mask ltv))

/-- ENERGY_QUERY (R416): µJ up to the end of the last completed interval, and that end. -/
def State.doEnergyQuery (s : State) (o : OutCmd) (c : Nat) : State :=
  s.complete o stOk (s.energyAt.getD c 0 / 10 ^ 9 % 2 ^ 64) s.energyEnd

def execEnergyQuery (t : Nat) (c : Cmd) (s : State) : Host.Outcome State Fault Refusal :=
  .next ((s.advance t).command c 0x10 (fun o s => s.doEnergyQuery o (cmdTarget c)))

/-! Temperature. -/

/-- Backstop and trip temperatures of a sensor in units of 0.125 °C (R423). -/
def backstopTemp (sensor : Nat) : Int := if sensor < 20 then 800 else 736
def tripTemp (sensor : Nat) : Int := if sensor < 20 then 880 else 800

/-- A sensor reading, signed; 0 while never sampled. -/
def tempVal (t : Nat) : Int := toInt 16 (t % 65536)

/-- Some sensor of the die reads at or above its backstop temperature (R424). -/
def dieThermal (temps : List Nat) : Bool :=
  (temps.zip (List.range 24)).any (fun (t, i) => bitOf t 16 && tempVal t ≥ backstopTemp i)

/-- SENSOR_SAMPLE without the trip (R423, R424): the reading, the maximum, THERMAL and the level floor. -/
def State.takeSample (s : State) (die sensor temp : Nat) : State :=
  let p := s.die die
  let temps := p.temps.set sensor (0x10000 + temp % 65536)
  let th := dieThermal temps
  let s := (s.setLevel die (if th then max 4 p.level else p.level)).setDie die (fun p =>
    { p with
      temps := temps
      thermal := th
      hot := if tempVal temp ≥ tripTemp sensor then (if p.hot.contains sensor then p.hot else sensor :: p.hot)
        else p.hot.filter (fun x => x ≠ sensor) })
  let m := s.reg .PWR_TEMP_MAX die 0
  if tempVal temp > tempVal m then s.setReg .PWR_TEMP_MAX die 0 (temp % 65536) else s

end Sys2Proof.Machine
end

