-- ==== Sys2Proof/Machine/Sha.lean ====
section
/-!
DEFINITION. SHA-384 (FIPS 180-4), which moulds, images and measurements use (R48, R436, R445), and SHA-512 and SHA-256, which FIPS 205
uses. The standard is outside the spec: log 8.
-/
namespace Sys2Proof.Machine

/-- Round constants 0 to 19. -/
def shaK0 : List Nat :=
  [0x428A2F98D728AE22, 0x7137449123EF65CD, 0xB5C0FBCFEC4D3B2F, 0xE9B5DBA58189DBBC, 0x3956C25BF348B538,
   0x59F111F1B605D019, 0x923F82A4AF194F9B, 0xAB1C5ED5DA6D8118, 0xD807AA98A3030242, 0x12835B0145706FBE,
   0x243185BE4EE4B28C, 0x550C7DC3D5FFB4E2, 0x72BE5D74F27B896F, 0x80DEB1FE3B1696B1, 0x9BDC06A725C71235,
   0xC19BF174CF692694, 0xE49B69C19EF14AD2, 0xEFBE4786384F25E3, 0x0FC19DC68B8CD5B5, 0x240CA1CC77AC9C65]

/-- Round constants 20 to 39. -/
def shaK1 : List Nat :=
  [0x2DE92C6F592B0275, 0x4A7484AA6EA6E483, 0x5CB0A9DCBD41FBD4, 0x76F988DA831153B5, 0x983E5152EE66DFAB,
   0xA831C66D2DB43210, 0xB00327C898FB213F, 0xBF597FC7BEEF0EE4, 0xC6E00BF33DA88FC2, 0xD5A79147930AA725,
   0x06CA6351E003826F, 0x142929670A0E6E70, 0x27B70A8546D22FFC, 0x2E1B21385C26C926, 0x4D2C6DFC5AC42AED,
   0x53380D139D95B3DF, 0x650A73548BAF63DE, 0x766A0ABB3C77B2A8, 0x81C2C92E47EDAEE6, 0x92722C851482353B]

/-- Round constants 40 to 59. -/
def shaK2 : List Nat :=
  [0xA2BFE8A14CF10364, 0xA81A664BBC423001, 0xC24B8B70D0F89791, 0xC76C51A30654BE30, 0xD192E819D6EF5218,
   0xD69906245565A910, 0xF40E35855771202A, 0x106AA07032BBD1B8, 0x19A4C116B8D2D0C8, 0x1E376C085141AB53,
   0x2748774CDF8EEB99, 0x34B0BCB5E19B48A8, 0x391C0CB3C5C95A63, 0x4ED8AA4AE3418ACB, 0x5B9CCA4F7763E373,
   0x682E6FF3D6B2B8A3, 0x748F82EE5DEFB2FC, 0x78A5636F43172F60, 0x84C87814A1F0AB72, 0x8CC702081A6439EC]

/-- Round constants 60 to 79. -/
def shaK3 : List Nat :=
  [0x90BEFFFA23631E28, 0xA4506CEBDE82BDE9, 0xBEF9A3F7B2C67915, 0xC67178F2E372532B, 0xCA273ECEEA26619C,
   0xD186B8C721C0C207, 0xEADA7DD6CDE0EB1E, 0xF57D4F7FEE6ED178, 0x06F067AA72176FBA, 0x0A637DC5A2C898A6,
   0x113F9804BEF90DAE, 0x1B710B35131C471B, 0x28DB77F523047D84, 0x32CAAB7B40C72493, 0x3C9EBE0A15C9BEBC,
   0x431D67C49C100D4C, 0x4CC5D4BECB3E42B6, 0x597F299CFC657E2A, 0x5FCB6FAB3AD6FAEC, 0x6C44198C4A475817]

/-- The initial hash value of SHA-384. -/
def shaInit : List Nat :=
  [0xCBBB9D5DC1059ED8, 0x629A292A367CD507, 0x9159015A3070DD17, 0x152FECD8F70E5939, 0x67332667FFC00B31,
   0x8EB44A8768581511, 0xDB0C2E0D64F98FA7, 0x47B5481DBEFA4FA4]

/-- Rotate a 64-bit word right. -/
def rotr64 (x n : Nat) : Nat := (x >>> n) ||| ((x <<< (64 - n)) % 2 ^ 64)

/-- The message schedule: `w` holds the last sixteen words, oldest first; each step appends one. -/
def shaExpand : Nat → List Nat → List Nat
  | 0, w => w
  | n + 1, w =>
    match w with
    | w0 :: rest =>
      let w1 := rest.getD 0 0
      let w9 := rest.getD 8 0
      let w14 := rest.getD 13 0
      let s0 := rotr64 w1 1 ^^^ rotr64 w1 8 ^^^ (w1 >>> 7)
      let s1 := rotr64 w14 19 ^^^ rotr64 w14 61 ^^^ (w14 >>> 6)
      w0 :: shaExpand n (rest ++ [(w0 + s0 + w9 + s1) % 2 ^ 64])
    | [] => []

/-- The eight working variables. -/
structure ShaSt where
  a : Nat
  b : Nat
  c : Nat
  d : Nat
  e : Nat
  f : Nat
  g : Nat
  h : Nat
  deriving DecidableEq, Repr

/-- One round with constant and schedule word. -/
def shaRound (v : ShaSt) (k w : Nat) : ShaSt :=
  let s1 := rotr64 v.e 14 ^^^ rotr64 v.e 18 ^^^ rotr64 v.e 41
  let ch := (v.e &&& v.f) ^^^ ((2 ^ 64 - 1 - v.e) &&& v.g)
  let t1 := v.h + s1 + ch + k + w
  let s0 := rotr64 v.a 28 ^^^ rotr64 v.a 34 ^^^ rotr64 v.a 39
  let maj := (v.a &&& v.b) ^^^ (v.a &&& v.c) ^^^ (v.b &&& v.c)
  ⟨(t1 + s0 + maj) % 2 ^ 64, v.a, v.b, v.c, (v.d + t1) % 2 ^ 64, v.e, v.f, v.g⟩

/-- Big-endian value of bytes. -/
def beNat (bs : List Byte) : Nat := bs.foldl (fun a b => 256 * a + b.toNat) 0

/-- The `n` big-endian bytes of a number. -/
def beBytes (n v : Nat) : List Byte := (leBytes n v).reverse

/-- The sixteen words of a 128-byte block. -/
def shaWords (block : List Byte) : List Nat := (List.range 16).map (fun i => beNat ((block.drop (i * 8)).take 8))

/-- Compress one block. -/
def shaBlock (h : ShaSt) (block : List Byte) : ShaSt :=
  let ks := shaK0 ++ shaK1 ++ shaK2 ++ shaK3
  let v := (ks.zip (shaExpand 64 (shaWords block))).foldl (fun v (k, w) => shaRound v k w) h
  let m := 2 ^ 64
  ⟨(h.a + v.a) % m, (h.b + v.b) % m, (h.c + v.c) % m, (h.d + v.d) % m,
   (h.e + v.e) % m, (h.f + v.f) % m, (h.g + v.g) % m, (h.h + v.h) % m⟩

/-- Compress the 128-byte blocks of a padded message. -/
def shaLoop : Nat → ShaSt → List Byte → ShaSt
  | 0, h, _ => h
  | n + 1, h, bs => shaLoop n (shaBlock h (bs.take 128)) (bs.drop 128)

/-- A message padded to whole blocks of `block` bytes: a 1 bit, zeros, and the length in bits in `len` bytes. -/
def shaPad (block len : Nat) (bs : List Byte) : List Byte :=
  let zeros := (2 * block - (bs.length + len + 1) % block) % block
  bs ++ 0x80#8 :: List.replicate zeros 0#8 ++ beBytes len (bs.length * 8)

/-- The 64-byte hash of a byte string from an initial value. -/
def shaFrom (i : List Nat) (bs : List Byte) : List Byte :=
  let msg := shaPad 128 16 bs
  let h0 : ShaSt := ⟨i.getD 0 0, i.getD 1 0, i.getD 2 0, i.getD 3 0, i.getD 4 0, i.getD 5 0, i.getD 6 0, i.getD 7 0⟩
  let h := shaLoop (msg.length / 128) h0 msg
  beBytes 8 h.a ++ beBytes 8 h.b ++ beBytes 8 h.c ++ beBytes 8 h.d ++ beBytes 8 h.e ++ beBytes 8 h.f ++ beBytes 8 h.g ++ beBytes 8 h.h

/-- SHA-384 of a byte string: 48 bytes. -/
def sha384 (bs : List Byte) : List Byte := (shaFrom shaInit bs).take 48

/-! SHA-512 and SHA-256, which the signature scheme of FIPS 205 uses (R436, R444). -/

/-- The initial hash value of SHA-512; that of SHA-256 is the upper halves of its words. -/
def shaInit512 : List Nat :=
  [0x6A09E667F3BCC908, 0xBB67AE8584CAA73B, 0x3C6EF372FE94F82B, 0xA54FF53A5F1D36F1, 0x510E527FADE682D1, 0x9B05688C2B3E6C1F,
   0x1F83D9ABFB41BD6B, 0x5BE0CD19137E2179]

def sha512 (bs : List Byte) : List Byte := shaFrom shaInit512 bs

/-- Rotate a 32-bit word right. -/
def rotr32 (x n : Nat) : Nat := (x >>> n) ||| ((x <<< (32 - n)) % 2 ^ 32)

/-- The message schedule of SHA-256. -/
def sha256Expand : Nat → List Nat → List Nat
  | 0, w => w
  | n + 1, w =>
    match w with
    | w0 :: rest =>
      let w1 := rest.getD 0 0
      let w14 := rest.getD 13 0
      let s0 := rotr32 w1 7 ^^^ rotr32 w1 18 ^^^ (w1 >>> 3)
      let s1 := rotr32 w14 17 ^^^ rotr32 w14 19 ^^^ (w14 >>> 10)
      w0 :: sha256Expand n (rest ++ [(w0 + s0 + rest.getD 8 0 + s1) % 2 ^ 32])
    | [] => []

/-- One round of SHA-256. -/
def sha256Round (v : ShaSt) (k w : Nat) : ShaSt :=
  let s1 := rotr32 v.e 6 ^^^ rotr32 v.e 11 ^^^ rotr32 v.e 25
  let ch := (v.e &&& v.f) ^^^ ((2 ^ 32 - 1 - v.e) &&& v.g)
  let t1 := v.h + s1 + ch + k + w
  let s0 := rotr32 v.a 2 ^^^ rotr32 v.a 13 ^^^ rotr32 v.a 22
  let maj := (v.a &&& v.b) ^^^ (v.a &&& v.c) ^^^ (v.b &&& v.c)
  ⟨(t1 + s0 + maj) % 2 ^ 32, v.a, v.b, v.c, (v.d + t1) % 2 ^ 32, v.e, v.f, v.g⟩

/-- Compress one 64-byte block; the round constants are the upper halves of the first 64 of SHA-384. -/
def sha256Block (h : ShaSt) (block : List Byte) : ShaSt :=
  let ks := ((shaK0 ++ shaK1 ++ shaK2 ++ shaK3).take 64).map (· >>> 32)
  let ws := (List.range 16).map (fun i => beNat ((block.drop (i * 4)).take 4))
  let v := (ks.zip (sha256Expand 48 ws)).foldl (fun v (k, w) => sha256Round v k w) h
  let m := 2 ^ 32
  ⟨(h.a + v.a) % m, (h.b + v.b) % m, (h.c + v.c) % m, (h.d + v.d) % m,
   (h.e + v.e) % m, (h.f + v.f) % m, (h.g + v.g) % m, (h.h + v.h) % m⟩

def sha256Loop : Nat → ShaSt → List Byte → ShaSt
  | 0, h, _ => h
  | n + 1, h, bs => sha256Loop n (sha256Block h (bs.take 64)) (bs.drop 64)

/-- SHA-256 of a byte string: 32 bytes. -/
def sha256 (bs : List Byte) : List Byte :=
  let msg := shaPad 64 8 bs
  let i := shaInit512.map (· >>> 32)
  let h0 : ShaSt := ⟨i.getD 0 0, i.getD 1 0, i.getD 2 0, i.getD 3 0, i.getD 4 0, i.getD 5 0, i.getD 6 0, i.getD 7 0⟩
  let h := sha256Loop (msg.length / 64) h0 msg
  [h.a, h.b, h.c, h.d, h.e, h.f, h.g, h.h].flatMap (beBytes 4)

end Sys2Proof.Machine
end

