-- ==== Sys2Proof/Machine/Mould.lean ====
section
/-!
DEFINITION. Moulds and staged settings (R48 to R54, R63, R66 to R72, R224, R235, R240, R383): the rows LOAD_MOULD, ARM_AT, HALT,
HALT_COMPLETE, STAGE, COMMIT_AT, COMMIT_AT_CANCEL and COMMIT_APPLY.
-/
namespace Sys2Proof.Machine

/-! Reading an image. -/

/-- Read `n` bytes at a virtual address, page by page; `fuel` is at least the number of pages. -/
def State.loadRange (die c : Nat) : Nat → State → Nat → Nat → State × Except XErr (List Byte)
  | 0, s, _, n => (s, if n = 0 then .ok [] else .error ⟨stTranslationFault, 0⟩)
  | k + 1, s, va, n =>
    if n = 0 then (s, .ok [])
    else
      let first := min n (2 ^ 26 - va % 2 ^ 26)
      let (s, r) := s.translateLocal die c va .rd
      match r with
      | .error e => (s, .error e)
      | .ok a =>
        match s.load a first with
        | (s, none) => (s, .error ⟨stMemUncorrectable, 0⟩)
        | (s, some bs) =>
          match State.loadRange die c k s (va + first) (n - first) with
          | (s, .ok more) => (s, .ok (bs ++ more))
          | (s, .error e) => (s, .error e)

/-- Read bytes at a virtual address for a context, from the command processor or unit of a die. -/
def State.readVa (s : State) (die c va n : Nat) : State × Except XErr (List Byte) :=
  State.loadRange die c (n / 2 ^ 26 + 2) s va n

/-- Read several ranges, in order, up to the first that fails. -/
def State.readMany (die c : Nat) : List (Nat × Nat) → State → State × Except XErr (List (List Byte))
  | [], s => (s, .ok [])
  | (va, n) :: rest, s =>
    match s.readVa die c va n with
    | (s, .error e) => (s, .error e)
    | (s, .ok bs) =>
      match State.readMany die c rest s with
      | (s, .error e) => (s, .error e)
      | (s, .ok more) => (s, .ok (bs :: more))

/-! Header checks (R48 to R52, R54). -/

def hdrLen (h : List Byte) : Nat := fieldAt h 8 8
def hdrPourOff (h : List Byte) (d : Nat) : Nat := fieldAt h (72 + 16 * d) 8
def hdrPourCount (h : List Byte) (d : Nat) : Nat := fieldAt h (80 + 16 * d) 4

/-- The header's own fields (check 2 of R54). -/
def headerOk (h : List Byte) : Bool :=
  let len := hdrLen h
  let units := fieldAt h 16 4
  let slots := fieldAt h 40 4
  let groups := fieldAt h 68 4
  let gt := fieldAt h 248 8
  fieldAt h 0 4 == 0x444C4F4D && fieldAt h 6 2 == 256 && 256 ≤ len && 1 ≤ units && units ≤ 4194304 &&
  1 ≤ slots && slots ≤ 4096 && fieldAt h 44 4 < 2 && groups ≤ 256 && gt % 8 == 0 && (groups != 0 || gt == 0) &&
  fieldAt h 32 8 + 8 * slots ≤ len && gt + 16 * groups ≤ len &&
  dies.all (fun d => hdrPourCount h d ≤ 65536 && zeroAt h (84 + 16 * d) 4 &&
    (hdrPourCount h d == 0 || hdrPourOff h d + 32 * hdrPourCount h d ≤ len))

/-- The slot-boundary table (R49). -/
def boundsOk (tbl : List Byte) (n : Nat) : Bool :=
  let off (i : Nat) := fieldAt tbl (8 * i) 4
  off 0 == 0 && (List.range n).all (fun i => zeroAt tbl (8 * i + 4) 4 && (i == 0 || off (i - 1) < off i))

/-- The group table's own fields (R50); member lists lie within the image. -/
def groupsOk (tbl : List Byte) (n len : Nat) : Bool :=
  (List.range n).all (fun i =>
    let size := fieldAt tbl (16 * i + 2) 2
    1 ≤ size && size ≤ 16384 && fieldAt tbl (16 * i + 4) 2 < size && zeroAt tbl (16 * i + 6) 2 &&
    fieldAt tbl (16 * i + 8) 8 + 2 * size ≤ len &&
    (List.range i).all (fun j => fieldAt tbl (16 * j) 2 != fieldAt tbl (16 * i) 2))

/-- A member list: reserved bits 0, this package at its rank (R50). -/
def membersOk (pkg rank size : Nat) (l : List Byte) : Bool :=
  (List.range size).all (fun i => fieldAt l (2 * i) 2 < 2 ^ 14) && fieldAt l (2 * rank) 2 == pkg

/-- A pour entry's own fields (R51) on a die, for a heat length. -/
def pourOk (part : Part) (die len : Nat) (b : List Byte) : Bool :=
  let p := parsePour b
  64 * p.offset < len && unitDie p.unit == die && inPartition part p.unit && p.desc % 64 == 0 &&
  (p.action != 0 || p.desc == 0) && p.flags < 8 && zeroAt b 19 1 && zeroAt b 26 6 &&
  (p.wait < 1024 || p.wait == 0xFFFF) && (p.wait == 0xFFFF || 1 ≤ p.waitCount) && (p.signal < 1024 || p.signal == 0xFFFF)

/-- R52: ascending offsets, no unit twice at one offset, at most 32 pours at one offset. -/
def orderOk : List Pour → List Pour → Bool
  | _, [] => true
  | same, p :: rest =>
    match same with
    | [] => orderOk [p] rest
    | q :: _ =>
      if q.offset = p.offset then
        same.length < 32 && same.all (fun x => x.unit != p.unit) && orderOk (p :: same) rest
      else q.offset < p.offset && orderOk [p] rest

/-- Check 6 of R54 on one die. -/
def gatedOk (ps : List Pour) : Bool :=
  let flags := (ps.filter (fun p => p.gated && p.signal != 0xFFFF)).map (fun p => p.signal)
  ps.all (fun p => p.wait == 0xFFFF || !flags.contains p.wait || p.gated)

/-! Sequencer entries (R53). -/

/-- Entries of a die that contexts other than `c` hold, as ranges. -/
def State.heldEntries (s : State) (c die : Nat) : List (Nat × Nat) :=
  ((List.range 16).filter (fun k => k ≠ c)).map (fun k => (s.ctx k).entries.getD die (0, 0))

/-- Free runs of a die's 65,536 entries with the given ranges taken: first entry and length. -/
def freeRuns (held : List (Nat × Nat)) : List (Nat × Nat) :=
  let sorted := sortBy Prod.fst (held.filter (fun r => r.2 ≠ 0))
  let (runs, last) := sorted.foldl (fun (acc : List (Nat × Nat) × Nat) r =>
    (if acc.2 < r.1 then acc.1 ++ [(acc.2, r.1 - acc.2)] else acc.1, r.1 + r.2)) ([], 0)
  if last < 65536 then runs ++ [(last, 65536 - last)] else runs

/-- The `i`-th place at which `n` entries fit. -/
def nthPlace : List (Nat × Nat) → Nat → Nat → Option Nat
  | [], _, _ => none
  | (a, l) :: rest, n, i =>
    let k := if l < n then 0 else l - n + 1
    if i < k then some (a + i) else nthPlace rest n (i - k)

def placeCount (runs : List (Nat × Nat)) (n : Nat) : Nat := runs.foldl (fun a r => a + (if r.2 < n then 0 else r.2 - n + 1)) 0

/-- Entries for `n` pours on a die: which of the places that fit is taken is open (log 6). -/
def State.allot (s : State) (c die n : Nat) : State × Option (Nat × Nat) :=
  if n = 0 then (s, some (0, 0))
  else
    let runs := freeRuns (s.heldEntries c die)
    let k := placeCount runs n
    if k = 0 then (s, none)
    else
      let (i, s) := s.free k
      (s, (nthPlace runs n i).map (fun a => (a, n)))

/-- Entries on every die. -/
def State.allotAll (s : State) (c : Nat) (counts : List Nat) : State × Option (List (Nat × Nat)) :=
  (counts.zip dies).foldl (fun (acc : State × Option (List (Nat × Nat))) (n, d) =>
    match acc.2 with
    | none => acc
    | some l => let (s, r) := acc.1.allot c d n; (s, r.map (fun x => l ++ [x]))) (s, some [])

/-! Tags and regions. -/

/-- The tags of a context are unbound and quarantined for 2,000,000 ns (R210, R212); what the link adders kept for its old mould
goes with them. -/
def State.unbindTags (s : State) (c : Nat) : State :=
  { s with
    nodes := s.nodes.filter (fun n => n.ctx ≠ c)
    rx := s.rx.filter (fun r => (lookupD (.quarantined 0) s.tags r.tag) ≠ .bound c)
    tags := s.tags.map (fun (k, x) => (k, if x = .bound c then .quarantined (s.ft + 2000000) else x)) }

/-- Global channel of a UU or STK unit id. -/
def channelOf (u : Nat) : Nat := 64 * unitDie u + unitInst u

/-- The region table that one SWEEP pour gives its unit (R229): shard descriptors of its table, epochs from their digest entries. -/
def State.readRegions (s : State) (c unit desc : Nat) : State × List Region :=
  match s.readVa (unitDie unit) c desc 64 with
  | (s, .error _) => (s, [])
  | (s, .ok d) =>
    let ch := channelOf unit
    (List.range (min 256 (fieldAt d 4 2))).foldl (fun (acc : State × List Region) i =>
      match acc.1.load (acc.1.channelAddr ch (fieldAt d 0 4 + 128 * i)) 128 with
      | (s, none) => (s, acc.2)
      | (s, some sh) =>
        match s.load (s.channelAddr ch (fieldAt sh 32 4)) 32 with
        | (s, none) => (s, acc.2)
        | (s, some e) => (s, acc.2 ++ [⟨unit, fieldAt d 0 4, i, c, fieldAt e 16 4, sh⟩])) (s, [])

/-- Every update unit of the context builds its region table anew, from its SWEEP pours alone (R229). -/
def State.buildRegions (s : State) (c : Nat) (pours : List Pour) : State :=
  let sweeps := pours.filter (fun p => unitCls p.unit = clsUU && p.action == 1)
  let units := sweeps.map (fun p => p.unit)
  let s := { s with regions := s.regions.filter (fun r => r.ctx ≠ c && !units.contains r.unit) }
  sweeps.foldl (fun s p => let (s, rs) := s.readRegions c p.unit p.desc; { s with regions := s.regions ++ rs }) s

/-! LOAD_MOULD. -/

/-- Settings that LOAD_MOULD returns to their defaults: the exchange settings of every tag (R224). -/
def isExchangeSetting (g : Setting) : Bool := unitCls g.unit == clsLADD

/-- The checks of R54 from 5 on, over the whole image, and the load itself. -/
def State.loadTables (s : State) (o : OutCmd) (c : Nat) (image : List Byte) : State :=
  let x := s.ctx c
  let len := 1024 * fieldAt image 16 4
  let raw := dies.map (fun d => (List.range (hdrPourCount image d)).map (fun i => (image.drop (hdrPourOff image d + 32 * i)).take 32))
  let pours := raw.map (fun l => l.map parsePour)
  if !(raw.zip dies).all (fun (l, d) => l.all (pourOk x.part d len)) || !pours.all (orderOk []) then
    s.complete o stBadParam 0 0
  else if !pours.all gatedOk then s.complete o stBadParam 0 0
  else
    match s.allotAll c (pours.map List.length) with
    | (s, none) => s.complete o stNoResource 0 0
    | (s, some entries) =>
      let m : Mould :=
        { header := image.take 256
          bounds := entriesAt (image.drop (fieldAt image 32 8)) 0 8 (fieldAt image 40 4) |>.map (· % 2 ^ 32)
          groups := (List.range (fieldAt image 68 4)).map (fun i =>
            let g := image.drop (fieldAt image 248 8 + 16 * i)
            { num := fieldAt g 0 2, rank := fieldAt g 4 2, members := entriesAt (image.drop (fieldAt g 8 8)) 0 2 (fieldAt g 2 2) })
          pours := pours }
      if (List.range 20).any (fun i => 100 * popCount 64 (s.dir (dirOf i)).retired > 64 * m.margin i) then
        s.complete o stBridgeDegraded 0 0
      else
        let (heat, s) := s.free 0
        let s := s.mend (fun w => match w with
          | .plan d e => let r := entries.getD d (0, 0); r.1 ≤ e && e < r.1 + r.2
          | _ => false)
        let s := s.setCtx c (fun x => { x with
          mould := some m, entries := entries, st := .loaded, lastCode := 0
          heatUnits := fieldAt image 16 4
          holdDefault := if fieldAt image 20 2 = 0 then 4 else fieldAt image 20 2
          overN := if fieldAt image 22 2 = 0 then 64 else fieldAt image 22 2
          commit := none, heat := heat % 2 ^ 64, gen := 0, flags := [], handed := [], resume := none, skipBelow := 0, verdict := none
          settings := x.settings.filter (fun g => !isExchangeSetting g) })
        let s := ((s.unbindTags c).clearEngines c).buildRegions c pours.flatten
        let total := pours.foldl (fun a l => a + l.length) 0
        s.complete o stOk total (bitsAt (dies.filter (fun d => hdrPourCount image d ≠ 0)))

/-- LOAD_MOULD (R54): a load that fails leaves the context as it was, and one that succeeds discards its pending commit (R71). -/
def State.doLoadMould (s : State) (o : OutCmd) (c va : Nat) : State :=
  let x := s.ctx c
  if x.st ≠ .empty && x.st != .loaded then s.complete o stBadState 0 0
  else
    match s.readVa x.home c va 256 with
    | (s, .error e) => s.complete o e.code 0 0
    | (s, .ok h) =>
      if !headerOk h then s.complete o stBadParam 0 0
      else
        let slots := fieldAt h 40 4
        let groups := fieldAt h 68 4
        match State.readMany x.home c [(va + fieldAt h 32 8, 8 * slots), (va + fieldAt h 248 8, 16 * groups)] s with
        | (s, .error e) => s.complete o e.code 0 0
        | (s, .ok tbls) =>
          let st := tbls.getD 0 []
          let gt := tbls.getD 1 []
          if !boundsOk st slots || !groupsOk gt groups (hdrLen h) then s.complete o stBadParam 0 0
          else
            match State.readMany x.home c ((List.range groups).map (fun i =>
                (va + fieldAt gt (16 * i + 8) 8, 2 * fieldAt gt (16 * i + 2) 2))) s with
            | (s, .error e) => s.complete o e.code 0 0
            | (s, .ok lists) =>
              if !(lists.zip (List.range groups)).all (fun (l, i) =>
                  membersOk s.pkgId (fieldAt gt (16 * i + 4) 2) (fieldAt gt (16 * i + 2) 2) l) then s.complete o stBadParam 0 0
              else if fieldAt h 4 2 > Config.abiLevel then s.complete o stBadParam 0 0
              else
                match s.readVa x.home c va (hdrLen h) with
                | (s, .error e) => s.complete o e.code 0 0
                | (s, .ok image) =>
                  if sha384 (overlay image 200 (List.replicate 48 0#8)) ≠ (image.drop 200).take 48 then s.complete o stBadParam 0 0
                  else s.loadTables o c image

def execLoadMould (t : Nat) (c : Cmd) (va : Nat) (s : State) : Host.Outcome State Fault Refusal :=
  .next ((s.advance t).command c 0x01 (fun o s => s.doLoadMould o (cmdTarget c) va))

/-! ARM_AT and HALT. -/

/-- The mould's FABRIC flag (R48). -/
def Ctx.fabric (x : Ctx) : Bool := match x.mould with | some m => bitOf (fieldAt m.header 44 4) 0 | none => false

/-- The FT state is LOCKED or HOLDOVER. -/
def State.ftHeldOrLocked (s : State) : Bool := s.ftu.lock == .locked || s.ftu.lock == .holdover

/-- The mould names a disabled unit (R368). -/
def State.namesDisabled (s : State) (c : Nat) : Bool :=
  match (s.ctx c).mould with
  | some m => m.pours.any (fun l => l.any (fun p => (s.unit p.unit).disabled))
  | none => false

/-- A PLAN timing parameter (R72). -/
def isTiming (g : Setting) : Bool := unitCls g.unit == clsPLAN && (g.param == 1 || g.param == 2 || g.param == 3)

/-- A commit that holds a PLAN timing parameter is pending. -/
def Ctx.timingPending (x : Ctx) : Bool := match x.commit with | some (_, l) => l.any isTiming | none => false

/-- ARM_AT (R63, R211, R368). -/
def State.doArmAt (s : State) (o : OutCmd) (c ftStart heatBase : Nat) (localArm : Bool) : State :=
  let x := s.ctx c
  if x.st ≠ .loaded || x.timingPending then s.complete o stBadState 0 0
  else if ftStart % 1024 ≠ 0 || ftStart < s.ft + 20480 then s.complete o stBadParam 0 0
  else if x.fabric && !localArm && !s.ftHeldOrLocked then s.complete o stBadState 0 0
  else if s.namesDisabled c then s.complete o stNoResource 0 0
  else
    let s := s.setCtx c (fun x => { x with
      st := .armed, armFt := ftStart, heatBase := heatBase, heat := heatBase, localArm := localArm, gen := (x.gen + 1) % 256
      flags := [], stepFlags := 0, resume := none, skipBelow := 0, handed := [], verdict := none, decided := none })
    let s := (s.freshEngines c).wakeDies c
    s.complete o stOk ((s.ctx c).gen) 0

def execArmAt (t : Nat) (c : Cmd) (ftStart heatBase : Nat) (localArm : Bool) (s : State) : Host.Outcome State Fault Refusal :=
  .next ((s.advance t).command c 0x02 (fun o s => s.doArmAt o (cmdTarget c) ftStart heatBase localArm))

/-- Change an accepted command's own parameters. -/
def State.amend (s : State) (o o' : OutCmd) : State :=
  s.setRing (slotOf o.ring) (fun g => { g with out := g.out.map (fun y => if y = o then o' else y) })

/-- HALT takes effect (R66, R71): no pour is dispatched, the pours handed over of heat `first` and later are withdrawn, the pending commit
is discarded; `heat` is the heat number its reply names. At a heat start `first` is the heat that does not start, so a pour of the
ended heat that is still inside its hold window may launch. DESIGN CHOICE (log 69): PLAN_HEAT_NUM keeps the number of the ended heat.
DESIGN CHOICE (log 99): a PREEMPT that is pending when a DIVERGED compare halts the context (R251) ends with REPLICA_DIVERGED and records no
resume point. -/
def State.haltTakes (s : State) (c heat first : Nat) : State :=
  let s := (s.setCtx c (fun x => { x with st := .halting, commit := none, haltPending := false, preempt := none })).withdrawFrom c first
  let s := match s.outOf c 0x12 with
    | some o => s.complete o stReplicaDiverged heat 0
    | none => s
  match s.outOf c 0x03 with
  | some o => s.amend o { o with a := heat, b := 1 }
  | none => s

/-- HALT (R66, R376). -/
def State.doHalt (s : State) (o : OutCmd) (c : Nat) : State :=
  let x := s.ctx c
  if x.haltPending || x.preempt.isSome || x.preemptTaken then s.complete o stBadState 0 0
  else
    match x.st with
    | .running => s.setCtx c (fun x => { x with haltPending := true })
    | .armed => s.haltTakes c x.heat 0
    | .faulted => (s.closeWindows c).haltTakes c x.heat 0
    | _ => s.complete o stBadState 0 0

def execHalt (t : Nat) (c : Cmd) (s : State) : Host.Outcome State Fault Refusal :=
  .next ((s.advance t).command c 0x03 (fun o s => s.doHalt o (cmdTarget c)))

/-- No pour of a context waits at a unit. -/
def State.holdsNone (s : State) (c : Nat) : Bool := s.units.all (fun e => e.2.queue.all (fun h => h.ctx ≠ c))

/-- HALT_COMPLETE: the launched pours have finished, and none of the ended heat waits in its hold window (log 69); the context is LOADED
(R66, R111, R168). -/
def execHaltComplete (t ctx : Nat) (s : State) : Host.Outcome State Fault Refusal :=
  let s := s.advance t
  if (s.ctx ctx).st ≠ .halting || (s.ctx ctx).destroying || !s.quiet ctx || !s.holdsNone ctx then .next s
  else
    let s := if (s.ctx ctx).lastCode = 0 then s else s.closeWindows ctx
    let s := (s.loaded ctx).clearEngines ctx
    match s.outOf ctx 0x03 with
    | some o => .next (s.complete o stOk (if o.b = 1 then o.a else (s.ctx ctx).heat) 0)
    | none => .next s

/-! STAGE and COMMIT_AT. -/

/-- A setting's range (R72, R224, R235, R240, R383): FP32 values in bits 31:0. -/
def settingOk (cls param v : Nat) : Bool :=
  let f := valOf .fp32 v
  let small := v < 2 ^ 32
  if cls = clsPLAN then
    match param with
    | 1 => 1 ≤ v && v ≤ 4194304
    | 2 => v ≤ 65535
    | 3 => v ≤ 65535
    | 4 => true
    | _ => false
  else if cls = clsCMDP then
    match param with
    | 0x100 => v % 262144 == 0
    | 0x101 => 1 ≤ v && v ≤ 1048576
    | 0x102 => 1 ≤ v && v ≤ 65536
    | 0x103 => 1 ≤ v && v ≤ 4096
    | 0x104 => v % 4096 == 0
    | _ => false
  else if cls = clsLADD then
    if 0x1000 ≤ param && param < 0x2000 then 1 ≤ v && v ≤ 16
    else if 0x2000 ≤ param && param < 0x3000 then v ≤ 7
    else false
  else if cls = clsUU then
    if param = 0xF000 then true
    else
      match param / 256 with
      | 1 => v ≤ 4
      | 2 => small && vFinite f && !vLt f vZero
      | 3 => small && !vLt f vZero && vLt f vOne
      | 4 => small && !vLt f vZero && vLt f vOne
      | 5 => small && vFinite f && vLt vZero f
      | 6 => small && vFinite f && !vLt f vZero
      | 7 => small && vFinite f
      | 8 => small && !vLt f vZero && vLt f vOne
      | 9 => v < 4
      | 10 => small && vFinite f && vLt vZero f
      | _ => false
  else false

/-- One setting of STAGE is allowed (R67, R224). -/
def State.itemOk (s : State) (c : Nat) (g : StageItem) : Bool :=
  inPartition (s.ctx c).part g.unit && settingOk (unitCls g.unit) g.param (g.value % 2 ^ 64) &&
  (unitCls g.unit != clsLADD ||
    (match lookupD (.quarantined 0) s.tags (g.param % 4096) with | .bound k => k == c | _ => true))

/-- PLAN and CMDP parameters are one setting of the context, whichever die's unit names them (R72, R383). -/
def stageKey (g : StageItem) : Setting :=
  let cls := unitCls g.unit
  ⟨if cls = clsPLAN || cls == clsCMDP then unitId 0 cls 0 else g.unit, g.param, g.value % 2 ^ 64⟩

/-- A setting replaces the one with its unit and parameter. -/
def putSetting (l : List Setting) (g : Setting) : List Setting :=
  l.filter (fun y => !(y.unit = g.unit && y.param == g.param)) ++ [g]

/-- STAGE (R67). -/
def State.doStage (s : State) (o : OutCmd) (c : Nat) (items : List StageItem) : State :=
  if items.isEmpty || items.length > 28 || !items.all (s.itemOk c) then s.complete o stBadParam 0 0
  else
    let staged := items.foldl (fun l g => putSetting l (stageKey g)) (s.ctx c).stage
    if staged.length > 4096 then s.complete o stNoResource 0 0
    else (s.setCtx c (fun x => { x with stage := staged })).complete o stOk staged.length 0

def execStage (t : Nat) (c : Cmd) (items : List StageItem) (s : State) : Host.Outcome State Fault Refusal :=
  .next ((s.advance t).command c 0x04 (fun o s => s.doStage o (cmdTarget c) items))

/-- `t` is a heat start of the context that has not passed (R72). -/
def Ctx.isHeatStart (x : Ctx) (t : Nat) : Bool := x.nextHeat.2 ≤ t && (t - x.nextHeat.2) % x.heatLen == 0

/-- Heat number of the heat that starts at `t`. -/
def Ctx.heatAt (x : Ctx) (t : Nat) : Nat := x.nextHeat.1 + (t - x.nextHeat.2) / x.heatLen

/-- Tensor group of a shard descriptor. -/
def shardGroup (d : List Byte) : Nat := fieldAt d 3 1

/-- The update units of a context that hold a shard of a tensor group. -/
def State.groupUnits (s : State) (c g : Nat) : List Nat :=
  ((s.regions.filter (fun r => r.ctx = c && shardGroup r.desc == g)).map (fun r => r.unit)).eraseDups

/-- The tag that a link adder pour's descriptor names, by its action. -/
def tagOffset (action : Nat) : Option Nat :=
  match action with
  | 1 => some 20 | 2 => some 20 | 3 => some 24 | 0x10 => some 38 | 0x20 => some 8 | 0x21 => some 8 | _ => none

/-- Bytes of the descriptor of a link adder's action (chapter 08): 128 for the referee's and the barrier's, else 64. -/
def adderDescLen (action : Nat) : Nat := if action = 0x20 || action == 0x21 then 128 else 64

/-- The adders whose pours in the mould name a bucket's tag (R72). DESIGN CHOICE (log 98): the spec does not say how COMMIT_AT knows which
adders a bucket's tree uses; here it reads the descriptors of the mould's link adder pours as they lie in memory then, and one that cannot
be read names no bucket. -/
def State.bucketAdders (s : State) (c tag : Nat) : List Nat :=
  match (s.ctx c).mould with
  | none => []
  | some m =>
    ((m.pours.flatten.filter (fun p => unitCls p.unit = clsLADD &&
      (match tagOffset p.action with
       | some off =>
         (match (s.readVa (unitDie p.unit) c p.desc (adderDescLen p.action)).2 with
          | .ok d => fieldAt d off 2 % 4096 == tag
          | .error _ => false)
       | none => false))).map (fun p => p.unit)).eraseDups

/-- The consistency rules of R72, R235, R240 and R383 over a staged set. R72 binds T to the heat starts of an ARMED or RUNNING context and
frees it for a LOADED one. DESIGN CHOICE (log 70): a PLAN timing parameter for a FAULTED or HALTING context, which runs no heat, passes
at any T as for a LOADED one. -/
def State.setOk (s : State) (c t : Nat) (l : List Setting) : Bool :=
  let x := s.ctx c
  let same (units : List Nat) (g : Setting) : Bool := units.all (fun u => l.any (fun y => y.unit = u && y.param == g.param && y.value == g.value))
  l.all (fun g =>
    let cls := unitCls g.unit
    if cls = clsPLAN then
      if g.param = 4 then x.st == .loaded
      else
        x.st != .empty && (!x.active || x.isHeatStart t) &&
        (g.param != 1 || (match x.mould with
          | some m => m.pours.all (fun ps => ps.all (fun p => 64 * p.offset < 1024 * g.value)) | none => true)) &&
        (g.param != 3 || !x.active || x.heatAt t % x.overN == 0)
    else if cls = clsCMDP then x.st == .loaded
    else if cls = clsUU then
      if g.param = 0xF000 then x.st == .loaded
      else
        let us := s.groupUnits c (g.param % 256)
        (g.param / 256 != 1 || !x.active || g.value == (x.setting g.unit g.param).getD 2) &&
        (!us.contains g.unit || same us g)
    else same (s.bucketAdders c (g.param % 4096)) g)

/-- COMMIT_AT without CANCEL (R68, R72, R376). -/
def State.doCommitAt (s : State) (o : OutCmd) (c t : Nat) : State :=
  let x := s.ctx c
  if x.commit.isSome then s.complete o stBadState 0 0
  else if t % 64 ≠ 0 || t < s.ft + 20480 || (x.active && x.fabric && !s.ftHeldOrLocked) then s.complete o stBadParam 0 0
  else if !s.setOk c t x.stage then s.complete o stConfigInconsistent 0 0
  else (s.setCtx c (fun x => { x with commit := some (t, x.stage), stage := [] })).complete o stOk t 0

def execCommitAt (t : Nat) (c : Cmd) (applyAt : Nat) (s : State) : Host.Outcome State Fault Refusal :=
  .next ((s.advance t).command c 0x05 (fun o s => s.doCommitAt o (cmdTarget c) applyAt))

/-- COMMIT_AT with CANCEL (R70): its reply carries the T of the discarded commit. -/
def State.doCommitCancel (s : State) (o : OutCmd) (c : Nat) : State :=
  match (s.ctx c).commit with
  | none => s.complete o stBadState 0 0
  | some (t, _) =>
    if s.ft + 10240 > t then s.complete o stBadState 0 0
    else (s.setCtx c (fun x => { x with commit := none })).complete o stOk t 0

def execCommitAtCancel (t : Nat) (c : Cmd) (s : State) : Host.Outcome State Fault Refusal :=
  .next ((s.advance t).command c 0x05 (fun o s => s.doCommitCancel o (cmdTarget c)))

/-- One setting takes effect (R69, R72, R240). -/
def State.applySetting (s : State) (c : Nat) (g : Setting) : State :=
  let cls := unitCls g.unit
  if cls = clsPLAN then
    s.setCtx c (fun x =>
      match g.param with
      | 1 => { x with heatUnits := g.value }
      | 2 => { x with holdDefault := if g.value = 0 then 4 else g.value }
      | 3 => { x with overN := if g.value = 0 then 64 else g.value }
      | 4 => { x with stepCount := g.value }
      | _ => x)
  else if cls = clsUU && g.param == 0xF000 then
    { s with regions := s.regions.map (fun r => if r.unit = g.unit then { r with epoch := g.value % 2 ^ 32 } else r) }
  else s.setCtx c (fun x => { x with settings := putSetting x.settings g })

/-- Pours handed over and due before a commit's T keep the default hold and the OVER of their due time (R51, R62, R69). -/
def State.keepOld (s : State) (c t : Nat) : State :=
  let x := s.ctx c
  let old (h : Held) : Bool := h.ctx = c && h.due < t
  let fix (h : Held) : Held :=
    if old h then
      { h with pour := { h.pour with
        hold := if h.pour.hold = 0 then x.holdDefault else h.pour.hold
        flags := if h.pour.overLast && (h.heat + 1) % x.overN == 0 then setBits h.pour.flags 2 2 0 else h.pour.flags } }
    else h
  let passed (h : Held) : Bool := old h && h.pour.overLast && (h.heat + 1) % x.overN != 0
  { s with units := s.units.map (fun p : Nat × UnitSt =>
    (p.1, { p.2 with queue := (p.2.queue.filter (fun h => !passed h)).map fix })) }

/-- A pending commit whose T has come at an FT applies (R44, R69). -/
def State.applyBy (s : State) (c ft : Nat) : State :=
  match (s.ctx c).commit with
  | none => s
  | some (t, l) =>
    if ft < t then s
    else l.foldl (fun s g => s.applySetting c g) ((s.keepOld c t).setCtx c (fun x => { x with commit := none }))

def State.applyDue (s : State) (c : Nat) : State := s.applyBy c s.ft

/-- COMMIT_APPLY. -/
def execCommitApply (t ctx : Nat) (s : State) : Host.Outcome State Fault Refusal := .next ((s.advance t).applyDue ctx)

end Sys2Proof.Machine
end

