-- ==== Sys2Proof/Machine/Matrix.lean ====
section
/-!
DEFINITION. Matrix engines (R97 to R125): the rows PRODUCT, DRAIN and DRAIN_QUEUE_RESUME.
-/
namespace Sys2Proof.Machine

/-! Descriptors. -/

/-- An operand descriptor (R103). -/
structure Opd where
  off : Nat
  soff : Nat
  stride : Nat
  sstride : Nat
  fmt : Fmt
  scaled : Bool
  orient : Bool
  deriving DecidableEq, Repr

/-- Read an operand descriptor; none when a field fails R75 or R103. -/
def parseOpd (b : List Byte) : Option Opd :=
  match fmtOf (fieldAt b 16 1 % 16) with
  | none => none
  | some f =>
    let flag := bitOf (fieldAt b 16 1) 4
    let o : Opd := { off := fieldAt b 0 4, soff := fieldAt b 4 4, stride := fieldAt b 8 4, sstride := fieldAt b 12 4, fmt := f
                     scaled := fmtScaled f flag, orient := bitOf (fieldAt b 16 1) 5 }
    if o.off < 2 ^ 30 && o.off % 64 == 0 && o.soff < 2 ^ 30 && o.stride % 64 == 0 && 64 ≤ o.stride && o.stride ≤ 16777216 &&
       fieldAt b 16 1 < 64 && zeroAt b 17 15 && fmtFlagOk f flag &&
       (!o.scaled || (o.soff % 64 == 0 && 1 ≤ o.sstride && o.sstride ≤ 16777216)) then some o else none

/-- Input classes (R97). -/
inductive InClass where
  | fp64 | fp32 | half | byte | int8 | mx
  deriving DecidableEq, Repr

def classOfFmt : Fmt → Option InClass
  | .fp64 => some .fp64 | .fp32 => some .fp32 | .bf16 => some .half | .fp16 => some .half | .e4m3 => some .byte
  | .e5m2 => some .byte | .int8 => some .int8 | .e3m2 => some .mx | .e2m3 => some .mx | .e2m1 => some .mx
  | .int32 => none | .gq8 => none

/-- Kp, chunk length and accumulator format code of a class (R97). -/
def InClass.kp : InClass → Nat
  | .fp64 => 16 | .fp32 => 32 | .half => 128 | .byte => 256 | .int8 => 256 | .mx => 512
def InClass.chunk : InClass → Nat
  | .fp64 => 8 | .fp32 => 8 | _ => 32
def InClass.acc : InClass → Nat
  | .fp64 => 1 | .int8 => 2 | _ => 0
/-- Event class of a slice cycle (R415). -/
def InClass.event : InClass → Nat
  | .half => 0 | .byte => 1 | .int8 => 1 | .mx => 2 | .fp32 => 3 | .fp64 => 4

/-- Rows and columns of a tile shape (R102). -/
def shapeM (sh : Nat) : Nat := if sh = 2 then 64 else 128
def shapeN (sh : Nat) : Nat := match sh with | 1 => 64 | 3 => 256 | _ => 128

/-- The accumulator format of a code. -/
def accFmt (c : Nat) : Fmt := match c with | 1 => .fp64 | 2 => .int32 | _ => .fp32

/-- Segments of a tile (R109). -/
def tileSegs (sh fmt : Nat) : Nat :=
  shapeM sh * shapeN sh * (match fmt with | 1 => 16 | 2 => 4 | _ => 8) / 32768

/-- A drain descriptor (R119). -/
structure Drn where
  off : Nat
  soff : Nat
  stride : Nat
  sstride : Nat
  fmt : Fmt
  scaled : Bool
  mode : Nat
  dest : Nat
  fuse : Nat
  bcast : Nat
  tid : Nat
  base : Nat
  size0 : Nat
  rows : Nat
  cols : Nat
  deriving DecidableEq, Repr

/-- Read a drain descriptor; none when a field fails R75, R91, R119 or R121, or when mode 2 meets an element index of 2^40 or more (R95). -/
def parseDrn (b : List Byte) (sh acc : Nat) : Option Drn :=
  let fc := fieldAt b 16 1
  match fmtOf (fc % 16) with
  | none => none
  | some f =>
    let d : Drn := { off := fieldAt b 0 4, soff := fieldAt b 4 4, stride := fieldAt b 8 4, sstride := fieldAt b 12 4, fmt := f
                     scaled := fmtScaled f (bitOf fc 4), mode := bitsOf fc 6 5, dest := fieldAt b 17 1, fuse := fieldAt b 18 1
                     bcast := fieldAt b 19 1, tid := fieldAt b 20 4, base := fieldAt b 24 8, size0 := fieldAt b 32 4
                     rows := fieldAt b 36 2, cols := fieldAt b 38 2 }
    if d.off < 2 ^ 30 && d.off % 64 == 0 && d.soff < 2 ^ 30 && d.stride % 64 == 0 && 64 ≤ d.stride && d.stride ≤ 16777216 &&
       fmtFlagOk f (bitOf fc 4) && d.mode < 3 && fc < 128 && 1 ≤ d.dest && d.dest < 4 && d.fuse < 3 && d.bcast < 3 &&
       d.tid < 2 ^ 24 && d.base < 2 ^ 40 && 1 ≤ d.size0 && 1 ≤ d.rows && d.rows ≤ shapeM sh && 1 ≤ d.cols && d.cols ≤ shapeN sh &&
       (d.mode != 2 || d.base + (d.cols - 1) + (d.rows - 1) * d.size0 < 2 ^ 40) && zeroAt b 40 24 && (acc == 2 || (f != .gq8 && f != .int32)) &&
       (!d.scaled || (d.soff % 64 == 0 && 1 ≤ d.sstride && d.sstride ≤ 16777216)) then some d else none

/-- Element bytes and scale bytes of one drained row (R121). -/
def Drn.padCols (d : Drn) : Nat := if d.scaled || fmtWidth d.fmt < 8 then ceilDiv d.cols 32 * 32 else d.cols
def Drn.elemLen (d : Drn) : Nat := elemBytes d.fmt d.padCols
def Drn.scaleLen (d : Drn) : Nat := if d.scaled then ceilDiv d.cols 32 else 0
/-- ROW_BYTES: a row in the data queue (R123). -/
def Drn.rowBytes (d : Drn) : Nat := 64 * ceilDiv (d.elemLen + d.scaleLen) 64

/-- A product descriptor (R102). -/
structure Prod where
  shape : Nat
  acc : Nat
  seg : Nat
  cont : Bool
  drains : Bool
  retain : Bool
  k : Nat
  a : Option Opd
  b : Option Opd
  out : Option Drn
  fuse : Option Opd
  deriving DecidableEq, Repr

/-- The FUSE operand descriptor as it is checked: with FUSE_BCAST 1 its ROW_STRIDE is ignored, whatever it holds (R119). -/
def fuseBytes (bcast : Nat) (b : List Byte) : List Byte := if bcast = 1 then b.take 8 ++ leBytes 4 64 ++ b.drop 12 else b

/-- Read a product descriptor for an action: which parts are read depends on it (R102). -/
def parseProd (action : Nat) (d : List Byte) : Prod :=
  let fl := fieldAt d 3 1
  let drains := action = 2 || bitOf fl 1
  { shape := fieldAt d 0 1, acc := fieldAt d 1 1, seg := fieldAt d 2 1, cont := bitOf fl 0, drains := drains, retain := bitOf fl 2
    k := fieldAt d 4 4
    a := if action = 2 then none else parseOpd (d.drop 32)
    b := if action = 2 then none else parseOpd (d.drop 64)
    out := if drains then parseDrn (d.drop 96) (fieldAt d 0 1) (fieldAt d 1 1) else none
    fuse := if drains && fieldAt d 114 1 != 0 then parseOpd (fuseBytes (fieldAt d 115 1) (d.drop 160)) else none }

/-- The formats a fused operand may have (R118). -/
def fuseFmtOk (f : Fmt) : Bool := match f with
  | .fp64 => true | .fp32 => true | .bf16 => true | .fp16 => true | .e4m3 => true | .e5m2 => true | .int8 => true | .int32 => true
  | _ => false

/-- Stored rows of an operand and elements per row (R104): `isA`, the shape's extents and K. DESIGN CHOICE (log 71): the half of each
128-element block that the transpose stage discards of an operand whose non-K extent is 64 (R114) is not among the bytes read (R106). -/
def Opd.extent (o : Opd) (isA : Bool) (sh k : Nat) : Nat × Nat :=
  if isA then (if o.orient then (k, shapeM sh) else (shapeM sh, k))
  else (if o.orient then (shapeN sh, k) else (k, shapeN sh))

/-- Rows and elements per row of a fused operand (R119). -/
def fuseExtent (bcast sh : Nat) : Nat × Nat :=
  match bcast with | 1 => (1, shapeN sh) | 2 => (shapeM sh, 1) | _ => (shapeM sh, shapeN sh)

/-- Every byte of an operand's rows lies in the partition's banks of the die. -/
def Opd.inPart (o : Opd) (p : Part) (die rows n : Nat) : Bool :=
  (List.range rows).all (fun r => inBanks p die (o.off + r * o.stride) (elemBytes o.fmt n) &&
    (!o.scaled || inBanks p die (o.soff + r * o.sstride) (ceilDiv n 32)))

/-- The input class of a product, when both operands have it (R98). -/
def Prod.cls (d : Prod) : Option InClass :=
  match d.a, d.b with
  | some a, some b => if classOfFmt a.fmt = classOfFmt b.fmt then classOfFmt a.fmt else none
  | _, _ => none

/-- The fields of a fetched product descriptor are as R75, R98, R102 to R105, R109, R118 and R119 require. -/
def prodFieldsOk (action : Nat) (raw : List Byte) : Bool :=
  let d := parseProd action raw
  let n := tileSegs d.shape d.acc
  d.shape < 4 && d.acc < 3 && d.seg % n == 0 && d.seg + n ≤ 64 && fieldAt raw 3 1 < 8 && zeroAt raw 8 24 &&
  (action == 2 ||
    (1 ≤ d.k && d.k ≤ 16777216 && (match d.cls with | some c => c.acc == d.acc | none => false) &&
     (match d.a, d.b with
      | some a, some b => !(a.scaled && a.orient) && (!b.scaled || b.orient)
      | _, _ => false))) &&
  (!d.drains || (d.out.isSome &&
    (if fieldAt raw 114 1 = 0 then zeroAt raw 160 32
     else match d.fuse with | some f => fuseFmtOk f.fmt && !f.scaled && !f.orient | none => false)))

/-- Every byte the pour reads or writes lies in the context's banks (R106). -/
def prodBytesOk (p : Part) (die action : Nat) (raw : List Byte) : Bool :=
  let d := parseProd action raw
  (action == 2 ||
    (match d.a, d.b with
     | some a, some b =>
       let (ra, na) := a.extent true d.shape d.k
       let (rb, nb) := b.extent false d.shape d.k
       a.inPart p die ra na && b.inPart p die rb nb
     | _, _ => true)) &&
  (match d.out with
   | none => true
   | some o =>
     (List.range o.rows).all (fun r =>
       (!bitOf o.dest 0 || inBanks p die (o.off + r * o.stride) o.elemLen) &&
       (!o.scaled || !(bitOf o.dest 0 || o.fmt == .gq8) || inBanks p die (o.soff + r * o.sstride) o.scaleLen)) &&
     (match d.fuse with
      | some f => let (r, n) := fuseExtent o.bcast d.shape; f.inPart p die r n
      | none => true))

/-- The check of a fetched descriptor (R106): OK, BAD_PARAM or TRANSLATION_FAULT. -/
def prodCheck (p : Part) (die action : Nat) (raw : List Byte) : Nat :=
  if !prodFieldsOk action raw then stBadParam
  else if !prodBytesOk p die action raw then stTranslationFault
  else stOk

/-! Reading operands. -/

/-- Byte strings of one length as numbers (element 0 in the low bits); none on an uncorrectable word (R112). -/
def State.loadEach (n : Nat) : List Nat → State → State × Option (List Nat)
  | [], s => (s, some [])
  | a :: rest, s =>
    match s.load a n with
    | (s, none) => (s, none)
    | (s, some bs) =>
      match State.loadEach n rest s with
      | (s, some more) => (s, some (leNat bs :: more))
      | (s, none) => (s, none)

/-- The stored rows of an operand. -/
def State.loadRows (s : State) (die off stride n rows : Nat) : State × Option (List Nat) :=
  State.loadEach n ((List.range rows).map (fun r => wsAt die (off + r * stride))) s

/-- An operand in memory: its rows and its scale rows. -/
structure Loaded where
  rows : List Nat
  scales : List Nat
  deriving DecidableEq, Repr

def State.loadOpd (s : State) (die : Nat) (o : Opd) (rows n : Nat) : State × Option Loaded :=
  match s.loadRows die o.off o.stride (elemBytes o.fmt n) rows with
  | (s, none) => (s, none)
  | (s, some rs) =>
    if !o.scaled then (s, some ⟨rs, []⟩)
    else
      match s.loadRows die o.soff o.sstride (ceilDiv n 32) rows with
      | (s, none) => (s, none)
      | (s, some sc) => (s, some ⟨rs, sc⟩)

/-- The exact value of stored element (r, c) of an operand (R81, R103). -/
def Loaded.val (l : Loaded) (o : Opd) (r c : Nat) : Val :=
  let w := fmtWidth o.fmt
  let v := valOf o.fmt (l.rows.getD r 0 >>> (c * w) % 2 ^ w)
  if o.scaled then scaledBy (l.scales.getD r 0 >>> (c / 32 * 8) % 256) v else v

/-- A(m, k) and B(k, n) (R104). -/
def Loaded.a (l : Loaded) (o : Opd) (m k : Nat) : Val := if o.orient then l.val o k m else l.val o m k
def Loaded.b (l : Loaded) (o : Opd) (k n : Nat) : Val := if o.orient then l.val o n k else l.val o k n

/-! Run time (R113 to R116, R122). -/

/-- Twice the reuse factor f (R114). -/
def reuse2 (sh : Nat) (ta tb : Bool) : Nat :=
  match sh with
  | 0 => 4
  | 3 => 3
  | 2 => if ta then 8 else 6
  | _ => if tb then 4 else 3

/-- Row bytes per cycle w + s (R114). -/
def rowBytesPer (c : InClass) (a b : Opd) : Nat :=
  match c with
  | .fp64 => 128
  | .fp32 => 128
  | .half => 256
  | .int8 => 256
  | .byte => if a.scaled || b.scaled then 264 else 256
  | .mx => if a.fmt = .e2m1 && b.fmt == .e2m1 then 272 else 400

/-- Slice cycles P and P′ (R114, R115). -/
def sliceP (sh : Nat) : Nat := match sh with | 3 => 256 | 2 => 64 | _ => 128
def sliceP' (sh : Nat) (c : InClass) (a b : Opd) : Nat :=
  let d2 := reuse2 sh a.orient b.orient * rowBytesPer c a b
  if d2 ≤ 1568 then sliceP sh else ceilDiv (sliceP sh * d2) 1568

/-- Cycles d that one row of 128 columns takes in a drain (R122). DEDUCED (log 92): the row's bytes are those of 128 columns, and of
their scale bytes, whatever the shape and COLS_VALID, and so are those of a GQ8 row, whose scale bytes are read and not written. -/
def rowCycles (o : Drn) (fuse : Option Opd) : Nat :=
  let row := elemBytes o.fmt 128 + (if o.scaled then 4 else 0)
  max (if bitOf o.dest 0 then ceilDiv row 392 else 1)
    (max (match fuse with | some f => if o.bcast = 0 then ceilDiv (elemBytes f.fmt 128) 784 else 1 | none => 1) 1)

/-- C of R116: the passes of 128 columns. -/
def passes (sh : Nat) : Nat := if shapeN sh = 256 then 2 else 1

/-- Cycles of the drain of a pour (R116, R122). -/
def drainCycles (sh : Nat) (o : Drn) (fuse : Option Opd) : Nat := passes sh * shapeM sh * rowCycles o fuse + 32

/-- T of a pour in arithmetic cycles (R116). -/
def prodCycles (action : Nat) (d : Prod) : Nat :=
  let dr := match d.out with | some o => drainCycles d.shape o d.fuse | none => 0
  match action, d.cls, d.a, d.b with
  | 1, some c, some a, some b =>
    256 + (if a.orient || b.orient then 64 else 0) + ceilDiv d.k c.kp * sliceP' d.shape c a b + dr
  | _, _, _, _ => 64 + dr

/-- The cycles of a pour before its drain phase (R116). -/
def coreCycles (action : Nat) (d : Prod) : Nat :=
  prodCycles action d - (match d.out with | some o => drainCycles d.shape o d.fuse | none => 0)

/-! The working-store share of the vector engine (R164). -/

/-- Read and write bytes per cycle that a drain leaves (R164). -/
def drainShare (o : Drn) : Nat × Nat := (if o.fuse = 0 then 784 else 0, if bitOf o.dest 0 then 0 else 392)

/-- What the phases of a pour leave from its cycle `at'` on: cycles, read bytes and write bytes per cycle. -/
def sharePhases (action : Nat) (d : Prod) (at' : Nat) : List (Nat × Nat × Nat) :=
  let (first, slice, rate) : Nat × Nat × Nat := match action, d.cls, d.a, d.b with
    | 1, some c, some a, some b =>
      (256 + (if a.orient || b.orient then 64 else 0), ceilDiv d.k c.kp * sliceP' d.shape c a b,
       784 - min (ceilDiv (reuse2 d.shape a.orient b.orient * rowBytesPer c a b) 2) 784)
    | _, _, _, _ => (64, 0, 784)
  let drain := match d.out with
    | some o => [(drainCycles d.shape o d.fuse, drainShare o)]
    | none => []
  let all := (first, 0, 392) :: (slice, rate, 392) :: drain
  (all.foldl (fun (acc : List (Nat × Nat × Nat) × Nat) (n, r, w) =>
    if n ≤ acc.2 then (acc.1, acc.2 - n) else (acc.1 ++ [(n - acc.2, r, w)], 0)) ([], at')).1

/-- A transfer goes on for at most `n` cycles at given rates; a cycle in which it is allowed 0 bytes that it needs is idle. -/
def Xfer.step (x : Xfer) (n r w : Nat) : Xfer :=
  let blocked := (x.rd ≠ 0 && r == 0) || (x.wr ≠ 0 && w == 0)
  let need := max (ceilDiv x.rd r) (ceilDiv x.wr w)
  if !blocked && need ≤ n then { x with rd := 0, wr := 0, upTo := x.upTo + need }
  else { rd := x.rd - min x.rd (n * r), wr := x.wr - min x.wr (n * w), upTo := x.upTo + n, idle := x.idle + (if blocked then n else 0) }

/-- Every byte has moved. -/
def Xfer.over (x : Xfer) : Bool := x.rd = 0 && x.wr = 0

/-- A transfer goes on for at most `n` cycles through the phases; after them the whole share is free. -/
def Xfer.move : List (Nat × Nat × Nat) → Nat → Xfer → Xfer
  | [], n, x => x.step n 784 392
  | (m, r, w) :: rest, n, x =>
    let x' := x.step (min m n) r w
    if x'.over || n ≤ m then x' else Xfer.move rest (n - m) x'

/-- The phases of an engine's matrix side from an ARITH time on: its running pour's; the whole share is free while no pour runs, and while a
drain waits on a full tile queue. -/
def State.sharesFrom (s : State) (e from' : Nat) : List (Nat × Nat × Nat) :=
  match s.runningOn (meUnit e) with
  | none => []
  | some r =>
    let d := parseProd r.held.pour.action r.held.bytes
    match r.prog, d.out with
    | .start, _ => sharePhases r.held.pour.action d (((from' + 1 - r.arith) * 17 - 1) / 20)
    | .draining steps hdr start, some o =>
      let c := (17 * from' - start) / 20
      let last := if s.drainWaits (meUnit e) then (drainDue steps hdr start - start) / 20 else drainCycles d.shape o d.fuse
      if c < last then [(last - c, drainShare o)] else []
    | _, _ => []

/-- The ARITH time of a cycle of a pour that launched at the ARITH time `arith`. -/
def cycleTime (arith n : Nat) : Nat := arith + n * 20 / 17

/-- A transfer of a vector engine's pour goes on to cycle `n` since its launch. -/
def State.moveTo (s : State) (e : Nat) (r : Running) (n : Nat) (x : Xfer) : Xfer :=
  if x.over || n ≤ x.upTo then x else x.move (s.sharesFrom e (cycleTime r.arith x.upTo)) (n - x.upTo)

/-- The transfer of the engine's vector side is followed up to now, before the matrix side enters another phase. -/
def State.followShare (s : State) (e : Nat) : State :=
  let u := veUnit e
  match s.runningOn u with
  | none => s
  | some r =>
    let n := s.ran (e / 48) r.arith
    match r.prog with
    | .copying x => s.setProg u (.copying (s.moveTo e r n x))
    | .kernel ws pc loops used wait x =>
      if wait = .queue || wait = .segment then s else s.setProg u (.kernel ws pc loops used wait (s.moveTo e r n x))
    | _ => s

/-! Tiles. -/

def Tile.segs (t : Tile) : Nat := tileSegs t.shape t.fmt
def Tile.overlaps (t : Tile) (seg n : Nat) : Bool := t.seg < seg + n && seg < t.seg + t.segs

/-- The live tile of a descriptor, when its segments hold exactly that one (R110). -/
def EngSt.tileOf (x : EngSt) (d : Prod) : Option Tile :=
  match x.tiles.filter (fun t => t.live && t.overlaps d.seg (tileSegs d.shape d.acc)) with
  | [t] => if t.seg = d.seg && t.shape == d.shape && t.fmt == d.acc then some t else none
  | _ => none

/-- Put a live tile in place of every tile it overlaps. -/
def EngSt.putTile (x : EngSt) (t : Tile) : EngSt := { x with tiles := t :: x.tiles.filter (fun u => !u.overlaps t.seg t.segs) }

def EngSt.dropTile (x : EngSt) (d : Prod) : EngSt :=
  { x with tiles := x.tiles.filter (fun t => !t.overlaps d.seg (tileSegs d.shape d.acc)) }

/-- Element (m, n) of a product (R99): the products of one column in ascending K, added to what the accumulator held. -/
def cell (c : InClass) (f : Fmt) (oa ob : Opd) (la lb : Loaded) (k m n : Nat) (old : Acc) : Acc × Nat :=
  accumulate f c.chunk old ((List.range k).map (fun i => vMul (la.a oa m i) (lb.b ob i n)))

/-- The heat's seed for the stochastic hash (R48, R94). -/
def Ctx.seed (x : Ctx) : Nat := match x.mould with | some m => fieldAt m.header 24 8 | none => 0

/-! The drain (R117 to R125). -/

/-- The element of the fused operand for tile element (i, j). -/
def fuseVal (bcast : Nat) (f : Opd) (l : Loaded) (i j : Nat) : Val :=
  match bcast with | 1 => l.val f 0 j | 2 => l.val f i 0 | _ => l.val f i j

def fuseOp (op : Nat) (v w : Val) : Val := match op with | 1 => vAdd v w | 2 => vMul v w | _ => v

/-- One row converted (R117, R120, R121): its element bytes, its scale bytes, and what it counts. `gq` are the scale bytes that a GQ8
output finds (R493). -/
def drainRow (o : Drn) (seed heat i : Nat) (gq : List Nat) (vals : List Val) : List Byte × List Byte × Nat × Nat :=
  let mode (j : Nat) : RMode := modeOf o.mode (srHash seed o.tid ((o.base + j + i * o.size0) % 2 ^ 40) heat)
  if !o.scaled then
    let rs := (vals.zip (List.range o.cols)).map (fun (v, j) => roundTo o.fmt (mode j) v)
    (packElems o.fmt (rs.map (fun r => r.bits)), [], (rs.filter (fun r => r.sat)).length, (rs.filter (fun r => r.nonfin)).length)
  else
    let blocks := (chunksOf 32 vals).zip (List.range o.scaleLen)
    let xs := blocks.map (fun (vs, b) => if o.fmt = .gq8 then gq.getD b 0x7F else blockScale o.fmt vs)
    let rs := (blocks.zip xs).flatMap (fun ((vs, b), x) => blockElems o.fmt x vs ((List.range vs.length).map (fun j => mode (b * 32 + j))))
    (packElems o.fmt (rs.map (fun r => r.bits) ++ List.replicate (o.padCols - o.cols) 0), xs.map (BitVec.ofNat 8)
      , (rs.filter (fun r => r.sat)).length, (rs.filter (fun r => r.nonfin)).length)

/-- The tile header (R123). DESIGN CHOICE (log 108): its SCALED bit is 1 for a format that is always scaled, whatever the descriptor's flag was. -/
def tileHeader (p : Pour) (heat : Nat) (d : Prod) (o : Drn) (seq : Nat) : List Byte :=
  leBytes 4 p.offset ++ leBytes 2 p.unit ++
  leBytes 1 ((match o.fmt with
    | .fp64 => 0 | .fp32 => 1 | .bf16 => 2 | .fp16 => 3 | .e4m3 => 4 | .e5m2 => 5 | .e3m2 => 6 | .e2m3 => 7 | .e2m1 => 8
    | .int8 => 9 | .int32 => 10 | .gq8 => 11) + 16 * b2n o.scaled) ++
  leBytes 1 d.shape ++ leBytes 4 o.tid ++ leBytes 2 o.rows ++ leBytes 2 o.cols ++ leBytes 8 o.base ++ leBytes 4 o.size0 ++
  leBytes 2 o.rowBytes ++ leBytes 2 seq ++ leBytes 8 heat ++ List.replicate 24 0#8

/-- The tile of a descriptor is live from now on. -/
def EngSt.liven (x : EngSt) (d : Prod) : EngSt :=
  { x with tiles := x.tiles.map (fun t => if t.overlaps d.seg (tileSegs d.shape d.acc) then { t with live := true } else t) }

/-! Errors in the accumulator store (R111, R112). -/

/-- A stored word of the accumulator segments of a tile. -/
def inSegs (e seg n : Nat) : StoredWord → Bool
  | .acc e' w => e' == e && 4096 * seg ≤ w && w < 4096 * (seg + n)
  | _ => false

/-- A tile's segments are read: corrected words count in ME_ECC_CORR; true when one is uncorrectable. DESIGN CHOICE (log 108): a drain reads every
word of the tile's segments once, those outside its valid rows and columns too. -/
def State.readSegs (s : State) (e seg n : Nat) : State × Bool :=
  let (corr, bad) := s.meets (inSegs e seg n)
  (s.count .ME_ECC_CORR (e / 48) (e % 48) corr, bad)

/-- A tile's segments are written: they hold no error. -/
def State.writeSegs (s : State) (e seg n : Nat) : State := s.mend (inSegs e seg n)

/-- The engine's pour has ended: tiles, counters, and `ended` (R110, R116). -/
def State.finishMatrix (s : State) (u : Nat) (d : Prod) (product : Bool) (cycles : Nat) : State :=
  let die := unitDie u
  let i := unitInst u
  let s := if product then s.count .ME_PRODUCTS die i 1 else s
  let s := if d.drains then s.count .ME_DRAINS die i 1 else s
  let s := s.setEng (engineOf u) (fun x => if d.drains && !d.retain then x.dropTile d else x.liven d)
  (s.count .ME_BUSY die i cycles).ended u

/-- The drain that runs on a matrix engine finds its queue full: the cycles waited so far count, and in a FAULTED context it ends
(R124, R168). -/
def State.drainStalls (s : State) (u : Nat) (steps : List DrainStep) (hdr : Option (List Byte)) (start : Nat) : State :=
  let s := s.setProg u (.draining steps hdr start)
  match s.runningOn u with
  | some r => if (s.ctx r.held.ctx).lastCode ≠ 0 then s.dropDrain u else s.countWait u
  | none => s

/-- One write of a drain: elements and scale bytes to the working store, the row to the tile queue. False when the store refuses it. -/
def State.drainStep (s : State) (u : Nat) (p : DrainStep) : State × Bool :=
  let die := unitDie u
  let e := engineOf u
  let put (s : State) (x : Nat × List Byte) : State × Bool :=
    if x.2.isEmpty then (s, true)
    else
      let (s, ok) := s.save (wsAt die x.1) x.2
      (s.charge die (acctOf (s.engineOwner e)) 8 (ceilDiv x.2.length 64), ok)
  let (s, a) := put s p.elems
  let (s, b) := if a then put s p.scales else (s, a)
  if !b then (s, false)
  else ((chunksOf 64 p.queue).foldl (fun s b => s.queuePut (.tileData e) { bytes := b, valid := allValid 64, last := false })
    (s.setQueue (.tileData e) (fun q => q.declare (ceilDiv p.queue.length 64))), true)

/-- The writes of a drain that are due, one by one (R122 to R124); the pour ends once the whole drain phase has passed. -/
def State.drainRows (u : Nat) (d : Prod) (o : Drn) (product : Bool) (start : Nat) : List DrainStep → State → State
  | [], s =>
    let cycles := drainCycles d.shape o d.fuse
    if 17 * s.arithNs (unitDie u) < start + 20 * cycles then s.setProg u (.draining [] none start)
    else s.finishMatrix u d product cycles
  | p :: rest, s =>
    if 17 * s.arithNs (unitDie u) < start + 20 * p.cycle then s.setProg u (.draining (p :: rest) none start)
    else if !p.queue.isEmpty && s.rowFull (engineOf u) p.queue then s.drainStalls u (p :: rest) none start
    else
      match s.drainStep u p with
      | (s, true) => State.drainRows u d o product start rest s
      | (s, false) => (s.failPour u stMemUncorrectable 0 0).setEng (engineOf u) (fun x => x.dropTile d)

/-- The header, when the drain goes to the tile queue and has not written it; then the rows. -/
def State.drainOut (s : State) (u : Nat) (d : Prod) (o : Drn) (product : Bool) (steps : List DrainStep)
    (hdr : Option (List Byte)) (start : Nat) : State :=
  let e := engineOf u
  match hdr with
  | some h =>
    if 17 * s.arithNs (unitDie u) < start then s.setProg u (.draining steps (some h) start)
    else if s.headerFull e then s.drainStalls u steps (some h) start
    else
      let s := s.queuePut (.tileHeader e) { bytes := h, valid := allValid 64, last := true }
      let s := s.setEng e (fun x => { x with tqSeq := (x.tqSeq + 1) % 65536 })
      State.drainRows u d o product start steps s
  | none => State.drainRows u d o product start steps s

/-- The writes of a drain, in order: columns 0 to 127 of every row, then columns 128 to 255 of every row (R122). DEDUCED (log 92):
a row enters the tile queue whole, with the last of its valid columns. -/
def drainSteps (sh d : Nat) (o : Drn) (rows : List (List Byte × List Byte)) : List DrainStep :=
  let eb := if passes sh = 2 then elemBytes o.fmt 128 else o.elemLen
  let store (b : Bool) (l : List Byte) : List Byte := if b then l else []
  (List.range (passes sh)).flatMap (fun h =>
    (rows.zip (List.range rows.length)).filterMap (fun ((es, sc), i) =>
      let b := es ++ sc
      let p : DrainStep :=
        { cycle := (h * shapeM sh + i) * d
          elems := (o.off + i * o.stride + h * eb, store (bitOf o.dest 0) ((es.drop (h * eb)).take eb))
          scales := (o.soff + i * o.sstride + 4 * h, store (bitOf o.dest 0 && o.fmt != .gq8) ((sc.drop (4 * h)).take 4))
          queue := store (bitOf o.dest 1 && (o.cols - 1) / 128 == h) (b ++ List.replicate (o.rowBytes - b.length) 0#8) }
      if p.elems.2.isEmpty && p.queue.isEmpty then none else some p))

/-- The scale bytes that a GQ8 output finds, row by row (R493). -/
def State.gqScales (s : State) (die : Nat) (o : Drn) : State × Option (List Nat) :=
  if o.fmt = .gq8 then s.loadRows die o.soff o.sstride o.scaleLen o.rows else (s, some [])

/-- Convert a tile and begin to drain it: the pour has reached its drain phase (R116). DESIGN CHOICE (log 71): the saturations and
non-finite results of every row count here (R121), also of rows that a drain cut short never writes. -/
def State.drainTile (s : State) (u : Nat) (r : Running) (d : Prod) (o : Drn) (product : Bool) (t : Tile) : State :=
  let die := unitDie u
  let x := s.ctx r.held.ctx
  let f := accFmt d.acc
  let lose (s : State) : State := s.setEng (engineOf u) (fun x => x.dropTile d)
  match s.gqScales die o with
  | (s, none) => lose (s.failPour u stMemUncorrectable 0 0)
  | (s, some gq) =>
    let gqRow (i : Nat) : List Nat := (List.range o.scaleLen).map (fun b => gq.getD i 0 >>> (b * 8) % 256)
    if o.fmt = .gq8 && (List.range o.rows).any (fun i => (gqRow i).any (fun b => b > 0xF8)) then lose (s.failPour u stBadParam 0 0)
    else
      let (fr, fn) := fuseExtent o.bcast d.shape
      let got : State × Option (Option Loaded) := match d.fuse with
        | none => (s, some none)
        | some fo => match s.loadOpd die fo fr fn with | (s, some l) => (s, some (some l)) | (s, none) => (s, none)
      match got with
      | (s, none) => lose (s.failPour u stMemUncorrectable 0 0)
      | (s, some fl) =>
        let val (i j : Nat) : Val :=
          let v := (accOf f (t.elems.getD (i * shapeN d.shape + j) (0, 0))).exact
          match d.fuse, fl with
          | some fo, some l => fuseOp o.fuse v (fuseVal o.bcast fo l i j)
          | _, _ => v
        let rows := (List.range o.rows).map (fun i =>
          drainRow o x.seed r.held.heat i (gqRow i) ((List.range o.cols).map (val i)))
        let s := s.count .ME_SAT die (unitInst u) (rows.foldl (fun a q => a + q.2.2.1) 0)
        let s := s.count .ME_NONFINITE die (unitInst u) (rows.foldl (fun a q => a + q.2.2.2) 0)
        let steps := drainSteps d.shape (rowCycles o d.fuse) o (rows.map (fun q => (q.1, q.2.1)))
        let hdr := if bitOf o.dest 1 then some (tileHeader r.held.pour r.held.heat d o (s.eng (engineOf u)).tqSeq) else none
        s.drainOut u d o product steps hdr (17 * r.arith + 20 * coreCycles (if product then 1 else 2) d)

/-- The slice cycles of the product that a unit runs, up to now or all of them, with their share of its Frazar transfers, are charged
(R408, R415), less what has been charged. -/
def State.payProduct (s : State) (u : Nat) (all : Bool) : State :=
  match s.runsAction u 1 with
  | none => s
  | some r =>
    let die := unitDie u
    let d := parseProd 1 r.held.bytes
    match r.prog, d.cls, d.a, d.b with
    | .start, some c, some oa, some ob =>
      let slices := ceilDiv d.k c.kp
      let total := slices * sliceP' d.shape c oa ob
      let moved := ceilDiv (slices * sliceP d.shape * reuse2 d.shape oa.orient ob.orient * rowBytesPer c oa ob) 128
      let done := if all then total else min total (s.ran die r.arith)
      let paid := (s.unit u).paid
      let acct := acctOf (s.engineOwner (engineOf u))
      let s := (s.charge die acct c.event (done - paid)).charge die acct 8 (moved * done / total - moved * paid / total)
      s.setUnit u (fun x => { x with paid := done })
    | _, _, _, _ => s

/-- The first report of an interval fixes the energy of every context up to the interval's end (R416): every die is charged up to it, and the
products under way have been (log 48). -/
def State.reportsDue (s : State) (t : Nat) : State :=
  if s.energyEnd = t then s
  else
    let s := s.units.foldl (fun s u => s.payProduct u.1 false) s.settleAll
    { s with energyAt := (List.range 16).map s.ctxEnergy, energyEnd := t }

/-- BUDGET_REPORT: at the end of an interval a die computes P_d and sends it (R408). -/
def execBudgetReport (t die : Nat) (s : State) : Host.Outcome State Fault Refusal :=
  let s := s.advance t
  if die ≥ 8 || t % interval ≠ 0 || t ≠ s.ft || s.ft = 0 then .next s
  else .next ((s.reportsDue t).setDie die (fun p => { p with power := powerOf p.energy, energy := 0, reported := false }))

/-- Elements of a product's tile that count (R121): every one without a drain, the valid ones with one. -/
def Prod.counted (d : Prod) (i j : Nat) : Bool := match d.out with | some o => i < o.rows && j < o.cols | none => true

/-- PRODUCT (R97 to R116, R129, R132): the pour's cycles before its drain phase have passed; its tile is live, and its drain begins
when DRAIN is set. -/
def execProduct (t unit : Nat) (s : State) : Host.Outcome State Fault Refusal :=
  let s := s.advance t
  match s.runsAction unit 1 with
  | none => .next s
  | some r =>
    let die := unitDie unit
    let e := engineOf unit
    let d := parseProd 1 r.held.bytes
    match r.prog, d.cls, d.a, d.b with
    | .start, some c, some oa, some ob =>
      let old := (s.eng e).tileOf d
      if unitCls unit ≠ clsME then .next s
      else if d.cont && old.isNone then .next (s.failPour unit stBadState 0 0)
      else if !s.passed die r.arith (coreCycles 1 d) then .next s
      else
        let s := (s.followShare e).payProduct unit true
        let segs := tileSegs d.shape d.acc
        let lose (s : State) : State := (s.failPour unit stMemUncorrectable 0 0).setEng e (fun x => x.dropTile d)
        let (s, bad) := if d.cont then s.readSegs e d.seg segs else (s, false)
        if bad then .next (lose s) else
        let (ra, na) := oa.extent true d.shape d.k
        let (rb, nb) := ob.extent false d.shape d.k
        let (s, la) := s.loadOpd die oa ra na
        let (s, lb) := s.loadOpd die ob rb nb
        match la, lb with
        | some la, some lb =>
          let f := accFmt d.acc
          let m := shapeM d.shape
          let n := shapeN d.shape
          let start (i : Nat) : Acc := match old with | some o => if d.cont then accOf f (o.elems.getD i (0, 0)) else .zero | none => .zero
          let cells := (List.range (m * n)).map (fun i => (i, cell c f oa ob la lb d.k (i / n) (i % n) (start i)))
          let tile : Tile := ⟨d.seg, d.shape, d.acc, cells.map (fun q => accBits f q.2.1), d.cont⟩
          let s := s.count .ME_SAT die (unitInst unit)
            ((cells.filter (fun q => d.counted (q.1 / n) (q.1 % n))).foldl (fun a q => a + q.2.2) 0)
          let slices := ceilDiv d.k c.kp
          let p' := sliceP' d.shape c oa ob
          let s := s.count .ME_SHARE_CYCLES die (unitInst unit) (slices * (p' - sliceP d.shape))
          let s := s.count .ME_TRANSPOSE die (unitInst unit)
            ((if oa.orient then slices * ceilDiv m 128 else 0) + (if ob.orient then slices * ceilDiv n 128 else 0))
          let s := s.count .ME_BUSY die (unitInst unit) (coreCycles 1 d)
          let s := (s.setEng e (fun x => x.putTile tile)).writeSegs e d.seg segs
          match d.out with
          | some o => .next (s.drainTile unit r d o true tile)
          | none => .next (s.finishMatrix unit d true 0)
        | _, _ => .next (lose s)
    | _, _, _, _ => .next s

/-- DRAIN (R110, R117 to R124): the pour has reached its drain phase. -/
def execDrain (t unit : Nat) (s : State) : Host.Outcome State Fault Refusal :=
  let s := s.advance t
  match s.runsAction unit 2 with
  | none => .next s
  | some r =>
    let d := parseProd 2 r.held.bytes
    match r.prog, d.out with
    | .start, some o =>
      if unitCls unit ≠ clsME then .next s
      else
        match (s.eng (engineOf unit)).tileOf d with
        | none => .next (s.failPour unit stBadState 0 0)
        | some tile =>
          if !s.passed (unitDie unit) r.arith (coreCycles 2 d) then .next s
          else
            let s := s.followShare (engineOf unit)
            let (s, bad) := s.readSegs (engineOf unit) d.seg (tileSegs d.shape d.acc)
            if bad then .next ((s.failPour unit stMemUncorrectable 0 0).setEng (engineOf unit) (fun x => x.dropTile d)) else
            let s := s.count .ME_BUSY (unitDie unit) (unitInst unit) (coreCycles 2 d)
            .next (s.drainTile unit r d o false tile)
    | _, _ => .next s

/-- DRAIN_QUEUE_RESUME (R122 to R124): a drain in progress goes on with the writes that are due by now. -/
def execDrainQueueResume (t unit : Nat) (s : State) : Host.Outcome State Fault Refusal :=
  let s := s.advance t
  match s.runningOn unit with
  | none => .next s
  | some r =>
    let action := r.held.pour.action
    let d := parseProd action r.held.bytes
    match r.prog, d.out with
    | .draining steps hdr start, some o =>
      if unitCls unit ≠ clsME then .next s else .next ((s.followShare (engineOf unit)).drainOut unit d o (action == 1) steps hdr start)
    | _, _ => .next s

end Sys2Proof.Machine
end

