-- ==== Sys2Proof/Machine/Time.lean ====
section
/-!
DEFINITION. Fabric time (R37 to R47, R306 to R308): the rows BEACON to FT_CTRL_WRITE.
-/
namespace Sys2Proof.Machine

/-- FT_CTRL fields. -/
def State.ftSource (s : State) : Nat := bitsOf (s.reg .FT_CTRL 0 0) 1 0
def State.ftMask (s : State) : Nat := bitsOf (s.reg .FT_CTRL 0 0) 31 16
def State.ftRelay (s : State) : Bool := bitOf (s.reg .FT_CTRL 0 0) 32

def State.setFtu (s : State) (f : FtUnit → FtUnit) : State := { s with ftu := f s.ftu }

/-- A port's state. -/
def State.port (s : State) (p : Nat) : PortSt := s.ports.getD p {}
def State.setPort (s : State) (p : Nat) (f : PortSt → PortSt) : State := { s with ports := modAt f s.ports p }

/-- MODE of a port is Darzil (R288). -/
def State.portMode (s : State) (p : Nat) : Nat := bitsOf (s.reg .PORT_CTRL (p / 2) (p % 2)) 1 0
def State.isDarzil (s : State) (p : Nat) : Bool := s.portMode p == 1

/-! What every frame carries (R293, R295, R297). -/

/-- Credits that a frame returns: its CVC and CUNITS. -/
def PortSt.takeCredits (x : PortSt) (cvc units : Nat) : PortSt :=
  if bitOf cvc 7 && cvc % 8 < 6 then { x with credits := modAt (fun n => min 1024 (n + units)) x.credits (cvc % 8) } else x

/-- Frames that an ACK frees (R297, R298): those from the oldest held up to it. -/
def PortSt.ackCount (x : PortSt) (held ack : Nat) : Nat :=
  let oldest := (x.txSeq + 65536 - held % 65536) % 65536
  let n := (ack + 65536 - oldest) % 65536 + 1
  if n ≤ held then n else 0

/-- An ACK reaches the sender. -/
def State.takeAck (s : State) (p ack : Nat) : State :=
  let n := 3 * (s.port p).ackCount (s.heldFrames p) ack
  if n = 0 then s
  else s.setQueue (.portReplay p) (fun q => RunQ.release false (min (q.rp + n) q.rd) q)

/-- A Darzil port that exchanges frames. -/
def State.linkUp (s : State) (p : Nat) : Bool := p < 16 && s.isDarzil p && (s.port p).link == .up

/-- A TIME frame whose CRC passes brings an acknowledgement and credits as every frame does (R293). -/
def State.takeTime (s : State) (p : Nat) (b : Beacon) : State :=
  if s.linkUp p && b.crcOk then (s.takeAck p b.ack).setPort p (fun x => x.takeCredits b.cvc b.cunits) else s

/-- FT is set in one step (R44): commits whose T is reached or passed apply at once. What the FT unit measures goes on from where it was:
its timeouts, the delay measurement in progress (R39), and the offsets of the beacons heard. -/
def State.stepFt (s : State) (v : Nat) : State :=
  let moved (x : Nat) : Nat := x + v - s.ft
  (List.range 16).foldl (fun s c => s.applyDue c) { s with
    ft := v
    pwr := s.pwr.map (fun p => { p with arithBase := p.arithNs s.ft, levelAt := v, settled := moved p.settled })
    ftu := { s.ftu with
      lastBeacon := moved s.ftu.lastBeacon, lastEdge := moved s.ftu.lastEdge, holdSince := moved s.ftu.holdSince
      heard := s.ftu.heard.map (fun h => { h with ft := moved h.ft, offset := h.offset + v - s.ft })
      delayReq := s.ftu.delayReq.map (fun r => (r.1, moved r.2)) } }

/-- Entry to ACQUIRING (R43, R44): `src` is the source's FT now; FT steps to it when no context is ARMED or RUNNING. -/
def State.acquire (s : State) (src : Nat) (counted : Bool) : State :=
  let s := if s.anyActive then s else s.stepFt src
  let off : Int := (s.ft : Int) - src
  s.setFtu (fun u => { u with
    lock := .acquiring, offset := off, lastEdge := s.ft
    good := if counted && off.natAbs ≤ 4 then 1 else 0 })

/-- Entry to HOLDOVER and to FREE from a lock (R43). -/
def State.holdover (s : State) : State :=
  (s.setFtu (fun u => { u with lock := .holdover, holdSince := s.ft })).count .FT_LOCK_LOSS 0 0 1
def State.goFree (s : State) : State := (s.setFtu (fun u => { u with lock := .free })).count .FT_LOCK_LOSS 0 0 1

/-- A BEACON is relayed out of every Darzil-mode port outside PORT_MASK while FT is LOCKED (R308). -/
def State.relayBeacon (s : State) (seq : Nat) : State :=
  if s.ftu.lock ≠ .locked || !s.ftRelay then s
  else
    (List.range 16).foldl (fun s p =>
      if s.isDarzil p && !bitOf s.ftMask p then
        s.setPort p (fun q => { q with
          lastTx := frameBytes 0 q.rxSeq 3 0 0 (timeBody s.ft s.ftu.master (s.ftu.stratum + 1) 0 seq 0) })
      else s) s

/-- The current lock's master id; none in FREE (R40). -/
def FtUnit.lockOf (u : FtUnit) : Option Nat := if u.lock = .free then none else some u.master

/-- The beacon that disciplines FT (R40): of the least stratum, then of the least port index, among the enabled ports that delivered one
in the last 131,072 ns. A beacon of another master than the current lock's is not valid for it (log 68). -/
def bestPort (mask : Nat) (master : Option Nat) (ft : Nat) (heard : List Heard) : Option Heard :=
  (heard.filter (fun h => bitOf mask h.port && (master == none || master == some h.master) && ft ≤ h.ft + 131072)).foldl
    (fun (b : Option Heard) h =>
      match b with
      | none => some h
      | some k => if h.stratum < k.stratum || (h.stratum = k.stratum && h.port < k.port) then some h else b) none

/-- The beacon that disciplines FT now. -/
def State.bestBeacon (s : State) : Option Heard := bestPort s.ftMask s.ftu.lockOf s.ft s.ftu.heard

/-- A valid beacon is remembered, with the offset it shows; `src` is the master's FT now. -/
def State.hear (s : State) (port : Nat) (b : Beacon) (src : Nat) : State :=
  s.setFtu (fun u => { u with
    heard := ⟨port, b.stratum, s.ft, b.master, (s.ft : Int) - src⟩ :: u.heard.filter (fun h => h.port ≠ port)
    lastBeacon := s.ft, lastSeq := b.seq })

/-- FT is disciplined from a beacon: its port and stratum. -/
def State.follow (s : State) (h : Heard) : State := s.setFtu (fun u => { u with port := h.port, stratum := h.stratum })

/-- BEACON: a beacon on an enabled port (R39, R40, R43, R44, R308). In HOLDOVER every valid beacon decides, whichever port delivers it
(R43); in ACQUIRING and LOCKED those of the best port do (R40). -/
def execBeacon (t port : Nat) (b : Beacon) (s : State) : Host.Outcome State Fault Refusal :=
  let s := (s.advance t).takeTime port b
  if port ≥ 16 || !s.isDarzil port || !bitOf s.ftMask port then .next s
  else if !b.crcOk || b.stratum ≥ 15 || (s.ftu.lock != .free && b.master != s.ftu.master) then
    .next (s.count .FT_BEACON_BAD 0 0 1)
  else
    let src := b.ftTx + (s.port port).delay
    let off : Int := (s.ft : Int) - src
    let s := (s.count .FT_BEACON_RX 0 0 1).hear port b src
    let best := s.bestBeacon.getD ⟨port, b.stratum, s.ft, b.master, off⟩
    match s.ftu.lock with
    | .free =>
      if s.ftSource = 0 then .next (s.setFtu (fun u => { u with offset := off }))
      else .next ((s.setFtu (fun u => { u with master := b.master, stratum := b.stratum, port := port })).acquire src true)
    | .holdover =>
      let s := (s.follow best).setFtu (fun u => { u with offset := off })
      if off.natAbs ≤ 25 then .next ((s.setFtu (fun u => { u with lock := .locked, lastEdge := s.ft })).relayBeacon b.seq)
      else .next (s.acquire src true)
    | .acquiring =>
      if best.port ≠ port then .next s
      else
        let s := (s.follow best).setFtu (fun u => { u with offset := off })
        let n := if off.natAbs ≤ 4 then s.ftu.good + 1 else 0
        if n ≥ 8 then .next ((s.setFtu (fun u => { u with lock := .locked, good := n, lastEdge := s.ft })).relayBeacon b.seq)
        else .next (s.setFtu (fun u => { u with good := n }))
    | .locked =>
      if best.port ≠ port then .next s
      else .next (((s.follow best).setFtu (fun u => { u with offset := off })).relayBeacon b.seq)

/-- BEACON_TIMEOUT (R43). -/
def execBeaconTimeout (t : Nat) (s : State) : Host.Outcome State Fault Refusal :=
  let s := s.advance t
  if s.ft < s.ftu.lastBeacon + 131072 then .next s
  else
    match s.ftu.lock with
    | .locked => .next s.holdover
    | .acquiring => .next s.goFree
    | _ => .next s

/-- Signed distance of an FT from the nearest multiple of 1,048,576 ns. -/
def syncOffset (ft : Nat) : Int :=
  let r := ft % 1048576
  if r < 524288 then (r : Int) else (r : Int) - 1048576

/-- SYNC_IN_EDGE (R41, R475): the edge is latched, and disciplines FT or counts as bad. The multiple that FT expects is the one nearest to
it. DESIGN CHOICE (log 67): an edge within 64 ns of a multiple in FREE, where no beacon has told which multiple it marks, is latched and
neither measures an offset nor restarts the timer of valid edges. -/
def execSyncInEdge (t : Nat) (s : State) : Host.Outcome State Fault Refusal :=
  let s := s.advance t
  if s.ftSource ≠ 2 then .next s
  else
    let s := s.setFtu (fun u => { u with syncEdge := s.ft })
    let off := syncOffset s.ft
    if off.natAbs > 64 then .next (s.count .FT_SYNC_BAD 0 0 1)
    else if s.ftu.lock = .free then .next s
    else .next (s.setFtu (fun u => { u with offset := off, lastEdge := s.ft }))

/-- SYNC_IN_TIMEOUT (R43). -/
def execSyncInTimeout (t : Nat) (s : State) : Host.Outcome State Fault Refusal :=
  let s := s.advance t
  if s.ftSource ≠ 2 || s.ft ≤ s.ftu.lastEdge + 1048640 then .next s
  else
    match s.ftu.lock with
    | .locked => .next s.holdover
    | .acquiring => .next s.goFree
    | _ => .next s

/-- HOLDOVER_EXPIRY (R43). -/
def execHoldoverExpiry (t : Nat) (s : State) : Host.Outcome State Fault Refusal :=
  let s := s.advance t
  if s.ftu.lock = .holdover && s.ft ≥ s.ftu.holdSince + 10000000 then .next s.goFree else .next s

/-- DELAY_MEASURE_TIMER (R39): a DELAY_REQ leaves toward the upstream neighbour. -/
def execDelayMeasureTimer (t : Nat) (s : State) : Host.Outcome State Fault Refusal :=
  let s := s.advance t
  let early := match s.ftu.delayReq with | some (_, t1) => s.ft < t1 + 1048576 | none => false
  if s.ftu.lock = .free || early || !s.isDarzil s.ftu.port then .next s
  else
    let p := s.ftu.port
    let s := s.setPort p (fun q => { q with lastTx := frameBytes 0 q.rxSeq 3 0 0 (timeBody s.ft s.ftu.master s.ftu.stratum 1 0 0) })
    .next (s.setFtu (fun u => { u with delayReq := some (p, s.ft) }))

/-- DELAY_REQ (R307): answered with a DELAY_RESP at the next frame boundary; the wait of up to 2 whole ns is open. -/
def execDelayReq (t port : Nat) (b : Beacon) (s : State) : Host.Outcome State Fault Refusal :=
  let s := (s.advance t).takeTime port b
  if port ≥ 16 || !s.isDarzil port then .next s
  else if !b.crcOk then .next (s.count .FT_BEACON_BAD 0 0 1)
  else
    let (w, s) := s.free 3
    .next (s.setPort port (fun q => { q with
      lastTx := frameBytes 0 q.rxSeq 3 0 0 (timeBody (s.ft + w) s.ftu.master s.ftu.stratum 2 b.seq w) }))

/-- DELAY_RESP (R307): half of the round trip less the turnaround. -/
def execDelayResp (t port : Nat) (b : Beacon) (s : State) : Host.Outcome State Fault Refusal :=
  let s := (s.advance t).takeTime port b
  if !b.crcOk then .next (s.count .FT_BEACON_BAD 0 0 1)
  else
    match s.ftu.delayReq with
    | none => .next s
    | some (p, t1) =>
      if p ≠ port then .next s
      else
        let d := (s.ft - t1 - b.turnaround) / 2
        .next ((s.setPort p (fun q => { q with delay := d })).setFtu (fun u => { u with pathDelay := d }))

/-- A write to FT_CTRL (R43, R46). A change of SOURCE goes to ACQUIRING when a port that the write enables delivered a valid beacon in
the last 131,072 ns: from FREE that beacon's master becomes the lock's, and FT less the beacon's offset is the source value (log 25). -/
def State.writeFtCtrl (s : State) (v : Nat) : State :=
  let old := s.reg .FT_CTRL 0 0
  let src := bitsOf v 1 0
  let keep := s.anyActive || src == 3 || src == bitsOf old 1 0
  let fields := bitsOf v 32 16 <<< 16
  let s := s.setReg .FT_CTRL 0 0 (fields + (if keep then bitsOf old 1 0 else src))
  if keep then s
  else
    match (if src = 0 then none else s.bestBeacon) with
    | some h => ((s.follow h).setFtu (fun u => { u with master := h.master })).acquire ((s.ft : Int) - h.offset).toNat false
    | none => s.setFtu (fun u => { u with lock := .free })

/-- FT_CTRL_WRITE. -/
def execFtCtrlWrite (t value : Nat) (s : State) : Host.Outcome State Fault Refusal := .next ((s.advance t).writeFtCtrl value)

end Sys2Proof.Machine
end

