-- ==== Sys2Proof/Machine/Packet.lean ====
section
/-!
DEFINITION. Packets at a port (R294 to R305): the route table, virtual channels, request tags, the age limit, and what a package
puts on its ports and takes from them.
-/
namespace Sys2Proof.Machine

/-- Count at a port. -/
def State.countPort (s : State) (r : Reg) (p n : Nat) : State := s.count r (p / 2) (p % 2) n

/-- Credits of 64 bytes that a packet takes (R295). -/
def creditUnits (bytes : List Byte) : Nat := ceilDiv bytes.length 64

/-- The port carries packets: Darzil mode, UP, or in RETRAIN, where packets wait (R320). -/
def State.carries (s : State) (p : Nat) : Bool :=
  p < 16 && s.isDarzil p && ((s.port p).link == .up || (s.port p).link == .retrain)

/-- The port that the route table names for a package (R299). -/
def State.route (s : State) (dst : Nat) : Option Nat :=
  let e := Sparse.at? 0 s.routes dst
  if bitOf e 7 && s.carries (e % 16) then some (e % 16) else none

/-- The VC of a packet that leaves through a port (R295, R296). -/
def State.vcOut (s : State) (p : Nat) (k : Pkt) : Nat :=
  classOf k.typ + (if k.vc ≥ 3 || bitOf (s.reg .PORT_CTRL (p / 2) (p % 2)) 4 then 3 else 0)

/-- Bytes of a packet, in whole 32-byte steps. -/
def stepBytes (n : Nat) : Nat := ceilDiv n 32 * 32

/-- The tag of a request of this package, read from the packet. -/
def ownTag (pkg : Nat) (bs : List Byte) : Option Nat :=
  let typ := fieldAt bs 0 1
  if typ < 0x80 && fieldAt bs 4 2 % 2 ^ 14 == pkg && !(typ == 6 && fieldAt bs 35 1 ≥ 2) then some (fieldAt bs 6 2 % 4096) else none

/-- A whole packet on its way out. -/
def outPkt (vc ctx : Nat) (tag : Option Nat) (bs : List Byte) : OutPkt :=
  { vc := vc, bytes := bs ++ List.replicate (stepBytes bs.length - bs.length) 0#8, units := creditUnits bs, ctx := ctx, tag := tag }

/-- A packet of this package joins the packets that wait at a port; `ctx` is the context that it belongs to, or 16 (R371). -/
def State.enqueue (s : State) (p ctx : Nat) (k : Pkt) : State :=
  let k := { k with vc := s.vcOut p k }
  let bs := pktBytes k
  s.setPort p (fun x => { x with waiting := x.waiting ++ [outPkt k.vc ctx (ownTag s.pkgId bs) bs] })

/-- A packet of this package leaves by the route table; without a route it is discarded and counts at port `at` (R299). -/
def State.sendRouted (s : State) (at' : Nat) (k : Pkt) : State :=
  match s.route k.dst with
  | some p => s.enqueue p 16 k
  | none => s.countPort .PORT_NO_ROUTE at' 1

/-- The request tags of a port that are free (R304). -/
def PortSt.freeTags (x : PortSt) : List Nat := (List.range 4096).filter (fun t => !x.tags.any (fun r => r.tag = t))

/-- What came of issuing a request. -/
inductive Issued where
  /-- no tag is free: the request waits -/
  | noTag
  /-- the port carries nothing: ERROR code NO_ROUTE (R299) -/
  | noRoute
  | sent
  deriving DecidableEq, Repr

/-- Issue a request through a port: it takes a free tag, which one is open (R304, log 6). -/
def State.issue (s : State) (p : Nat) (k : Pkt) (r : Req) : State × Issued :=
  if !s.carries p then (s.countPort .PORT_NO_ROUTE p 1, .noRoute)
  else
    let free := (s.port p).freeTags
    if free.isEmpty then (s, .noTag)
    else
      let (i, s) := s.free free.length
      let tag := free.getD i 0
      let birth := s.ft % 2 ^ 32
      let s := s.setPort p (fun x => { x with tags := x.tags ++ [{ r with tag := tag, dst := k.dst, typ := k.typ, birth := birth }] })
      (s.enqueue p r.ctx { k with src := s.pkgId, tag := tag, port := p, birth := birth }, .sent)

/-- Answer a request (R301, R303): by the route table, with the request's tag and BIRTH. -/
def State.answer (s : State) (at' : Nat) (q : Pkt) (typ ops : Nat) (body : List Byte) : State :=
  s.sendRouted at' { typ := typ, vc := 0, dst := q.src, src := s.pkgId, tag := q.tag, port := q.port, addr := 0, len := body.length
                     birth := q.birth, ops := ops, flag := 0, epoch := 0, body := body }

/-- Age of a packet (R303). -/
def State.age (s : State) (k : Pkt) : Nat := (s.ft + 2 ^ 32 - k.birth) % 2 ^ 32

/-- A packet lies in the port's buffer, and no earlier one of its VC precedes it among those that go the same way, to this package or on
(R300, R319). -/
def PortSt.first (x : PortSt) (pkg : Nat) (bytes : List Byte) : Bool :=
  let like (b : List Byte) : Nat × Bool := (fieldAt b 1 1 % 8, fieldAt b 2 2 % 2 ^ 14 == pkg)
  x.inbox.find? (fun b => like b = like bytes) == some bytes

/-- A packet leaves the port's buffer, and its credits return (R295). -/
def PortSt.consume (x : PortSt) (bytes : List Byte) (vc : Nat) : PortSt :=
  { x with inbox := x.inbox.erase bytes, owed := modAt (fun n => n + creditUnits bytes) x.owed vc }

/-- A packet of one of the given types that has reached this package at a port is taken in, in the order of its VC: it leaves the port's
buffer, and its age is checked (R303). A packet of another type, or for another package, or not first in its VC, is left alone. -/
def State.takePkt (s : State) (p : Nat) (typs : List Nat) (bytes : List Byte) : State × Option Pkt :=
  match parsePkt bytes with
  | none => (s, none)
  | some k =>
    if p ≥ 16 || !typs.contains k.typ || k.dst != s.pkgId || !(s.port p).first s.pkgId bytes then (s, none)
    else
      let s := s.setPort p (fun x => x.consume bytes k.vc)
      if s.age k ≥ 1999000 then (s.countPort .PORT_EXPIRED p 1, none)
      else (s, some { k with body := k.body.take (payloadLen k) })

end Sys2Proof.Machine
end

