-- ==== Sys2Proof/Machine/Exchange.lean ====
section
/-!
DEFINITION. The training step at the link adders (chapter 07) and the exchange and the referee (chapter 08): the rows PACK to
LADD_REF_CTRL_WRITE.
-/
namespace Sys2Proof.Machine

/-! Descriptors (R185, R188, R202, R208, R214). -/

/-- A working-store offset field: bits 31:30 are 0, and the alignment holds. -/
def offOk (raw : List Byte) (at' align : Nat) : Bool := fieldAt raw at' 4 < 2 ^ 30 && fieldAt raw at' 4 % align == 0

/-- BLOCKS (R186). -/
def blocksOk (n : Nat) : Bool := 1 ≤ n && n ≤ 524288

/-- A package id or "none". -/
def pkgOrNone (n : Nat) : Bool := n < 2 ^ 14 || n == 0xFFFF

/-- The fields of a referee descriptor (R214). -/
def refFieldsOk (barrier : Bool) (offset : Nat) (raw : List Byte) : Bool :=
  let up := fieldAt raw 0 4
  let commit := fieldAt raw 4 4
  offset ≤ up && (if barrier then commit == 0 else up < commit) && fieldAt raw 8 2 < 4096 && pkgOrNone (fieldAt raw 10 2) &&
  1 ≤ fieldAt raw 12 2 && fieldAt raw 12 2 ≤ 16384 && zeroAt raw 14 2 && (entriesAt raw 16 2 14).all pkgOrNone && zeroAt raw 44 20 &&
  (entriesAt raw 64 4 8).all (fun r => bitsOf r 15 10 == 0) &&
  (entriesAt raw 96 2 8).all (fun f => if barrier then f < 1024 || f == 0xFFFF else f == 0) && zeroAt raw 112 16

/-- The fields of a link adder descriptor, by action; `offset` is the pour's OFFSET. -/
def laddFieldsOk (action offset : Nat) (raw : List Byte) : Bool :=
  match action with
  | 0x10 =>
    [0, 4, 8, 12, 16].all (fun o => offOk raw o 64) && [20, 24].all (fun o => offOk raw o 8) && blocksOk (fieldAt raw 28 4) &&
    fieldAt raw 32 4 < 2 ^ 24 && fieldAt raw 36 1 < 3 && zeroAt raw 37 1 && fieldAt raw 38 2 < 4096 && zeroAt raw 40 24
  | 0x11 =>
    let uses := fieldAt raw 4 1
    1 ≤ fieldAt raw 0 4 && fieldAt raw 0 4 ≤ 16777216 && 2 ≤ uses && uses ≤ 8 && zeroAt raw 5 3 &&
    (List.range 8).all (fun i => if i < uses then offOk raw (8 + 4 * i) 64 else zeroAt raw (8 + 4 * i) 4) && zeroAt raw 40 24
  | 0x01 =>
    offOk raw 0 64 && offOk raw 4 64 && offOk raw 8 8 && zeroAt raw 12 4 && blocksOk (fieldAt raw 16 4) && fieldAt raw 20 2 < 4096 &&
    fieldAt raw 22 1 < 2 && zeroAt raw 23 1 && fieldAt raw 24 8 < 2 ^ 58 && fieldAt raw 32 2 < 1024 && zeroAt raw 34 30
  | 0x02 =>
    offOk raw 0 64 && offOk raw 4 64 && offOk raw 8 8 && offOk raw 12 64 && blocksOk (fieldAt raw 16 4) && fieldAt raw 20 2 < 4096 &&
    fieldAt raw 22 1 < 2 && zeroAt raw 23 41
  | 0x03 =>
    offOk raw 0 64 && offOk raw 4 64 && offOk raw 8 8 && offOk raw 12 64 && offOk raw 16 8 && blocksOk (fieldAt raw 20 4) &&
    fieldAt raw 24 2 < 4096 && zeroAt raw 26 38
  | 0x20 => refFieldsOk false offset raw
  | 0x21 => refFieldsOk true offset raw
  | _ => false

/-- The working-store ranges that a link adder pour reads or writes; a COMBINE's receive buffer is checked when it runs. -/
def laddRanges (action : Nat) (raw : List Byte) : List (Nat × Nat) :=
  let f (o : Nat) : Nat := fieldAt raw o 4
  match action with
  | 0x10 =>
    let b := f 28
    let n := 32 * b
    [(f 0, 8 * n), (f 4, 2 * n), (f 8, 2 * n), (f 12, n), (f 16, b), (f 20, ceilDiv b 8), (f 24, 8)]
  | 0x11 => (List.range (fieldAt raw 4 1)).map (fun i => (f (8 + 4 * i), 8 * f 0))
  | 0x01 => [(f 0, 32 * f 16), (f 4, f 16), (f 8, ceilDiv (f 16) 8)]
  | 0x02 => [(f 0, 32 * f 16), (f 4, f 16), (f 8, ceilDiv (f 16) 8)]
  | 0x03 => [(f 0, 32 * f 20), (f 4, f 20), (f 8, ceilDiv (f 20) 8), (f 12, 4 * f 20), (f 16, 8)]
  | _ => []

/-- The check of a fetched link adder descriptor (R106, R185, R201): OK, BAD_PARAM or TRANSLATION_FAULT. -/
def laddCheck (p : Part) (die action offset : Nat) (raw : List Byte) : Nat :=
  if !laddFieldsOk action offset raw then stBadParam
  else if !(laddRanges action raw).all (fun r => inBanks p die r.1 r.2) then stTranslationFault
  else stOk

/-- The tag that a held link adder pour names, or a COMPARE pour (R210, R247). -/
def laddTag (h : Held) : Option Nat :=
  match h.desc with
  | none => none
  | some d =>
    if unitCls h.pour.unit = clsLADD then (tagOffset h.pour.action).map (fun o => fieldAt d o 2 % 4096)
    else if unitCls h.pour.unit = clsUU && h.pour.action == 3 then some (fieldAt d 46 2 % 4096)
    else none

/-! Tags (R210, R212). -/

/-- State of a tag at this FT; none when it is free. -/
def State.tagSt (s : State) (tag : Nat) : Option TagSt :=
  match s.tags.find? (fun e => e.1 = tag) with
  | some (_, .bound c) => some (.bound c)
  | some (_, .quarantined e) => if e ≤ s.ft then none else some (.quarantined e)
  | none => none

/-- What came of binding a tag. -/
inductive Bind where
  | bound | foreign | waits
  deriving DecidableEq, Repr

/-- A pour of a context names a tag: it binds it when the tag is free. -/
def State.bindTag (s : State) (c tag : Nat) : State × Bind :=
  match s.tagSt tag with
  | some (.bound k) => (s, if k = c then .bound else .foreign)
  | some (.quarantined _) => (s, .waits)
  | none => ({ s with tags := setKey s.tags tag (.bound c) }, .bound)

/-- TAG_QUARANTINE_END (R212): the tag is free, and the first waiting pour that names it binds it. A waiting pour of another context then
names a tag bound elsewhere: it does not run, and its context is faulted (R210). -/
def execTagQuarantineEnd (t tag : Nat) (s : State) : Host.Outcome State Fault Refusal :=
  let s := s.advance t
  match s.tags.find? (fun e => e.1 = tag) with
  | some (_, .quarantined e) =>
    if s.ft < e then .next s
    else
      let s := { s with tags := s.tags.filter (fun e => e.1 ≠ tag) }
      match (s.units.flatMap (fun u => u.2.queue)).filter (fun h => laddTag h = some tag) with
      | h :: rest =>
        let s := (s.bindTag h.ctx tag).1
        .next ((rest.filter (fun k => k.ctx ≠ h.ctx)).foldl (fun s k =>
          s.faultCtx k.ctx stBadState k.pour.unit k.pour.desc 0 k.pour.offset) s)
      | [] => .next s
  | _ => .next s

/-! Run times and working store. -/

/-- Whole nanoseconds that `n` PORT cycles take at least, at 1.33 GHz (R185). -/
def portNs (n : Nat) : Nat := 100 * n / 133

/-- The port of a link adder. -/
def adderPort (u : Nat) : Nat := unitDie u * 2 + unitInst u

/-- Count at a link adder. -/
def State.countAdder (s : State) (r : Reg) (u n : Nat) : State := s.count r (unitDie u) (unitInst u) n

/-- Read ranges given by address and length, one by one. -/
def State.loadMany : List (Nat × Nat) → State → State × Option (List (List Byte))
  | [], s => (s, some [])
  | (a, n) :: rest, s =>
    match s.load a n with
    | (s, none) => (s, none)
    | (s, some bs) =>
      match State.loadMany rest s with
      | (s, some more) => (s, some (bs :: more))
      | (s, none) => (s, none)

/-- Read ranges of a die's working store; none on an uncorrectable word. -/
def State.readAll (s : State) (die : Nat) (l : List (Nat × Nat)) : State × Option (List (List Byte)) :=
  State.loadMany (l.map (fun p => (wsAt die p.1, p.2))) s

/-- Write ranges of a die's working store; false when a write was not applied (R451). -/
def State.writeAll (die : Nat) (ws : List (Nat × List Byte)) (s : State) : State × Bool :=
  ws.foldl (fun (acc : State × Bool) w =>
    if acc.2 then acc.1.save (wsAt die w.1) w.2 else acc) (s, true)

/-- A pour goes on with what it read; an uncorrectable word ends it. -/
def State.onRead (u : Nat) (k : State → List (List Byte) → State) : State × Option (List (List Byte)) → State
  | (s, some l) => k s l
  | (s, none) => s.failPour u stMemUncorrectable 0 0

/-- A pour goes on once its write has landed. -/
def State.onWrite (u : Nat) (k : State → State) : State × Bool → State
  | (s, true) => k s
  | (s, false) => s.failPour u stMemUncorrectable 0 0

/-- The blocks that a selection bitmap selects (R188), ascending. -/
def selected (blocks : Nat) (bitmap : List Byte) : List Nat :=
  let v := leNat bitmap
  onesOf blocks v

/-- The bytes of a selection bitmap. -/
def bitmapOf (blocks : Nat) (sel : List Nat) : List Byte := leBytes (ceilDiv blocks 8) (bitsAt sel)

/-- A GQ8 element as it is read (R80): its value, and whether it counts as saturated. -/
def gq8Read (b : Nat) : Int × Bool := let i := toInt 8 (b % 256); if i = -128 then (-127, true) else (i, false)

/-- The pour of a unit that has run its time: the launched pour of an action on a link adder. -/
def State.adderRuns (s : State) (unit action : Nat) : Option Running :=
  if unitCls unit = clsLADD then s.runsAction unit action else none

/-! PACK (R188 to R191). -/

/-- The compensated value v of R87. -/
def gradVal (g e r : Nat) : Val :=
  rneVal .fp32 (vAdd (rneVal .fp32 (vAdd (valOf .fp32 g) (valOf .bf16 r))) (valOf .fp32 e))

/-- A finite value above 2^16 × 2^e in magnitude (R191), with the scale byte `x`. -/
def absurd (x : Nat) (v : Val) : Bool := vFinite v && vLt (vScale (16 + (x : Int) - 127) vOne) (vAbs v)

/-- One packed block: its elements, and whether one is non-finite or absurd. -/
structure PackedBlock where
  elems : List Packed
  nonfinite : Bool
  absurd : Bool
  deriving DecidableEq, Repr

def packBlock (mode : Nat → RMode) (sel : Bool) (x first : Nat) (g e r : List Nat) : PackedBlock :=
  let items := (g.zip (e.zip r)).zip (countFrom first 32)
  let vs := items.map (fun ((g, e, r), _) => gradVal g e r)
  { elems := items.map (fun ((g, e, r), i) => gq8Pack (mode i) sel x g e r)
    nonfinite := vs.any (fun v => !vFinite v)
    absurd := vs.any (absurd x) }

/-- The pack status word (R191). -/
def packStatus (nf ab : Nat) : Nat := b2n (nf != 0) + 2 * b2n (ab != 0) + 4 + 2 ^ 16 * nf + 2 ^ 40 * ab

/-- PACK, once its time has passed; `c` is PLAN_STEP_COUNT at its launch. -/
def State.doPack (s : State) (u : Nat) (r : Running) (c : Nat) : State :=
  let raw := r.held.bytes
  let die := unitDie u
  let f (o : Nat) : Nat := fieldAt raw o 4
  let blocks := f 28
  let n := 32 * blocks
  let x := s.ctx r.held.ctx
  State.onRead u (fun s l =>
    match l with
    | [g, res, sc, sel] =>
      let scales := sc.map (fun b => b.toNat)
      if scales.any (fun x => x > 0xF8) then s.failPour u stBadParam 0 0
      else
        let gw := wordsLE 4 (2 * n) g
        let chosen := leNat sel
        let mode (i : Nat) : RMode := modeOf (fieldAt raw 36 1) (srHash x.seed (f 32) i r.held.heat)
        let rows := ((pieces 32 blocks gw).zip ((pieces 32 blocks (gw.drop n)).zip (pieces 32 blocks (wordsLE 2 n res)))).zip
          (scales.zip (List.range blocks))
        let out := rows.map (fun ((g, e, r), x, b) => packBlock mode (bitOf chosen b) x (32 * b) g e r)
        let elems := out.flatMap (fun b => b.elems)
        let nf := (out.filter (fun b => b.nonfinite)).length
        let ab := (out.filter (fun b => b.absurd)).length
        let s := s.countAdder .LADD_SAT u (elems.filter (fun p => p.sat)).length
        State.onWrite u (fun s =>
          (s.setCtx r.held.ctx (fun y => { y with
            stepFlags := y.stepFlags ||| (2 ^ 16 * b2n (nf != 0) + 2 ^ 17 * b2n (ab != 0)) })).ended u)
          (s.writeAll die [(f 12, elems.map (fun p => BitVec.ofNat 8 p.q)),
            (f (4 + 4 * ((c + 1) % 2)), elems.flatMap (fun p => leBytes 2 p.res)), (f 24, leBytes 8 (packStatus nf ab))])
    | _ => s.failPour u stMemUncorrectable 0 0)
    (s.readAll die [(f 0, 8 * n), (f (4 + 4 * (c % 2)), 2 * n), (f 16, blocks), (f 20, ceilDiv blocks 8)])

/-- PACK. -/
def execPack (t unit : Nat) (s : State) : Host.Outcome State Fault Refusal :=
  let s := s.advance t
  match s.adderRuns unit 0x10 with
  | none => .next s
  | some r =>
    match r.prog with
    | .packing c _ _ =>
      if s.ft < r.launched + portNs (128 + ceilDiv (fieldAt r.held.bytes 28 4) 2) then .next s else .next (s.doPack unit r c)
    | _ => .next s

/-! TIE (R183, R185). -/

/-- The two planes of a G buffer (R180) as compensated elements. -/
def gElems (n : Nat) (bs : List Byte) : List Acc :=
  let w := wordsLE 4 (2 * n) bs
  ((w.take n).zip (w.drop n)).map (accOf .fp32)

/-- The bytes of a G buffer. -/
def gBytes (l : List Acc) : List Byte :=
  let b := l.map (accBits .fp32)
  b.flatMap (fun q => leBytes 4 q.1) ++ b.flatMap (fun q => leBytes 4 q.2)

/-- TIE: the left fold over the uses, in ascending order, into the buffer of use 0. -/
def State.doTie (s : State) (u : Nat) (r : Running) : State :=
  let raw := r.held.bytes
  let die := unitDie u
  let n := fieldAt raw 0 4
  match s.readAll die (laddRanges 0x11 raw) with
  | (s, some (first :: rest)) =>
    let sum := rest.foldl (fun acc bs => (acc.zip (gElems n bs)).map (fun (a, b) => nodeSum .fp32 a b)) (gElems n first)
    match s.writeAll die [(fieldAt raw 8 4, gBytes sum)] with
    | (s, true) => s.ended u
    | (s, false) => s.failPour u stMemUncorrectable 0 0
  | (s, _) => s.failPour u stMemUncorrectable 0 0

def execTie (t unit : Nat) (s : State) : Host.Outcome State Fault Refusal :=
  let s := s.advance t
  match s.adderRuns unit 0x11 with
  | none => .next s
  | some r =>
    let raw := r.held.bytes
    if r.prog ≠ .start || s.ft < r.launched + portNs (64 + (fieldAt raw 4 1 - 1) * ceilDiv (fieldAt raw 0 4) 32) then .next s
    else .next (s.doTie unit r)

/-! RENEW (R206 to R208). -/

/-- The key of a block (R206): `sum` of magnitudes, scale byte `x`. -/
def keyOf (sum x : Nat) : Nat :=
  if sum = 0 then 0 else let b := Nat.log2 sum + 1; 2 ^ 12 * (x + b) ||| sum * 2 ^ (12 - b)

/-- The blocks that R207 selects. -/
def selectBlocks (keys : List Nat) (c frac : Nat) : List Nat :=
  let n := keys.length
  if frac = 16 then List.range n
  else
    let k := ceilDiv (frac * n) 16
    let r := ceilDiv k 8
    let window := (List.range r).map (fun i => (c * r + i) % n)
    let others := (keys.zip (List.range n)).filter (fun q => !window.contains q.2)
    let best := (sortBy (fun q => 2 ^ 20 * (2 ^ 32 - q.1) + q.2) others).take (k - r)
    window ++ best.map Prod.snd

/-- The part of RENEW that a committed step asks for (R208): keys and scales of the blocks that were sent, and the stamp. None when the pour
has ended. Blocks that were not selected are neither read nor written. -/
def State.renewKeys (s : State) (u : Nat) (r : Running) (c h : Nat) (k : State → State) : State :=
  let raw := r.held.bytes
  let die := unitDie u
  let f (o : Nat) : Nat := fieldAt raw o 4
  let n := f 20
  State.onRead u (fun s l =>
    let sent := selected n (l.headD [])
    State.onRead u (fun s l =>
      let scales := (l.drop sent.length).map (fun b => (b.headD 0#8).toNat)
      if scales.any (fun x => x > 0xF8) then s.failPour u stBadParam 0 0
      else
        let new := (sent.zip (l.zip scales)).map (fun (b, e, x) =>
          let els := e.map (fun b : Byte => gq8Read b.toNat)
          let mags := els.map (fun i : Int × Bool => i.1.natAbs)
          (b, keyOf (mags.foldl (· + ·) 0) x, gq8NextScale x (mags.foldl max 0) h, (els.filter Prod.snd).length))
        let s := s.countAdder .LADD_SAT u (new.foldl (fun a w => a + w.2.2.2) 0)
        State.onWrite u k (s.writeAll die (new.map (fun w => (f 12 + 4 * w.1, leBytes 4 w.2.1)) ++
          new.map (fun w => (f 4 + w.1, [BitVec.ofNat 8 w.2.2.1])) ++ [(f 16, leBytes 8 (c % 2 ^ 32))])))
      (s.readAll die (sent.map (fun b => (f 0 + 32 * b, 32)) ++ sent.map (fun b => (f 4 + b, 1)))))
    (s.readAll die [(f 8, ceilDiv n 8)])

/-- The new selection bitmap from the keys (R207), which FRAC = 16 does not need; the pour ends. -/
def State.renewSelect (s : State) (u : Nat) (r : Running) (c frac : Nat) : State :=
  let raw := r.held.bytes
  let die := unitDie u
  let f (o : Nat) : Nat := fieldAt raw o 4
  let n := f 20
  let write (s : State) (keys : List Nat) : State :=
    State.onWrite u (fun s => s.ended u) (s.writeAll die [(f 8, bitmapOf n (selectBlocks keys c frac))])
  if frac = 16 then write s (List.replicate n 0)
  else State.onRead u (fun s l => write s (wordsLE 4 n (l.headD []))) (s.readAll die [(f 12, 4 * n)])

/-- RENEW, with the step count, FRAC and the headroom of its launch. -/
def State.doRenew (s : State) (u : Nat) (r : Running) (c frac h : Nat) : State :=
  State.onRead u (fun s l =>
    if leNat (l.headD []) % 2 ^ 32 = c % 2 ^ 32 then s.renewSelect u r c frac
    else s.renewKeys u r c h (fun s => s.renewSelect u r c frac))
    (s.readAll (unitDie u) [(fieldAt r.held.bytes 16 4, 8)])

def execRenew (t unit : Nat) (s : State) : Host.Outcome State Fault Refusal :=
  let s := s.advance t
  match s.adderRuns unit 3 with
  | none => .next s
  | some r =>
    match r.prog with
    | .packing c frac h =>
      if s.ft < r.launched + portNs (256 + fieldAt r.held.bytes 20 4) then .next s else .next (s.doRenew unit r c frac h)
    | _ => .next s

/-! COMBINE (R200, R205). -/

/-- clamp(l + r) of R200: the byte, and whether the clamp changed the sum. -/
def gq8Add (l r : Int) : Nat × Bool :=
  let v := l + r
  let w := max (-127) (min 127 v)
  (ofInt 8 w, w != v)

/-- One block: its new element bytes and the saturations. -/
def combineBlock (take : Bool) (l r : List Nat) : List Byte × Nat :=
  let es := (l.zip r).map (fun (a, b) =>
    let (x, sx) := gq8Read a
    let (y, sy) := gq8Read b
    if take then (ofInt 8 y, b2n sy)
    else let (w, sat) := gq8Add x y; (w, b2n sx + b2n sy + b2n sat))
  (es.map (fun e => BitVec.ofNat 8 e.1), es.foldl (fun a e => a + e.2) 0)

/-- COMBINE over the selected blocks; no other block is read, and a TAKE does not read the elements that it writes over. -/
def State.doCombine (s : State) (u : Nat) (r : Running) (sel : List Nat) : State :=
  let raw := r.held.bytes
  let die := unitDie u
  let f (o : Nat) : Nat := fieldAt raw o 4
  let take : Bool := fieldAt raw 22 1 = 1
  let k := sel.length
  let own := if take then [] else sel.map (fun b => (f 0 + 32 * b, 32))
  State.onRead u (fun s l =>
    let scales := ((l.drop own.length).take k).map (fun b => (b.headD 0#8).toNat)
    let rx := pieces 33 k (l.getLastD [])
    let out := (List.range k).map (fun j =>
      let blk := rx.getD j []
      let w := combineBlock take (if take then List.replicate 32 0 else (l.getD j []).map BitVec.toNat) ((blk.take 32).map BitVec.toNat)
      (f 0 + 32 * sel.getD j 0, w.1, w.2, (blk.getD 32 0#8).toNat != scales.getD j 0))
    let mism := (out.filter (fun w => w.2.2.2)).length
    State.onWrite u (fun s =>
      let s := s.countAdder .LADD_SAT u (out.foldl (fun a w => a + w.2.2.1) 0)
      let s := s.countAdder .LADD_BLOCKS u k
      let s := s.countAdder .LADD_SCALE_MISM u mism
      (if mism = 0 then s else s.setCtx r.held.ctx (fun y => { y with stepFlags := y.stepFlags ||| 2 ^ 18 })).ended u)
      (s.writeAll die (out.map (fun w => (w.1, w.2.1)))))
    (s.readAll die (own ++ sel.map (fun b => (f 4 + b, 1)) ++ [(f 12, 33 * k)]))

/-- COMBINE: the selected blocks are known from the bitmap, and with them the receive buffer. -/
def execCombine (t unit : Nat) (s : State) : Host.Outcome State Fault Refusal :=
  let s := s.advance t
  match s.adderRuns unit 2 with
  | none => .next s
  | some r =>
    let raw := r.held.bytes
    let n := fieldAt raw 16 4
    let die := unitDie unit
    let k := (selected n (s.peekBytes (wsAt die (fieldAt raw 8 4)) (ceilDiv n 8))).length
    if r.prog ≠ .start || s.ft < r.launched + portNs (64 + ceilDiv k 2) then .next s
    else
      match s.load (wsAt die (fieldAt raw 8 4)) (ceilDiv n 8) with
      | (s, none) => .next (s.failPour unit stMemUncorrectable 0 0)
      | (s, some bs) =>
        let sel := selected n bs
        if !inBanks (s.ctx r.held.ctx).part die (fieldAt raw 12 4) (33 * sel.length) then
          .next (s.failPour unit stTranslationFault r.held.pour.desc 0)
        else .next (s.doCombine unit r sel)

/-! Segments: what a link adder accepts (R203, R204). -/

/-- The context that a segment's tag is bound to. -/
def State.tagCtx (s : State) (tag : Nat) : Option Nat := match s.tagSt tag with | some (.bound c) => some c | _ => none

/-- The heat that the 16 bits of HEAT name: the one in progress, or the one before. -/
def Ctx.heatOf (x : Ctx) (h16 : Nat) : Option Nat :=
  if h16 = x.heat % 65536 then some x.heat
  else if 0 < x.heat && h16 == (x.heat - 1) % 65536 then some (x.heat - 1)
  else none

/-- The bytes that a bucket segment writes lie in the context's banks on the receiving die. -/
def State.segBanks (s : State) (c die : Nat) (g : Seg) : Bool :=
  let a := gaLocal g.dest
  isWs a && wsDie a == die && inBanks (s.ctx c).part die (a - wsBase die) g.data.length

/-- A word of the referee or of a barrier (R213). -/
def Seg.isWord (g : Seg) : Bool := 2 ≤ g.kind && g.kind ≤ 5

/-- The checks of R204 in their order: the context, or the counter of the first check that fails. The words of the referee and of a
barrier pass the first check for a FAULTED context too, whose adders keep those roles (R218). -/
def State.segCheck (s : State) (die : Nat) (g : Seg) : Except Reg Nat :=
  match s.tagCtx g.tag with
  | none => .error .LADD_DROP_TAG
  | some c =>
    let x := s.ctx c
    if !(x.st == .running || (g.isWord && x.st == .faulted)) then .error .LADD_DROP_TAG
    else if g.gen ≠ x.gen then .error .LADD_DROP_GEN
    else if (x.heatOf g.heat).isNone then .error .LADD_DROP_HEAT
    else if g.kind < 2 && !s.segBanks c die g then .error .LADD_DROP_ADDR
    else .ok c

/-- A segment is checked at the adder of the port it came by: dropped and counted, or accepted. -/
def State.admitSeg (s : State) (port : Nat) (g : Seg) : State × Option Nat :=
  let u := unitId (port / 2) clsLADD (port % 2)
  match s.segCheck (port / 2) g with
  | .error r => (s.countAdder r u 1, none)
  | .ok c => (s.countAdder .LADD_SEGS_RX u 1, some c)

/-- An accepted bucket segment is written; DEST_FLAG rises once all segments of its SEND are there (R204). -/
def State.bucketIn (s : State) (port c : Nat) (g : Seg) : State :=
  let die := port / 2
  let u := unitId die clsLADD (port % 2)
  match s.save (gaLocal g.dest) g.data with
  | (s, false) => s
  | (s, true) =>
    let same (r : RxSend) : Bool := r.gen = g.gen && r.die == die && r.tag == g.tag && r.kind == g.kind && r.heat == g.heat && r.src == g.src
    let got := match s.rx.find? same with | some r => r.got | none => []
    let got := if got.contains g.first then got else got ++ [g.first]
    let rest := s.rx.filter (fun r => !same r)
    if got.length = g.segs then { s with rx := rest }.arrive c die g.destFlag u
    else
      let live (r : RxSend) : Bool := r.tag != g.tag || (r.gen == g.gen && ((s.ctx c).heatOf r.heat).isSome)
      { s with rx := rest.filter live ++ [⟨g.gen, die, g.tag, g.kind, g.heat, g.src, got⟩] }

/-- A bucket segment at this package. -/
def State.receiveBucket (s : State) (port : Nat) (g : Seg) : State :=
  match s.admitSeg port g with
  | (s, none) => s
  | (s, some c) => s.bucketIn port c g

/-- SEGMENT: a bucket segment is accepted or dropped, and answered in either case (R204, R301). -/
def execSegment (t port : Nat) (pkt : List Byte) (s : State) : Host.Outcome State Fault Refusal :=
  let s := s.advance t
  match s.takePkt port [tSegment] pkt with
  | (s, none) => .next s
  | (s, some k) =>
    let g := parseSeg k.body
    if g.kind ≥ 2 then .next s
    else .next ((s.receiveBucket port g).answer port k tWriteAck 0 [])

/-! SEND (R203). -/

/-- The packet of a segment. -/
def segPkt (src : Nat) (g : Seg) (dst birth : Nat) : Pkt :=
  { typ := tSegment, vc := 2, dst := dst, src := src, tag := 0, port := 0, addr := gaLocal g.dest, len := g.data.length
    birth := birth, ops := 0, flag := 0, epoch := 0, body := segBytes g }

/-- Nothing of the unit is outstanding at its port. -/
def State.portIdleFor (s : State) (u : Nat) : Bool := s.ports.all (fun x => x.tags.all (fun r => r.ended || r.unit != u))

/-- A SEND whose last segment has reached its home ends (R57). -/
def State.sendEnds (s : State) (u : Nat) : State :=
  match s.adderRuns u 1 with
  | some r =>
    match r.prog with
    | .waiting i n => if i = n && s.portIdleFor u then s.ended u else s
    | _ => s
  | none => s

/-- Issue the remaining segments as long as tags are free. -/
def State.sendSegs (u : Nat) (r : Running) (n : Nat) : List Seg → Nat → State → State
  | [], i, s => (s.setProg u (.waiting i n)).sendEnds u
  | g :: rest, i, s =>
    let port := adderPort u
    let dst := gaPkg g.dest
    if dst = s.pkgId then
      State.sendSegs u r n rest (i + 1) ((s.countAdder .LADD_SEGS_TX u 1).receiveBucket port g)
    else
      let q : Req := { tag := 0, dst := dst, typ := tSegment, birth := 0, addr := g.dest, unit := u, ctx := r.held.ctx, tile := i, part := 3
                       len := g.data.length }
      match s.issue port { segPkt s.pkgId g dst 0 with port := port } q with
      | (s, .noTag) => s.setProg u (.waiting i n)
      | (s, .noRoute) => s.failPour u stFabricTimeout g.dest 0
      | (s, .sent) => State.sendSegs u r n rest (i + 1) (s.countAdder .LADD_SEGS_TX u 1)

/-- SEND from its segment `i` on: the selected blocks in ascending order, 124 to a segment. -/
def State.doSend (s : State) (u : Nat) (r : Running) (i : Nat) : State :=
  let raw := r.held.bytes
  let die := unitDie u
  let blocks := fieldAt raw 16 4
  State.onRead u (fun s l =>
    match l with
    | [q, sc, bm] =>
      let data := (pieces 32 blocks q).zip sc
      let parts := chunksOf 124 (selected blocks bm)
      let x := s.ctx r.held.ctx
      let segs := (parts.zip (List.range parts.length)).map (fun (l, k) =>
        ({ tag := fieldAt raw 20 2, gen := x.gen, kind := fieldAt raw 22 1, heat := r.held.heat % 65536, src := s.pkgId, first := 124 * k
           count := l.length, segs := parts.length, dest := fieldAt raw 24 8 + 124 * k * 33, destFlag := fieldAt raw 32 2
           data := l.flatMap (fun b => let (e, x) := data.getD b ([], 0#8); e ++ [x]) } : Seg))
      State.sendSegs u r segs.length (segs.drop i) i s
    | _ => s.failPour u stMemUncorrectable 0 0) (s.readAll die (laddRanges 1 raw))

/-- A SEND goes on: it issues further segments, or ends. -/
def State.sendGoes (s : State) (u : Nat) : State :=
  match s.adderRuns u 1 with
  | some r =>
    match r.prog with
    | .start => s.doSend u r 0
    | .waiting i n => if i = n then s.sendEnds u else s.doSend u r i
    | _ => s
  | none => s

def execSend (t unit : Nat) (s : State) : Host.Outcome State Fault Refusal := .next ((s.advance t).sendGoes unit)

/-! The referee and the barrier (R213 to R221). -/

/-- A word of kinds 2 to 5 leaves the adder for another package of the mould. -/
def State.sendWord (s : State) (u c heat tag kind dst w : Nat) : State :=
  let g : Seg := { tag := tag, gen := (s.ctx c).gen, kind := kind, heat := heat % 65536, src := s.pkgId, first := 0, count := 1, segs := 1
                   dest := 0, destFlag := 0, data := leBytes 8 w }
  let port := adderPort u
  let s := s.countAdder .LADD_SEGS_TX u 1
  if s.carries port then s.enqueue port c { segPkt s.pkgId g dst (s.ft % 2 ^ 32) with port := port }
  else s.countPort .PORT_NO_ROUTE port 1

/-- The children of a node's descriptor, in CHILD order. -/
def children (desc : List Byte) : List Nat := (entriesAt desc 16 2 14).filter (fun p => p ≠ 0xFFFF)

/-- Fields of the referee word. -/
def wordFlags (w : Nat) : Nat := w &&& 0x1F0000
def wordGo (w : Nat) : Bool := bitOf w 8

/-- Change the node at the head of those that a predicate names. -/
def State.setNode (s : State) (n n' : Node) : State := { s with nodes := s.nodes.map (fun m => if m = n then n' else m) }

/-- Commit time of a VERDICT node (R217). -/
def Node.commit (n : Node) : Nat := at64 n.start (fieldAt n.desc 4 4)
def Node.upAt (n : Node) : Nat := at64 n.start (fieldAt n.desc 0 4)

/-- Every READY condition of a descriptor holds; then the counts are subtracted (R215). -/
def State.takeReady (s : State) (c : Nat) (desc : List Byte) : State × Bool :=
  let conds := (List.range 8).map (fun d => (d, fieldAt desc (64 + 4 * d) 2 % 1024, fieldAt desc (66 + 4 * d) 2))
  let x := s.ctx c
  if conds.all (fun (d, f, n) => n = 0 || n ≤ x.flag d f) then
    (s.setCtx c (fun x => conds.foldl (fun x (d, f, n) => if n = 0 then x else x.setFlag d f (x.flag d f - n)) x), true)
  else (s, false)

/-- The local word of a node without its HEAT_TAG and CONTRIB: flags and the three READY bits. DEDUCED (log 77): the local word of a barrier
carries no step flags, since a skipped step passes its barrier (R219, R221). -/
def State.localWord (s : State) (n : Node) : State × Nat :=
  let x := s.ctx n.ctx
  if n.barrier then
    let (s, done) := match x.verdict with
      | some (h, go) => if h ≠ n.heat then (s, false) else if go then s.takeReady n.ctx n.desc else (s, true)
      | none => (s, false)
    (s, b2n done + 2 * b2n (x.st == .running && !n.kept) + 4 * b2n s.ftHeldOrLocked)
  else
    let force := bitOf (s.reg .LADD_REF_CTRL 0 n.ctx) 0
    let s := s.setReg .LADD_REF_CTRL 0 n.ctx 0
    let s := s.setCtx n.ctx (fun x => { x with stepFlags := x.stepFlags ||| (2 ^ 20 * b2n force) })
    let (s, done) := s.takeReady n.ctx n.desc
    (s, wordFlags (s.ctx n.ctx).stepFlags + b2n done + 2 * b2n (x.st == .running && !n.kept) + 4 * b2n s.ftHeldOrLocked)

/-- Combine with a child's word, or with a missing one, which has READY bit 0 clear, CONTRIB 0 and MISSING set (R213, R215 and the
worked example after R223): `w` has CONTRIB in bits 47:32. -/
def combineWord (tag16 w : Nat) (child : Option Nat) : Nat :=
  let c := match child with
    | some c => if c >>> 48 = tag16 then some c else none
    | none => none
  match c with
  | some c =>
    2 ^ 32 * ((bitsOf w 47 32 + bitsOf c 47 32) % 65536) + (wordFlags w ||| wordFlags c) + (w % 8 &&& c % 8)
  | none => 2 ^ 32 * bitsOf w 47 32 + (wordFlags w ||| 2 ^ 19) + (w % 8 &&& 6)

/-- The verdict at the root (R216). -/
def rootGo (size w : Nat) : Bool := w % 8 == 7 && wordFlags w == 0 && bitsOf w 47 32 == size

/-- A barrier down word reaches a package: recorded, and with GO the named flags rise (R221). -/
def State.barrierApplies (s : State) (n : Node) (w : Nat) : State :=
  let s := s.setReg .LADD_BAR_LAST 0 n.ctx w
  if wordGo w then
    dies.foldl (fun s d =>
      let f := fieldAt n.desc (96 + 2 * d) 2
      if f = 0xFFFF then s else s.arrive n.ctx d f n.unit) s
  else s

/-- A node reaches UP_AT (R215, R216): its word goes up, or down from the root; the pour ends. -/
def State.nodeUp (s : State) (n : Node) : State :=
  let tag16 := n.heat % 65536
  let (s, low) := s.localWord n
  let w := (children n.desc).foldl (fun w p => combineWord tag16 w ((n.words.find? (fun q => q.1 = p)).map Prod.snd)) (low + 2 ^ 32)
  let w := w + 2 ^ 48 * tag16
  let parent := fieldAt n.desc 10 2
  let up := if n.barrier then 4 else 2
  let s :=
    if parent ≠ 0xFFFF then
      (s.setNode n { n with up := some w }).sendWord n.unit n.ctx n.heat n.tag up parent w
    else
      let w := w + 2 ^ 8 * b2n (rootGo (fieldAt n.desc 12 2) w)
      let s := s.setNode n { n with up := some w, down := some w }
      let s := (children n.desc).foldl (fun s p => s.sendWord n.unit n.ctx n.heat n.tag (up + 1) p w) s
      if n.barrier then s.barrierApplies n w else s
  if n.kept then s else s.ended n.unit

/-- A node of a context in the list: by generation, tag, kind and heat. -/
def Node.is (n : Node) (c gen tag heat : Nat) (barrier : Bool) : Bool :=
  n.ctx = c && n.gen == gen && n.tag == tag && n.heat == heat && n.barrier == barrier

/-- Nodes of old heats and generations go, but for the newest descriptor of each adder and kind (R218). -/
def State.pruneNodes (s : State) (c : Nat) : State :=
  let h := (s.ctx c).heat
  let g := (s.ctx c).gen
  let newest (n : Node) : Bool :=
    s.nodes.find? (fun m => m.ctx = c && m.unit == n.unit && m.barrier == n.barrier && !m.desc.isEmpty) = some n
  { s with nodes := s.nodes.filter (fun n => n.ctx ≠ c || (n.gen == g && h ≤ n.heat + 1) || (!n.desc.isEmpty && newest n)) }

/-- A role begins for a heat; words that came before it are kept. -/
def State.beginNode (s : State) (c unit heat start : Nat) (barrier kept : Bool) (desc : List Byte) : State :=
  let tag := fieldAt desc 8 2 % 4096
  let g := (s.ctx c).gen
  let early := match s.nodes.find? (fun n => n.is c g tag heat barrier) with | some n => n.words | none => []
  let s := { s with nodes := s.nodes.filter (fun n => !n.is c g tag heat barrier) }
  let s := s.pruneNodes c;
  { s with nodes := ⟨c, unit, tag, barrier, heat, start, desc, kept, early, none, none, false, g⟩ :: s.nodes }

/-- A VERDICT or BARRIER pour prepares its package's contribution. -/
def State.prepare (s : State) (unit action : Nat) : State :=
  match s.adderRuns unit action with
  | none => s
  | some r =>
    if r.prog ≠ .start then s
    else
      let h := r.held
      (s.beginNode h.ctx unit h.heat (h.due - 64 * h.pour.offset) (action == 0x21) false h.bytes).setProg unit (.waiting 0 0)

def execVerdict (t unit : Nat) (s : State) : Host.Outcome State Fault Refusal := .next ((s.advance t).prepare unit 0x20)

def execBarrier (t unit : Nat) (s : State) : Host.Outcome State Fault Refusal := .next ((s.advance t).prepare unit 0x21)

/-- The node of a context on an adder whose UP_AT has come, when its pour still runs or it is kept. -/
def State.dueNode (s : State) (c unit : Nat) (barrier : Bool) : Option Node :=
  s.nodes.find? (fun n => n.ctx = c && n.gen == (s.ctx c).gen && n.unit == unit && n.barrier == barrier && !n.desc.isEmpty && n.up.isNone && n.upAt ≤ s.ft &&
    (n.kept || (s.adderRuns unit (if barrier then 0x21 else 0x20)).isSome))

/-- The role of a FAULTED context for the heat in progress begins on the kept descriptor (R218), once. -/
def State.keptRole (s : State) (c unit : Nat) (barrier : Bool) : State :=
  let x := s.ctx c
  let mine (n : Node) : Bool := n.ctx = c && n.unit == unit && n.barrier == barrier && !n.desc.isEmpty
  if x.st ≠ .faulted || s.nodes.any (fun n => mine n && n.gen == x.gen && n.heat == x.heat) then s
  else
    match s.nodes.find? mine with
    | some n => if s.ft < at64 x.heatStart (fieldAt n.desc 0 4) then s else s.beginNode c unit x.heat x.heatStart barrier true n.desc
    | none => s

/-- A node's UP_AT. -/
def State.upAt (s : State) (c unit : Nat) (barrier : Bool) : State :=
  let s := s.keptRole c unit barrier
  match s.dueNode c unit barrier with
  | some n => s.nodeUp n
  | none => s

def execRefereeUpAt (t ctx unit : Nat) (s : State) : Host.Outcome State Fault Refusal := .next ((s.advance t).upAt ctx unit false)

def execBarrierUpAt (t ctx unit : Nat) (s : State) : Host.Outcome State Fault Refusal := .next ((s.advance t).upAt ctx unit true)

/-- A child's word reaches a node (R215): kept until UP_AT, or dropped as late. -/
def State.wordUp (s : State) (c : Nat) (barrier : Bool) (g : Seg) : State :=
  let x := s.ctx c
  match x.heatOf g.heat with
  | none => s
  | some heat =>
    let w := leNat (g.data.take 8)
    match s.nodes.find? (fun n => n.is c x.gen g.tag heat barrier) with
    | some n =>
      if n.up.isSome then s.count .LADD_REF_LATE 0 c 1
      else s.setNode n { n with words := n.words.filter (fun q => q.1 ≠ g.src) ++ [(g.src, w)] }
    | none => { s with nodes := s.nodes ++ [⟨c, 0, g.tag, barrier, heat, 0, [], false, [(g.src, w)], none, none, false, x.gen⟩] }

/-- A down word reaches a node (R216, R217, R221): forwarded when it matches the last up word; a verdict after C is late. -/
def State.wordDown (s : State) (c : Nat) (barrier : Bool) (g : Seg) : State :=
  let w := leNat (g.data.take 8)
  let ups := s.nodes.filter (fun n => n.ctx = c && n.gen == (s.ctx c).gen && n.tag == g.tag && n.barrier == barrier && n.up.isSome)
  match ups.find? (fun n => n.heat % 65536 = w >>> 48) with
  | none => s
  | some n =>
    if n.down.isSome then s
    else
      let s := if ups.head? = some n then
          (children n.desc).foldl (fun s p => s.sendWord n.unit c n.heat n.tag g.kind p w) s
        else s
      if barrier then (s.setNode n { n with down := some w }).barrierApplies n w
      else if s.ft > n.commit then (s.setNode n { n with down := some w, applied := true }).count .LADD_REF_LATE 0 c 1
      else s.setNode n { n with down := some w }

/-- A referee or barrier segment of a kind at this package. -/
def State.takeWord (s : State) (port : Nat) (pkt : List Byte) (kind : Nat) : State :=
  match s.takePkt port [tSegment] pkt with
  | (s, none) => s
  | (s, some k) =>
    let g := parseSeg k.body
    if g.kind ≠ kind then s
    else
      match s.admitSeg port g with
      | (s, none) => s
      | (s, some c) => if kind % 2 = 0 then s.wordUp c (kind == 4) g else s.wordDown c (kind == 5) g

def execRefereeUpRx (t port : Nat) (pkt : List Byte) (s : State) : Host.Outcome State Fault Refusal := .next ((s.advance t).takeWord port pkt 2)
def execRefereeDownRx (t port : Nat) (pkt : List Byte) (s : State) : Host.Outcome State Fault Refusal := .next ((s.advance t).takeWord port pkt 3)
def execBarrierUpRx (t port : Nat) (pkt : List Byte) (s : State) : Host.Outcome State Fault Refusal := .next ((s.advance t).takeWord port pkt 4)
def execBarrierDownRx (t port : Nat) (pkt : List Byte) (s : State) : Host.Outcome State Fault Refusal := .next ((s.advance t).takeWord port pkt 5)

/-- A pour is passed over silently: it is marked OVER_LAST, and its heat ends no over (R62). -/
def Ctx.passesOver (x : Ctx) (h : Held) : Bool := h.pour.overLast && (h.heat + 1) % x.overN != 0

/-- A verdict settles the GATED pours of its heat that were handed over: with go they can launch, and after a skip those that are due
are not run, counted but for those that are passed over silently anyhow (R62). -/
def State.settleGated (s : State) (c heat : Nat) (go : Bool) : State :=
  let hit (h : Held) : Bool := h.ctx = c && h.heat == heat && h.pour.gated
  if go then { s with units := s.units.map (fun p : Nat × UnitSt =>
    (p.1, { p.2 with queue := p.2.queue.map (fun h => if hit h then { h with go := true } else h) })) }
  else
    let out := s.units.flatMap (fun p : Nat × UnitSt => p.2.queue.filter (fun h => hit h && h.due ≤ s.ft))
    let s := (out.filter (fun h => !(s.ctx c).passesOver h)).foldl (fun s h => s.count .PLAN_SKIPPED_GATED h.die c 1) s
    { s with units := s.units.map (fun p : Nat × UnitSt =>
      (p.1, { p.2 with queue := p.2.queue.filter (fun h => !(hit h && h.due ≤ s.ft)) })) }

/-- The verdict of a node is applied (R217, R219); a context that is not RUNNING applies none. -/
def State.applyVerdict (s : State) (n : Node) : State :=
  let c := n.ctx
  let s := s.setNode n { n with applied := true }
  match n.down with
  | none => s
  | some w =>
    if (s.ctx c).st ≠ .running then s
    else
      let go := wordGo w
      let s := (s.setReg .LADD_REF_LAST 0 c w).setReg .LADD_REF_LAST_HEAT 0 c n.heat
      let s := s.setCtx c (fun x => { x with
        verdict := some (n.heat, go), stepCount := if go then (x.stepCount + 1) % 2 ^ 64 else x.stepCount })
      let s := s.settleGated c n.heat go
      if go then s.count .LADD_REF_GO 0 c 1
      else (s.count .LADD_REF_SKIP 0 c 1).event c ⟨stStepSkipped, 0, true, 0, n.heat, w⟩

/-- VERDICT_APPLY: at C = heat start + COMMIT × 64 ns. -/
def execVerdictApply (t ctx : Nat) (s : State) : Host.Outcome State Fault Refusal :=
  let s := s.advance t
  match s.nodes.find? (fun n => n.ctx = ctx && n.gen == (s.ctx ctx).gen && !n.barrier && n.up.isSome && !n.applied && n.commit ≤ s.ft) with
  | some n => .next (s.applyVerdict n)
  | none => .next s

/-- A write to LADD_REF_CTRL: FORCE_SKIP is W1S (R220). -/
def State.writeRefCtrl (s : State) (c v : Nat) : State := if bitOf v 0 then s.setReg .LADD_REF_CTRL 0 c 1 else s

def execLaddRefCtrlWrite (t ctx value : Nat) (s : State) : Host.Outcome State Fault Refusal :=
  let s := s.advance t
  if ctx ≥ 16 then .next s else .next (s.writeRefCtrl ctx value)

end Sys2Proof.Machine
end

