-- ==== Sys2Proof/Machine/Optim.lean ====
section
/-!
DEFINITION. Shards and the optimiser's arithmetic (R225 to R228, R235 to R239, R244, R245): shard descriptors, the moment and weight
phases, the compute copy and the digest fold.
-/
namespace Sys2Proof.Machine

/-! Shards. -/

/-- A shard descriptor (R228). -/
structure Shard where
  tid : Nat
  group : Nat
  fmt : Fmt
  scaled : Bool
  mode : Nat
  w : Nat
  m1 : Nat
  m2 : Nat
  c : Nat
  cs : Nat
  tag : Nat
  dig : Nat
  g : Nat
  gs : Nat
  gdie : Nat
  shape : List Nat
  origin : List Nat
  extent : List Nat
  ctid : Nat
  deriving DecidableEq, Repr

/-- The fields of a shard descriptor, as they stand. -/
def shardOf (b : List Byte) : Shard :=
  let f (o : Nat) : Nat := fieldAt b o 4
  let cf := fieldAt b 4 1
  { tid := f 0 % 2 ^ 24, group := f 0 / 2 ^ 24, fmt := if cf % 16 = 2 then .bf16 else .e4m3, scaled := bitOf cf 4, mode := bitsOf cf 6 5
    w := f 8, m1 := f 12, m2 := f 16, c := f 20, cs := f 24, tag := f 28, dig := f 32, g := f 36, gs := f 40, gdie := fieldAt b 44 1
    shape := entriesAt b 48 4 5, origin := entriesAt b 68 4 5, extent := entriesAt b 88 4 5, ctid := f 108 }

def prod (l : List Nat) : Nat := l.foldl (· * ·) 1

/-- Positions of a padded row (R82, R226), rows, positions and update blocks of a shard. -/
def Shard.row (d : Shard) : Nat := ceilDiv (d.shape.getD 0 1) 32 * 32
def Shard.positions (d : Shard) : Nat := d.row * prod (d.extent.drop 1)
def Shard.blocks (d : Shard) : Nat := ceilDiv d.positions 1024

/-- Groups of 32 positions that a block holds (R226). -/
def Shard.groupsOf (d : Shard) (b : Nat) : Nat := min 32 ((d.positions - 1024 * b) / 32)

/-- Valid elements at the start of group `g` of block `b`; the rest are pads. -/
def Shard.validIn (d : Shard) (b g : Nat) : Nat := min 32 (d.shape.getD 0 1 - (1024 * b + 32 * g) % d.row)

/-- The valid positions of a block, in ascending order. -/
def Shard.valids (d : Shard) (b : Nat) : List Nat :=
  (List.range (d.groupsOf b)).flatMap (fun g => countFrom (32 * g) (d.validIn b g))

/-- Logical index of a padded position (R95, R226). -/
def Shard.index (d : Shard) (pos : Nat) : Nat :=
  let (_, idx, _) := (List.range 4).foldl (fun (a : Nat × Nat × Nat) k =>
    let (r, idx, stride) := a
    let e := d.extent.getD (k + 1) 1
    (r / e, idx + (d.origin.getD (k + 1) 0 + r % e) * stride, stride * d.shape.getD (k + 1) 1))
    (pos / d.row, pos % d.row, d.shape.getD 0 1)
  idx

/-- Bytes of one compute copy element. -/
def Shard.copyWidth (d : Shard) : Nat := if d.fmt = .bf16 then 2 else 1

/-- The arrays of a shard: channel offset and length (R227), the digest entry last; `fact` in the factored mode. -/
def Shard.arrays (d : Shard) (fact : Bool) : List (Nat × Nat) :=
  let n := d.positions
  [(d.w, 4 * n), (d.m1, 4 * n), (d.m2, if fact then 256 * d.blocks else 4 * n), (d.c, d.copyWidth * n),
   (d.cs, if d.scaled then n / 32 else 0), (d.tag, 8 * d.blocks), (d.dig, 32)]

/-- The fields of a shard descriptor have their ranges (R228, R95). -/
def shardFieldsOk (b : List Byte) : Bool :=
  let d := shardOf b
  let cf := fieldAt b 4 1
  (cf % 16 == 2 || cf % 16 == 4) && (!d.scaled || cf % 16 == 4) && d.mode < 3 && !bitOf cf 7 && zeroAt b 5 3 && zeroAt b 45 3 &&
  zeroAt b 112 16 && d.w % 4096 == 0 && d.m1 % 4096 == 0 && d.m2 % 256 == 0 && d.c % 64 == 0 && d.tag % 8 == 0 && d.dig % 32 == 0 &&
  d.g < 2 ^ 30 && d.gs < 2 ^ 30 && d.gdie < 8 && d.ctid < 2 ^ 24 && d.origin.getD 0 0 == 0 && d.extent.getD 0 0 == d.shape.getD 0 0 &&
  (d.shape.zip (d.origin.zip d.extent)).all (fun (s, o, e) => 1 ≤ s && 1 ≤ e && o + e ≤ s) &&
  (d.mode != 2 || prod d.shape ≤ 2 ^ 40) && d.w < 2 ^ 31

/-- The check of a shard descriptor for a context (R228): OK, BAD_PARAM or TRANSLATION_FAULT. An array that runs past the channel's 2 GiB
lies in no channel. -/
def shardCheck (p : Part) (b : List Byte) (fact : Bool) : Nat :=
  let d := shardOf b
  if !shardFieldsOk b then stBadParam
  else if !((d.arrays fact).all (fun r => r.2 = 0 || r.1 + r.2 ≤ 2 ^ 31) && inBanks p d.gdie d.g d.positions &&
    inBanks p d.gdie d.gs (d.positions / 32)) then stTranslationFault
  else stOk

/-! Hyperparameters (R235, R236). -/

/-- The default of a hyperparameter. -/
def hyperDefault : Nat → Nat
  | 1 => 2 | 3 => 0x3F666666 | 4 => 0x3F7FBE77 | 5 => 0x322BCC77 | 7 => 0x3F800000 | 9 => 2 | 10 => 0x0D800000 | _ => 0

/-- The value of FP32 arithmetic, rounded once (R92). -/
def r32 (v : Val) : Val := rneVal .fp32 v
def fma32 (a b c : Val) : Val := r32 (vAdd (vMul a b) c)

/-- A power, exactly. -/
def vPow (v : Val) (t : Nat) : Val :=
  match v with
  | .fin neg m e => .fin (neg && t % 2 == 1) (m ^ t) (e * t)
  | v => if t = 0 then vOne else v

/-- What a unit forms once per pour (R236), from the hyperparameters k ↦ value and the target epoch. -/
structure Hyper where
  opt : Nat
  lr : Val
  beta1 : Val
  beta2 : Val
  eps : Val
  wd : Val
  gscale : Val
  mu : Val
  nesterov : Bool
  bias : Bool
  eps2 : Val
  a1 : Val
  a2 : Val
  dec : Val
  c1 : Val
  c2 : Val
  deriving DecidableEq, Repr

def hyperOf (h : Nat → Nat) (t : Nat) : Hyper :=
  let f (k : Nat) : Val := valOf .fp32 (h k % 2 ^ 32)
  let corr (b : Val) : Val := r32 (vSub vOne (r32 (vPow b t)))
  { opt := h 1, lr := f 2, beta1 := f 3, beta2 := f 4, eps := f 5, wd := f 6, gscale := f 7, mu := f 8
    nesterov := bitOf (h 9) 0, bias := bitOf (h 9) 1, eps2 := f 10
    a1 := r32 (vSub vOne (f 3)), a2 := r32 (vSub vOne (f 4)), dec := r32 (vMul (f 2) (f 6))
    c1 := if bitOf (h 9) 1 then corr (f 3) else vOne, c2 := if bitOf (h 9) 1 then corr (f 4) else vOne }

/-- The gradient of an element: GQ8 element `q` at scale byte `x` (R236). -/
def gradOf (p : Hyper) (q : Int) (x : Nat) : Val := r32 (vMul (r32 (scaledBy x (vInt q))) p.gscale)

/-- sign of R236. -/
def signOf (v : Val) : Val := match v with | .nan => .nan | v => if vIsZero v then vZero else if vSign v then vNeg vOne else vOne

/-- The moment phase of one element, other than in the factored mode: M1 and M2. -/
def momentElem (p : Hyper) (w m v g : Val) : Val × Val :=
  let decays := !vIsZero p.wd
  match p.opt with
  | 0 =>
    let g := if decays then fma32 p.wd w g else g
    let b := fma32 p.mu m g
    (b, if p.nesterov then fma32 p.mu b g else b)
  | 3 => (fma32 p.beta2 m (r32 (vMul p.a2 g)), signOf (fma32 p.beta1 m (r32 (vMul p.a1 g))))
  | _ =>
    let g := if p.opt = 1 && decays then fma32 p.wd w g else g
    (fma32 p.beta1 m (r32 (vMul p.a1 g)), fma32 p.beta2 v (r32 (vMul p.a2 (r32 (vMul g g)))))

/-- The quotient u of R236 and R237. -/
def stepOf (p : Hyper) (m v : Val) : Val :=
  let mh := if p.bias then r32 (vDiv m p.c1) else m
  let vh := if p.bias then r32 (vDiv v p.c2) else v
  r32 (vDiv mh (r32 (vAdd (r32 (vSqrt vh)) p.eps)))

/-- The weight phase of one element; `v` is its second moment, or vh in the factored mode. -/
def weightElem (p : Hyper) (w m v : Val) : Val :=
  let decayed := fma32 (vNeg p.dec) w w
  match p.opt with
  | 0 => fma32 (vNeg p.lr) v w
  | 1 => fma32 (vNeg p.lr) (stepOf p m v) w
  | 3 => fma32 (vNeg p.lr) v decayed
  | _ => fma32 (vNeg p.lr) (stepOf p m v) decayed

/-- Sum in ascending order, each addition rounded (R237). -/
def sum32 (l : List Val) : Val := match l with | [] => vZero | a :: l => l.foldl (fun x y => r32 (vAdd x y)) a

/-- The statistics of a block in the factored mode: rows then columns, from the old ones and the gradients by position. -/
def factStats (p : Hyper) (old : List Val) (g : List (Nat × Val)) : List Val :=
  let s (i j : Nat) : Val := match g.find? (fun q => q.1 = 32 * i + j) with
    | some q => r32 (vAdd (r32 (vMul q.2 q.2)) p.eps2)
    | none => vZero
  let mean (l : List Val) : Val := r32 (vScale (-5) (sum32 l))
  let row (i : Nat) : Val := mean ((List.range 32).map (s i))
  let col (j : Nat) : Val := mean ((List.range 32).map (fun i => s i j))
  let upd (k : Nat) (v : Val) : Val := fma32 p.beta2 (old.getD k vZero) (r32 (vMul p.a2 v))
  (List.range 32).map (fun i => upd i (row i)) ++ (List.range 32).map (fun j => upd (32 + j) (col j))

/-- vh of a position in the factored mode, before the bias correction (R237). -/
def factV (stats : List Val) (pos : Nat) : Val :=
  let rbar := r32 (vScale (-5) (sum32 (stats.take 32)))
  r32 (vDiv (r32 (vMul (stats.getD (pos / 32) vZero) (stats.getD (32 + pos % 32) vZero))) rbar)

/-! Digests (R244, R245). -/

def rot64 (v r : Nat) : Nat := rotl 64 v r

/-- The fold over 64-bit words: a 128-bit digest. -/
def digestOf (tid first epoch : Nat) (words : List Nat) : Nat :=
  let m := 2 ^ 64
  let (h0, h1, k) := words.foldl (fun (a : Nat × Nat × Nat) x =>
    let (h0, h1, k) := a
    (rot64 ((0x9E3779B97F4A7C15 * (h0 ^^^ x)) % m) 29, rot64 ((0xC2B2AE3D27D4EB4F * (h1 + (x ^^^ k))) % m) 31, k + 1))
    (0x6A09E667F3BCC908 ^^^ tid, (0xBB67AE8584CAA73B ^^^ first) % m, 0)
  let h0 := ((h0 ^^^ k) + (h1 ^^^ epoch)) % m
  let h1 := rot64 (h1 ^^^ (0x9E3779B97F4A7C15 * h0 % m)) 23
  h1 * m + h0

/-- A digest over digests (R245). -/
def digestOfDigests (l : List Nat) : Nat := digestOf 0 0 0 (l.flatMap (fun d => [d % 2 ^ 64, d / 2 ^ 64]))

end Sys2Proof.Machine
end

