-- ==== Sys2Proof/Machine/Update.lean ====
section
/-!
DEFINITION. The update units (chapter 09): the rows SWEEP to COMPARE_DECIDE_AT, EXPORT_SHARD and DIGEST_QUERY.
-/
namespace Sys2Proof.Machine

/-! A channel by its own offsets (R226): pieces of 4 KiB granules. -/

/-- Read at a channel offset; the fuel is at least the number of granules. -/
def State.chRead (ch : Nat) : Nat → Nat → Nat → State → State × Option (List Byte)
  | 0, _, _, s => (s, some [])
  | k + 1, off, n, s =>
    if n = 0 then (s, some [])
    else
      let m := min n (4096 - off % 4096)
      match s.load (s.channelAddr ch off) m with
      | (s, none) => (s, none)
      | (s, some a) =>
        match State.chRead ch k (off + m) (n - m) s with
        | (s, some b) => (s, some (a ++ b))
        | (s, none) => (s, none)

def State.chLoad (s : State) (ch off n : Nat) : State × Option (List Byte) := State.chRead ch (n / 4096 + 2) off n s

/-- Write at a channel offset; false when a write was not applied. -/
def State.chWrite (ch : Nat) : Nat → Nat → List Byte → State → State × Bool
  | 0, _, _, s => (s, true)
  | k + 1, off, bs, s =>
    if bs.isEmpty then (s, true)
    else
      let m := min bs.length (4096 - off % 4096)
      match s.save (s.channelAddr ch off) (bs.take m) with
      | (s, false) => (s, false)
      | (s, true) => State.chWrite ch k (off + m) (bs.drop m) s

def State.chSave (s : State) (ch off : Nat) (bs : List Byte) : State × Bool := State.chWrite ch (bs.length / 4096 + 2) off bs s

/-- Words of 4 bytes at the valid positions of a block of an array at `base`: group after group, pads untouched (R227). -/
def State.readBlock (d : Shard) (ch base b : Nat) : List Nat → State → State × Option (List Nat)
  | [], s => (s, some [])
  | g :: rest, s =>
    let k := d.validIn b g
    match s.chLoad ch (base + 4096 * b + 128 * g) (4 * k) with
    | (s, none) => (s, none)
    | (s, some bs) =>
      match State.readBlock d ch base b rest s with
      | (s, some l) => (s, some (wordsLE 4 k bs ++ l))
      | (s, none) => (s, none)

/-- A range of a channel as writes of one 64-byte line or less each. -/
def lineWrites (off : Nat) (bs : List Byte) : List (Nat × List Byte) := linePieces off bs

/-- The writes of words at the valid positions of a block. -/
def blockWrites (d : Shard) (base b : Nat) : List Nat → List Nat → List (Nat × List Byte)
  | [], _ => []
  | g :: rest, ws =>
    let k := d.validIn b g
    lineWrites (base + 4096 * b + 128 * g) ((ws.take k).flatMap (leBytes 4)) ++ blockWrites d base b rest (ws.drop k)

/-- Values of FP32 words, and their bits. -/
def vals32 (ws : List Nat) : List Val := ws.map (valOf .fp32)
def bits32 (vs : List Val) : List Nat := vs.map (fun v => (roundTo .fp32 .rne v).bits)

/-! Regions and hyperparameters. -/

/-- A hyperparameter in force for a tensor group on a unit (R235). -/
def Ctx.hyper (x : Ctx) (unit group k : Nat) : Nat := (x.setting unit (256 * k + group)).getD (hyperDefault k)

/-- The tensor group of a shard is in the factored mode. -/
def Ctx.factored (x : Ctx) (unit : Nat) (d : Shard) : Bool := x.hyper unit d.group 1 == 4

/-- The regions of one shard table of a unit, in table order. -/
def State.tableRegions (s : State) (unit table : Nat) : List Region :=
  sortBy (fun r => r.shard) (s.regions.filter (fun r => r.unit = unit && r.table == table))

/-- Set the epoch of a region (R193). -/
def State.setEpoch (s : State) (r : Region) (e : Nat) : State :=
  { s with regions := s.regions.map (fun q =>
      if q.unit = r.unit && q.table == r.table && q.shard == r.shard then { q with epoch := e % 2 ^ 32 } else q) }

/-- The epoch of a shard: its region's when the region has that descriptor, else its digest entry's (R229). -/
def State.epochOf (s : State) (ch unit table i : Nat) (raw : List Byte) : State × Option Nat :=
  match s.regions.find? (fun r => r.unit = unit && r.table == table && r.shard == i && r.desc == raw) with
  | some r => (s, some r.epoch)
  | none =>
    match s.chLoad ch (shardOf raw).dig 32 with
    | (s, some e) => (s, some (fieldAt e 16 4))
    | (s, none) => (s, none)

/-- Read a shard table and its digest entries: descriptors with the epochs their regions have, or take from the entries (R229). -/
def State.readTable (ch unit table c : Nat) : List Nat → State → State × Option (List Region)
  | [], s => (s, some [])
  | i :: rest, s =>
    match s.chLoad ch (table + 128 * i) 128 with
    | (s, none) => (s, none)
    | (s, some raw) =>
      match s.epochOf ch unit table i raw with
      | (s, none) => (s, none)
      | (s, some e) =>
        match State.readTable ch unit table c rest s with
        | (s, some l) => (s, some (⟨unit, table, i, c, e, raw⟩ :: l))
        | (s, none) => (s, none)

/-- The epochs of the regions that have a byte in the 64-byte line of a tier-1 address (R193, R195): weights, compute copy and its
scales. -/
def State.epochsAt (s : State) (a : Nat) : List Nat :=
  let (ch, off) := s.channelAt (64 * (a / 64))
  (s.regions.filter (fun r =>
    channelOf r.unit = ch &&
    (let d := shardOf r.desc
     let meets (lo n : Nat) : Bool := lo < off + 64 && off < lo + n
     meets d.w (4 * d.positions) || meets d.c (d.copyWidth * d.positions) || (d.scaled && meets d.cs (d.positions / 32))))).map
    (fun r => r.epoch)

/-- The epoch of a region in the line that differs from the one a fenced read carries (R195). -/
def State.staleAt (s : State) (e a : Nat) : Option Nat := (s.epochsAt a).find? (fun r => r ≠ e)

/-! Descriptors (R230, R247). -/

/-- The check of a fetched update-unit descriptor (R230, R247): OK, BAD_PARAM or TRANSLATION_FAULT. A shard table past the channel's 2 GiB
lies in no channel. -/
def uuCheck (p : Part) (h : Pour) (raw : List Byte) : Nat :=
  if h.action = 3 then
    let f (o : Nat) : Nat := fieldAt raw o 4
    if f 0 < f 4 && f 4 < f 8 && pkgOrNone (fieldAt raw 12 2) && 1 ≤ fieldAt raw 14 2 && fieldAt raw 14 2 ≤ 16384 &&
       (entriesAt raw 16 2 14).all pkgOrNone && fieldAt raw 44 2 < fieldAt raw 14 2 && fieldAt raw 46 2 < 4096 && f 48 < 2 ^ 30 &&
       zeroAt raw 52 76 then
      if inBanks p 0 (f 48) 1024 then stOk else stTranslationFault
    else stBadParam
  else if h.action = 1 || h.action == 2 || h.action == 4 then
    let n := fieldAt raw 4 2
    if fieldAt raw 0 4 % 128 == 0 && 1 ≤ n && n ≤ 256 && zeroAt raw 6 2 &&
       (h.action == 2 || (zeroAt raw 8 4 && zeroAt raw 16 8)) && zeroAt raw 12 4 && zeroAt raw 24 40 then
      if fieldAt raw 0 4 + 128 * n ≤ 2 ^ 31 then stOk else stTranslationFault
    else stBadParam
  else stBadParam

/-! SWEEP and RESUME (R231 to R234, R242, R495). -/

/-- Count at an update unit. -/
def State.countUnit (s : State) (r : Reg) (u n : Nat) : State := s.count r (unitDie u) (unitInst u) n

/-- What ends a sweep early: status code and address. -/
structure SweepErr where
  code : Nat
  addr : Nat
  deriving DecidableEq, Repr

def eccErr : SweepErr := ⟨stMemUncorrectable, 0⟩

/-- The tag state of a block toward epoch `e`: 0 OLD, 1 MOMENTS_DONE, 2 DONE, 3 reserved (R232). -/
def tagState (w e : Nat) : Nat := if w / 2 ^ 32 = e then w % 4 else 0
def tagWord (e st : Nat) : List Byte := leBytes 8 (2 ^ 32 * e + st)

/-- Several blocks of arrays at once; none on an uncorrectable word. -/
def State.readBlocks (d : Shard) (ch b : Nat) : List Nat → State → State × Option (List (List Nat))
  | [], s => (s, some [])
  | base :: rest, s =>
    match State.readBlock d ch base b (List.range (d.groupsOf b)) s with
    | (s, none) => (s, none)
    | (s, some l) =>
      match State.readBlocks d ch b rest s with
      | (s, some ls) => (s, some (l :: ls))
      | (s, none) => (s, none)

/-- Read two ranges; none on an uncorrectable word. -/
def State.loadTwo (s : State) (a n a' n' : Nat) : State × Option (List Byte × List Byte) :=
  match s.load a n with
  | (s, none) => (s, none)
  | (s, some q) =>
    match s.load a' n' with
    | (s, none) => (s, none)
    | (s, some r) => (s, some (q, r))

/-- The gradients of a block from its GQ8 elements and scale bytes. -/
def gradsOf (u : Nat) (d : Shard) (p : Hyper) (b : Nat) : State × Option (List Byte × List Byte) → State × Except SweepErr (List Val)
  | (s, none) => (s, .error eccErr)
  | (s, some (q, sc)) =>
    if sc.any (fun x => x.toNat > 0xF8) then (s, .error ⟨stBadParam, 0⟩)
    else
      let els := (d.valids b).map (fun i => (gq8Read (q.getD i 0#8).toNat, (sc.getD (i / 32) 0#8).toNat))
      let s := s.countUnit .UU_SAT u (els.filter (fun e => e.1.2)).length
      (s, .ok (els.map (fun e => gradOf p e.1.1 e.2)))

/-- The gradients of a block: elements and scale bytes of its valid positions (R228, R236). An error of reading, or of a scale byte
above 0xF8. Elements 0x80 count. -/
def State.readGrads (s : State) (u : Nat) (d : Shard) (p : Hyper) (b : Nat) : State × Except SweepErr (List Val) :=
  let n := 32 * d.groupsOf b
  gradsOf u d p b (s.loadTwo (wsAt d.gdie (d.g + 1024 * b)) n (wsAt d.gdie (d.gs + 32 * b)) (n / 32))

/-- Second moments of a block as the optimiser keeps them: by position, or 64 statistics. -/
def State.readM2 (s : State) (d : Shard) (ch b : Nat) (fact : Bool) : State × Option (List Nat) :=
  if fact then
    match s.chLoad ch (d.m2 + 256 * b) 256 with
    | (s, some bs) => (s, some (wordsLE 4 64 bs))
    | (s, none) => (s, none)
  else State.readBlock d ch d.m2 b (List.range (d.groupsOf b)) s

/-- The writes of second moments: by position, or 64 statistics. -/
def m2Writes (d : Shard) (b : Nat) (fact : Bool) (ws : List Nat) : List (Nat × List Byte) :=
  if fact then lineWrites (d.m2 + 256 * b) (ws.flatMap (leBytes 4)) else blockWrites d d.m2 b (List.range (d.groupsOf b)) ws

/-- The moment phase of a block in OLD (R232): its writes are M1, M2, then the tag. -/
def State.momentPhase (s : State) (u : Nat) (d : Shard) (p : Hyper) (e b : Nat) : State × Except SweepErr (List (Nat × List Byte)) :=
  let ch := channelOf u
  let fact := p.opt == 4
  match State.readBlocks d ch b [d.w, d.m1] s with
  | (s, some [w, m1]) =>
    match (if p.opt = 0 || p.opt == 3 then (s, some (w.map (fun _ => 0))) else s.readM2 d ch b fact) with
    | (s, none) => (s, .error eccErr)
    | (s, some m2) =>
      match s.readGrads u d p b with
      | (s, .error x) => (s, .error x)
      | (s, .ok g) =>
        let els := (vals32 w).zip ((vals32 m1).zip g)
        let new : List (Val × Val) :=
          if fact then els.map (fun (_, m, g) => (fma32 p.beta1 m (r32 (vMul p.a1 g)), vZero))
          else (els.zip (vals32 m2)).map (fun ((w, m, g), v) => momentElem p w m v g)
        let n1 := bits32 (new.map Prod.fst)
        let n2 := bits32 (if fact then factStats p (vals32 m2) ((d.valids b).zip g) else new.map Prod.snd)
        let bad := (new.filter (fun q => !vFinite q.1 || !vFinite q.2)).length
        let s := (s.countUnit .UU_BLOCKS u 1).countUnit .UU_NONFINITE u bad
        let s := s.charge (unitDie u) (acctOf (s.channelOwner ch)) 11 1
        (s, .ok (blockWrites d d.m1 b (List.range (d.groupsOf b)) n1 ++ m2Writes d b fact n2 ++ [(d.tag + 8 * b, tagWord e 1)]))
  | (s, _) => (s, .error eccErr)

/-- The weight phase of a block in MOMENTS_DONE: W, then the tag. `old` says that this pour wrote the block's moments too. -/
def State.weightPhase (s : State) (u : Nat) (d : Shard) (p : Hyper) (e b : Nat) (old : Bool) : State × Except SweepErr (List (Nat × List Byte)) :=
  let ch := channelOf u
  let fact := p.opt == 4
  match State.readBlocks d ch b [d.w, d.m1] s with
  | (s, some [w, m1]) =>
    match s.readM2 d ch b fact with
    | (s, none) => (s, .error eccErr)
    | (s, some m2) =>
      let st := vals32 m2
      let second := if fact then (d.valids b).map (factV st) else st
      let els := (vals32 w).zip ((vals32 m1).zip second)
      let new := els.map (fun (w, m, v) => weightElem p w m v)
      let counted := (new.zip els).filter (fun (x, _, m, v) => !vFinite x && !(old && (!vFinite m || (!fact && !vFinite v))))
      let s := s.countUnit .UU_NONFINITE u counted.length
      (s, .ok (blockWrites d d.w b (List.range (d.groupsOf b)) (bits32 new) ++ [(d.tag + 8 * b, tagWord e 2)]))
  | (s, _) => (s, .error eccErr)

/-- The compute copy of one group (R239): element bits, 0 at the pads, the scale byte, and what it counts. -/
def copyGroup (d : Shard) (seed heat pos : Nat) (ws : List Val) : List Nat × Nat × Nat × Nat :=
  let modes := (List.range ws.length).map (fun j => modeOf d.mode (srHash seed d.ctid (d.index (pos + j) % 2 ^ 40) heat))
  let x := if d.scaled then blockScale d.fmt ws else 0
  let rs := if d.scaled then blockElems d.fmt x ws modes else (ws.zip modes).map (fun (v, m) => roundTo d.fmt m v)
  (rs.map (fun r => r.bits) ++ List.replicate (32 - ws.length) 0, x, (rs.filter (fun r => r.sat)).length, (rs.filter (fun r => r.nonfin)).length)

/-- The copy phase of a block: C and CS from W. -/
def State.copyPhase (s : State) (u : Nat) (d : Shard) (seed heat b : Nat) : State × Except SweepErr (List (Nat × List Byte)) :=
  let ch := channelOf u
  let gs := List.range (d.groupsOf b)
  match State.readBlock d ch d.w b gs s with
  | (s, none) => (s, .error eccErr)
  | (s, some w) =>
    let out := (gs.foldl (fun (a : List (List Nat × Nat × Nat × Nat) × List Val) g =>
      let k := d.validIn b g
      (a.1 ++ [copyGroup d seed heat (1024 * b + 32 * g) (a.2.take k)], a.2.drop k)) ([], vals32 w)).1
    let s := s.countUnit .UU_SAT u (out.foldl (fun a o => a + o.2.2.1) 0)
    let s := s.countUnit .UU_NONFINITE u (out.foldl (fun a o => a + o.2.2.2) 0)
    (s, .ok (lineWrites (d.c + 1024 * d.copyWidth * b) (packElems d.fmt (out.flatMap (fun o => o.1))) ++
      (if d.scaled then lineWrites (d.cs + 32 * b) (out.map (fun o => BitVec.ofNat 8 o.2.1)) else [])))

/-- The 64-bit words of a block in a shard digest, pads as 0 bits (R244). -/
def State.digestBlock (s : State) (ch : Nat) (d : Shard) (fact : Bool) (b : Nat) : State × Option (List Nat) :=
  match State.readBlocks d ch b [d.w, d.m1] s with
  | (s, some [w, m1]) =>
    match s.readM2 d ch b fact with
    | (s, none) => (s, none)
    | (s, some m2) =>
      let spread (ws : List Nat) : List Nat :=
        ((List.range (d.groupsOf b)).foldl (fun (a : List Nat × List Nat) g =>
          let k := d.validIn b g
          (a.1 ++ a.2.take k ++ List.replicate (32 - k) 0, a.2.drop k)) ([], ws)).1
      let join (ws : List Nat) : List Nat := (pieces 2 (ws.length / 2) ws).map (fun p => p.getD 0 0 + 2 ^ 32 * p.getD 1 0)
      (s, some (join (spread w) ++ join (spread m1) ++ join (if fact then m2 else spread m2)))
  | (s, _) => (s, none)

def State.digestWords (ch : Nat) (d : Shard) (fact : Bool) : List Nat → State → State × Option (List Nat)
  | [], s => (s, some [])
  | b :: rest, s =>
    match s.digestBlock ch d fact b with
    | (s, none) => (s, none)
    | (s, some ws) =>
      match State.digestWords ch d fact rest s with
      | (s, some more) => (s, some (ws ++ more))
      | (s, none) => (s, none)

/-- The digest entry of a shard (R227, R231). -/
def State.digestPhase (s : State) (u : Nat) (d : Shard) (fact : Bool) (e heat : Nat) : State × Except SweepErr (List (Nat × List Byte)) :=
  match State.digestWords (channelOf u) d fact (List.range d.blocks) s with
  | (s, none) => (s, .error eccErr)
  | (s, some ws) =>
    (s, .ok [(d.dig, leBytes 16 (digestOf d.tid (d.index 0) e ws) ++ leBytes 4 e ++ leBytes 4 0 ++ leBytes 8 heat)])

/-- The shards of a unit, by table and then in table order. -/
def State.unitRegions (s : State) (u : Nat) : List Region :=
  sortBy (fun r => 65536 * r.table + r.shard) (s.regions.filter (fun r => r.unit = u))

/-- The digests of shards as their entries hold them (R227, R244); none on an uncorrectable word. -/
def State.readDigests (ch : Nat) : List Region → State → State × Option (List Nat)
  | [], s => (s, some [])
  | r :: rest, s =>
    match s.chLoad ch (shardOf r.desc).dig 16 with
    | (s, none) => (s, none)
    | (s, some bs) =>
      match State.readDigests ch rest s with
      | (s, some l) => (s, some (leNat bs :: l))
      | (s, none) => (s, none)

/-- A unit digest reaches its registers. -/
def State.putDigest (s : State) (u d : Nat) : State :=
  (s.setReg .UU_DIGEST_LO (unitDie u) (unitInst u) (d % 2 ^ 64)).setReg .UU_DIGEST_HI (unitDie u) (unitInst u) (d / 2 ^ 64)

/-- The unit digest that a pour leaves when it ends, over the digests of the unit's shards in table order (R231, R245, R246); false when a
digest entry cannot be read, and the registers keep what they held. -/
def State.keepDigest (s : State) (u : Nat) : State × Bool :=
  match State.readDigests (channelOf u) (s.unitRegions u) s with
  | (s, some l) => (s.putDigest u (digestOfDigests l), true)
  | (s, none) => (s, false)

/-- A pour that has done all its shards ends with its unit digest (R231). -/
def State.digestEnds (s : State) (u : Nat) : State :=
  match s.keepDigest u with
  | (s, true) => s.ended u
  | (s, false) => s.failPour u stMemUncorrectable 0 0

/-- The unit digest as its registers hold it. -/
def State.unitDigest (s : State) (u : Nat) : Nat :=
  s.reg .UU_DIGEST_LO (unitDie u) (unitInst u) + 2 ^ 64 * s.reg .UU_DIGEST_HI (unitDie u) (unitInst u)

/-- The pour ends early: the unit digest is recomputed and the context is faulted. -/
def State.sweepFails (s : State) (u : Nat) (x : SweepErr) : State := (s.keepDigest u).1.failPour u x.code x.addr 0

/-- Phases of a shard: three of each block, and its digest entry. -/
def Shard.phases (d : Shard) : Nat := 3 * d.blocks + 1

/-- Which shard a phase belongs to, its block (the number of blocks for the digest entry) and its place in the block; none past the
end. -/
def phaseOf : List Region → Nat → Option (Region × Nat × Nat)
  | [], _ => none
  | r :: rest, p =>
    let n := (shardOf r.desc).phases
    if p < n then some (r, p / 3, p % 3) else phaseOf rest (p - n)

/-- STKLOGIC cycles of a sweep (R234). -/
def sweepCycles (opt : Shard → Nat) (rs : List Region) : Nat :=
  256 + rs.foldl (fun a r =>
    let d := shardOf r.desc
    let o := opt d
    let m2 := if o = 0 || o == 3 then 4096 else if o = 4 then 512 else 8192
    let c := if d.fmt = .bf16 then 2048 else if d.scaled then 1088 else 1024
    a + 64 + d.blocks * ceilDiv (8192 + 8192 + m2 + c + 192) 64) 0

/-- Whole nanoseconds that `n` STKLOGIC cycles take at least, at 1.2 GHz. -/
def stkNs (n : Nat) : Nat := n * 5 / 6

/-- One phase of a sweep toward epoch `e`: the block's tag decides what it does (R232). Its writes, and whether the block is OLD. -/
def State.sweepPhase (s : State) (u : Nat) (x : Ctx) (e heat : Nat) (resume old : Bool) (r : Region) (b k : Nat) :
    State × Except SweepErr (List (Nat × List Byte) × Bool) :=
  let ch := channelOf u
  let d := shardOf r.desc
  let p := hyperOf (x.hyper u d.group) e
  let keep (old : Bool) (a : State × Except SweepErr (List (Nat × List Byte))) : State × Except SweepErr (List (Nat × List Byte) × Bool) :=
    match a with
    | (s, .ok ws) => (s, .ok (ws, old))
    | (s, .error x) => (s, .error x)
  if b = d.blocks then keep false (s.digestPhase u d (p.opt == 4) e heat)
  else if b = 0 && k == 0 && resume && r.epoch != e && (r.epoch + 1) % 2 ^ 32 != e then (s, .error ⟨stBadState, 0⟩)
  else
    let s := if b = 0 && k == 0 then s.setEpoch r e else s
    match s.chLoad ch (d.tag + 8 * b) 8 with
    | (s, none) => (s, .error eccErr)
    | (s, some tw) =>
      let st := tagState (leNat tw) e
      if st = 3 then (s, .error ⟨stBadState, 0⟩)
      else
        match k with
        | 0 =>
          if st = 0 then keep true (s.momentPhase u d p e b)
          else (s.countUnit (if st = 1 then .UU_BLOCKS_FINISHED else .UU_BLOCKS_SKIPPED) u 1, .ok ([], false))
        | 1 => if st = 1 then keep old (s.weightPhase u d p e b old) else (s, .ok ([], old))
        | _ => keep false (s.copyPhase u d x.seed heat b)

/-- Issue the first `n` of the writes that a phase has left, in order (R495); false when one was not applied. -/
def State.issueWrites (ch : Nat) : Nat → List (Nat × List Byte) → State → State × Bool
  | 0, _, s => (s, true)
  | _, [], s => (s, true)
  | n + 1, w :: rest, s =>
    match s.chSave ch w.1 w.2 with
    | (s, true) => State.issueWrites ch n rest s
    | (s, false) => (s, false)

/-- A word of an update unit's buffer, which holds the writes of the phase in progress: eight words to a line, counted from the last line,
so that the number of a line stays while those before it are issued. -/
def inBuffer (u from' lines : Nat) : StoredWord → Bool
  | .uu u' w => u' = u && w / 8 < from' && from' ≤ w / 8 + lines
  | _ => false

/-- The unit's buffer is filled anew. -/
def State.fillBuffer (s : State) (u : Nat) : State := s.mend (fun w => match w with | .uu u' _ => u' == u | _ => false)

/-- Issue the next `n` of the writes that a phase has left, in order (R495), from the unit's buffer: its corrected words count, and an
uncorrectable one ends the pour (R450, R451). The writes that are left; false when one was not applied. -/
def State.issueLeft (s : State) (u n : Nat) (w : Sweep) : State × Bool :=
  let (corr, bad) := s.meets (inBuffer u w.writes.length n)
  let s := s.countUnit .UU_ECC_CORR u corr
  if bad then (s, false) else State.issueWrites (channelOf u) n w.writes s

/-- The next phase of a sweep is worked out when no write of one is left: its writes. -/
def State.nextPhase (s : State) (u table : Nat) (x : Ctx) (e heat : Nat) (resume : Bool) (w : Sweep) : State × Except SweepErr Sweep :=
  if !w.writes.isEmpty then (s, .ok w)
  else
    match phaseOf (s.tableRegions u table) w.phase with
    | none => (s, .ok w)
    | some (r, b, k) =>
      match s.sweepPhase u x e heat resume w.old r b k with
      | (s, .error x) => (s, .error x)
      | (s, .ok (ws, old)) => (s.fillBuffer u, .ok { w with writes := ws, old := old })

/-- Up to `n` phases go by whole, the one in progress first; then up to `lines` writes of the next are issued. -/
def State.sweepPhases (u table : Nat) (x : Ctx) (e heat : Nat) (resume : Bool) (lines : Nat) : Nat → Sweep → State → State
  | 0, w, s =>
    if lines = 0 then s.setProg u (.sweeping w)
    else
      match s.nextPhase u table x e heat resume w with
      | (s, .error x) => s.sweepFails u x
      | (s, .ok w) =>
        match s.issueLeft u lines w with
        | (s, false) => s.sweepFails u eccErr
        | (s, true) =>
          let done := w.writes.length ≤ lines && (phaseOf (s.tableRegions u table) w.phase).isSome
          s.setProg u (.sweeping { w with writes := w.writes.drop lines, phase := if done then w.phase + 1 else w.phase })
  | n + 1, w, s =>
    if (phaseOf (s.tableRegions u table) w.phase).isNone then s.setProg u (.sweeping w)
    else
      match s.nextPhase u table x e heat resume w with
      | (s, .error x) => s.sweepFails u x
      | (s, .ok w) =>
        match s.issueLeft u w.writes.length w with
        | (s, false) => s.sweepFails u eccErr
        | (s, true) => State.sweepPhases u table x e heat resume lines n { w with phase := w.phase + 1, writes := [] } s

/-- The settings of a pour's context, with the unit's own as they stood at its launch (R69, R236). -/
def State.sweepCtx (s : State) (c : Nat) (w : Sweep) : Ctx := { s.ctx c with settings := w.hyper }

/-- The pour reads its shard table; a descriptor that fails its check ends it before any block (R228). -/
def State.openTable (s : State) (u : Nat) (r : Running) (w : Sweep) : State × Bool :=
  let raw := r.held.bytes
  let table := fieldAt raw 0 4
  let n := fieldAt raw 4 2
  let c := r.held.ctx
  match State.readTable (channelOf u) u table c (List.range n) s with
  | (s, none) => (s.sweepFails u eccErr, false)
  | (s, some rs) =>
    let x := s.sweepCtx c w
    let bad := rs.map (fun r => shardCheck x.part r.desc (x.factored u (shardOf r.desc)))
    match bad.find? (fun k => k ≠ stOk) with
    | some code => (s.failPour u code 0 0, false)
    | none =>
      ({ s with
          regions := s.regions.filter (fun q => !(q.unit = u && q.table == table)) ++ rs
          uuTables := if r.held.pour.action = 4 then s.uuTables else (u, table, n, c) :: s.uuTables.filter (fun q => q.1 ≠ u) }, true)

/-- Update-unit rows act on update units only: the sweep, resume or repair that runs there. -/
def State.uuRuns (s : State) (unit action : Nat) : Option Running := if unitCls unit = clsUU then s.runsAction unit action else none
def State.sweeps (s : State) (unit action : Nat) : Option (Running × Sweep) :=
  match s.uuRuns unit action with
  | some r => match r.prog with | .sweeping w => some (r, w) | _ => none
  | none => none

/-- The target epoch of a sweep or a resume, and the heat of its stochastic rounding (R231, R239). -/
def sweepGoal (r : Running) : Nat × Nat :=
  if r.held.pour.action = 2 then (fieldAt r.held.bytes 8 4, fieldAt r.held.bytes 16 8) else ((r.held.heatEpoch + 1) % 2 ^ 32, r.held.heat)

/-- A SWEEP or RESUME pour goes on by up to `phases` phases and then `lines` writes, and ends when all are done and its run time has
passed. -/
def State.sweepOn (s : State) (u phases lines : Nat) (r : Running) (w : Sweep) : State :=
  let table := fieldAt r.held.bytes 0 4
  let (s, ok) := if w.opened then (s, true) else s.openTable u r w
  if !ok then s
  else
    let x := s.sweepCtx r.held.ctx w
    let (e, heat) := sweepGoal r
    let rs := s.tableRegions u table
    let total := rs.foldl (fun a r => a + (shardOf r.desc).phases) 0
    let s := State.sweepPhases u table x e heat (r.held.pour.action = 2) lines (min phases (total - w.phase)) { w with opened := true } s
    match s.runningOn u with
    | some ⟨_, at', _, .sweeping w⟩ =>
      if w.phase = total && w.writes.isEmpty && at' + stkNs (sweepCycles (fun d => x.hyper u d.group 1) rs) ≤ s.ft then s.digestEnds u else s
    | _ => s

def execSweep (t unit : Nat) (go : Stretch) (s : State) : Host.Outcome State Fault Refusal :=
  let s := s.advance t
  match s.sweeps unit 1 with
  | some (r, w) => .next (s.sweepOn unit go.parts go.lines r w)
  | none => .next s

def execResume (t unit : Nat) (go : Stretch) (s : State) : Host.Outcome State Fault Refusal :=
  let s := s.advance t
  match s.sweeps unit 2 with
  | some (r, w) => .next (s.sweepOn unit go.parts go.lines r w)
  | none => .next s

/-- An event of R233 stops a sweep, a resume or a repair at its interruption point: a phase whose first write has been issued is written
to its end, and the unit digest is recomputed. -/
def State.stopSweep (s : State) (u : Nat) : State :=
  match s.runningOn u with
  | some r =>
    match r.prog with
    | .sweeping w => (((s.issueLeft u w.writes.length w).1).keepDigest u).1
    | _ => s
  | none => s

/-! The replica compare (R245, R247 to R251). -/

/-- The unit id of the adder in compare mode: port P0 on D0. -/
def compareAdder : Nat := unitId 0 clsLADD 0

/-- The package digest of a context, over the unit digests of its update units that hold shards (R245). -/
def State.packageDigest (s : State) (c : Nat) : Nat :=
  let units := sortBy id (((s.regions.filter (fun r => r.ctx = c)).map (fun r => r.unit)).eraseDups)
  digestOfDigests (units.map s.unitDigest)

/-- The update unit with the lowest global index in a context. -/
def lowestUnit (p : Part) : Option Nat := ((onesOf 512 p.channels).head?).map (fun ch => unitId (ch / 64) clsUU (ch % 64))

def Cmp.at64 (n : Cmp) (off : Nat) : Nat := n.start + 64 * fieldAt n.desc off 4

def State.setCmp (s : State) (n n' : Cmp) : State := { s with cmps := s.cmps.map (fun m => if m = n then n' else m) }

/-- The compare belongs to a context's present run (R211). -/
def State.cmpLives (s : State) (c : Nat) (n : Cmp) : Bool := n.ctx = c && n.gen == (s.ctx c).gen

/-- The compare of a context for a heat. -/
def State.cmpOf (s : State) (c heat : Nat) : Option Cmp := s.cmps.find? (fun n => s.cmpLives c n && n.heat == heat)

/-- Compares of old heats go, but for the newest descriptor of each context. -/
def State.pruneCmps (s : State) (c : Nat) : State :=
  let h := (s.ctx c).heat
  { s with cmps := s.cmps.filter (fun n => n.ctx ≠ c || (s.cmpLives c n && h ≤ n.heat + 1) || s.cmps.find? (fun m => m.ctx = c && m.begun) = some n) }

/-- COMPARE: the package digest goes to the adder in compare mode, and the pour ends; on another unit than the lowest it is a NOP. -/
def State.doCompare (s : State) (u : Nat) (r : Running) : State :=
  let c := r.held.ctx
  let h := r.held
  if lowestUnit (s.ctx c).part ≠ some u then s.ended u
  else
    let d := s.packageDigest c
    let s := (s.setReg .UU_PKG_DIGEST_LO 0 c (d % 2 ^ 64)).setReg .UU_PKG_DIGEST_HI 0 c (d / 2 ^ 64)
    let base : Cmp := (s.cmpOf c h.heat).getD { ctx := c, heat := h.heat, start := 0, desc := [], begun := false, gen := (s.ctx c).gen }
    let s := { s with cmps := s.cmps.filter (fun n => !(s.cmpLives c n && n.heat == h.heat)) }
    let s := s.pruneCmps c
    let n : Cmp := { base with start := h.due - 64 * h.pour.offset, desc := h.bytes, begun := true, digest := d }
    State.ended { s with cmps := n :: s.cmps } u

def execCompare (t unit : Nat) (s : State) : Host.Outcome State Fault Refusal :=
  let s := s.advance t
  match s.uuRuns unit 3 with
  | some r => if r.prog = .start then .next (s.doCompare unit r) else .next s
  | none => .next s

/-- A compare segment leaves toward a package. -/
def State.sendRecord (s : State) (n : Cmp) (kind dst : Nat) (words : List Nat) : State :=
  let g : Seg := { tag := fieldAt n.desc 46 2, gen := (s.ctx n.ctx).gen, kind := kind, heat := n.heat % 65536, src := s.pkgId, first := 0
                   count := 3, segs := 1, dest := 0, destFlag := 0, data := words.flatMap (leBytes 8) }
  let s := s.countAdder .LADD_SEGS_TX compareAdder 1
  if s.carries 0 then s.enqueue 0 n.ctx (segPkt s.pkgId g dst (s.ft % 2 ^ 32)) else s.countPort .PORT_NO_ROUTE 0 1

/-- The same to every child, in CHILD order. -/
def State.sendDown (s : State) (n : Cmp) (kind : Nat) (words : List Nat) : State :=
  (children n.desc).foldl (fun s p => s.sendRecord n kind p words) s

/-- The record of a child at a position of the compare area, as the adder reads it. An uncorrectable word there faults the context, and the
record is missing (R451, R452). -/
def State.record (s : State) (n : Cmp) (i : Nat) : State × Option (List Nat) :=
  let a := wsAt 0 (fieldAt n.desc 48 4 + 24 * i)
  match s.load a 24 with
  | (s, some bs) => (s, some (wordsLE 8 3 bs))
  | (s, none) => (s.faultCtx n.ctx stMemUncorrectable compareAdder a 0 0, none)

/-- The records at some positions that have arrived, in their order; none for each of the others. -/
def State.records (n : Cmp) (arrived : List Nat) : List Nat → State → State × List (Option (List Nat))
  | [], s => (s, [])
  | i :: rest, s =>
    let (s, w) := if arrived.contains i then s.record n i else (s, none)
    let (s, ws) := State.records n arrived rest s
    (s, w :: ws)

/-- The merge of R249: digest and count. -/
def mergeVote (a b : Nat × Nat) : Nat × Nat :=
  if a.1 = b.1 then (a.1, a.2 + b.2) else if a.2 ≥ b.2 then (a.1, a.2 - b.2) else (b.1, b.2 - a.2)

/-- The positions of CHILD that name a child. -/
def childPos (desc : List Byte) : List Nat := (List.range 14).filter (fun i => fieldAt desc (16 + 2 * i) 2 ≠ 0xFFFF)

/-- The candidate reaches a node, and goes on to its children (R249). -/
def State.takeCand (s : State) (n : Cmp) (d : Nat) : State :=
  (s.setCmp n { n with cand := some d }).sendDown n 7 [d % 2 ^ 64, d / 2 ^ 64, 0]

/-- The result word reaches a node, and goes on to its children (R250). -/
def State.takeResult (s : State) (n : Cmp) (w : Nat) : State := (s.setCmp n { n with result := some w }).sendDown n 9 [w, 0, 0]

/-- Write three words into the compare area (R248). -/
def State.putArea (s : State) (n : Cmp) (pos : Nat) (words : List Nat) : State :=
  (s.save (wsAt 0 (fieldAt n.desc 48 4 + pos)) (words.flatMap (leBytes 8))).1

/-- COMPARE_VOTE_AT (R249). -/
def State.voteAt (s : State) (n : Cmp) : State :=
  let (s, ws) := State.records n n.votes (childPos n.desc) s
  let (d, c) := ws.foldl (fun a w =>
    match w with
    | some w => mergeVote a (w.getD 0 0 + 2 ^ 64 * w.getD 1 0, w.getD 2 0 % 65536)
    | none => a) (n.digest, 1)
  let n' := { n with voted := true }
  let s := s.setCmp n n'
  let parent := fieldAt n.desc 12 2
  if parent ≠ 0xFFFF then s.sendRecord n' 6 parent [d % 2 ^ 64, d / 2 ^ 64, c % 65536] else s.takeCand n' d

def execCompareVoteAt (t ctx : Nat) (s : State) : Host.Outcome State Fault Refusal :=
  let s := s.advance t
  match s.cmps.find? (fun n => s.cmpLives ctx n && n.begun && !n.voted && n.at64 0 ≤ s.ft) with
  | some n => .next (s.voteAt n)
  | none => .next s

/-- What the second pass carries (R250): agree count, the lowest agreeing rank with its package, and MISSING. -/
structure Tally3 where
  agree : Nat
  low : Option (Nat × Nat)
  missing : Bool
  deriving DecidableEq, Repr

def lowerRank (a b : Option (Nat × Nat)) : Option (Nat × Nat) :=
  match a, b with
  | some x, some y => if y.1 < x.1 then some y else some x
  | none, b => b
  | a, none => a

/-- Add a child's record to the second pass. -/
def Tally3.join (a : Tally3) (w : Option (List Nat)) : Tally3 :=
  match w with
  | none => { a with missing := true }
  | some w =>
    let w0 := w.getD 0 0
    let w1 := w.getD 1 0
    { agree := a.agree + w0 % 65536
      low := lowerRank a.low (if bitOf w1 31 then some (w1 % 65536, bitsOf w1 29 16) else none)
      missing := a.missing || bitOf w0 16 }

/-- The compare result word (R250). -/
def resultWord (heat n : Nat) (a : Tally3) : Nat :=
  let out := if a.missing then 3 else if a.agree = n then 0 else if n ≥ 3 && 2 * a.agree > n && a.agree < n then 1 else 2
  2 ^ 48 * (heat % 65536) + 2 ^ 32 * (a.agree % 65536) + 2 ^ 16 * (match a.low with | some l => l.2 | none => 0) + out

/-- COMPARE_COUNT_AT (R250); a node without a candidate cannot compare and counts as MISSING. -/
def State.countAt (s : State) (n : Cmp) : State :=
  let agrees := n.cand = some n.digest
  let own : Tally3 := { agree := b2n agrees, low := if agrees then some (fieldAt n.desc 44 2, s.pkgId) else none, missing := n.cand.isNone }
  let (s, ws) := State.records n n.counts (childPos n.desc) s
  let a := ws.foldl Tally3.join own
  let n' := { n with counted := true }
  let s := s.setCmp n n'
  let parent := fieldAt n.desc 12 2
  if parent ≠ 0xFFFF then
    s.sendRecord n' 8 parent [a.agree % 65536 + 2 ^ 16 * b2n a.missing,
      (match a.low with | some l => l.1 + 2 ^ 16 * l.2 + 2 ^ 31 | none => 0), 0]
  else s.takeResult n' (resultWord n.heat (fieldAt n.desc 14 2) a)

def execCompareCountAt (t ctx : Nat) (s : State) : Host.Outcome State Fault Refusal :=
  let s := s.advance t
  match s.cmps.find? (fun n => s.cmpLives ctx n && n.begun && !n.counted && n.at64 4 ≤ s.ft) with
  | some n => .next (s.countAt n)
  | none => .next s

/-- The compare node that a segment is for: begun already, or one of a heat to come on the context's last descriptor. -/
def State.cmpFor (s : State) (c heat : Nat) : Option Cmp :=
  match s.cmpOf c heat with
  | some n => some n
  | none => (s.cmps.find? (fun n => n.ctx = c && n.begun)).map (fun n =>
    { ctx := c, heat := heat, start := 0, desc := n.desc, begun := false, gen := (s.ctx c).gen })

/-- Where a compare segment's words go in the compare area (R248): a child's record by the place of its package in CHILD. -/
def cmpPlace (desc : List Byte) (g : Seg) : Option Nat :=
  match g.kind with
  | 7 => some 336
  | 9 => some 360
  | _ => ((childPos desc).find? (fun i => fieldAt desc (16 + 2 * i) 2 = g.src)).map (24 * ·)

/-- A compare segment is checked at the adder of its port (R204). Its bytes lie in a bank of the context when the context has a compare
area here and the segment has a place in it (R248). -/
def State.admitRecord (s : State) (port : Nat) (g : Seg) : State × Option Nat :=
  let u := unitId (port / 2) clsLADD (port % 2)
  match s.segCheck (port / 2) g with
  | .error r => (s.countAdder r u 1, none)
  | .ok c =>
    let fits : Bool :=
      match ((s.ctx c).heatOf g.heat).bind (s.cmpFor c) with
      | some n => (match cmpPlace n.desc g with | some pos => inBanks (s.ctx c).part 0 (fieldAt n.desc 48 4 + pos) 24 | none => false)
      | none => false
    if fits then (s.countAdder .LADD_SEGS_RX u 1, some c) else (s.countAdder .LADD_DROP_ADDR u 1, none)

/-- An accepted compare segment (R248 to R251). -/
def State.recordIn (s : State) (c : Nat) (g : Seg) : State :=
  let drop (s : State) : State := s.count .UU_CMP_DROP 0 c 1
  match (s.ctx c).heatOf g.heat with
  | none => s
  | some heat =>
    match s.cmpFor c heat with
    | none => s
    | some n =>
      let s := if (s.cmpOf c heat).isSome then s else { s with cmps := s.cmps ++ [n] }
      let words := wordsLE 8 3 g.data
      match g.kind with
      | 7 =>
        if n.decided then drop s
        else if n.cand.isSome then s
        else (s.putArea n 336 words).takeCand n (words.getD 0 0 + 2 ^ 64 * words.getD 1 0)
      | 9 =>
        if n.decided then drop s
        else if n.result.isSome then s
        else (s.putArea n 360 words).takeResult n (words.getD 0 0)
      | k =>
        match (childPos n.desc).find? (fun i => fieldAt n.desc (16 + 2 * i) 2 = g.src) with
        | none => s
        | some i =>
          if (if k = 6 then n.voted else n.counted) then drop s
          else
            let s := s.putArea n (24 * i) words
            s.setCmp n (if k = 6 then { n with votes := n.votes ++ [i] } else { n with counts := n.counts ++ [i] })

/-- COMPARE_RECORD_RX. -/
def execCompareRecordRx (t port : Nat) (pkt : List Byte) (s : State) : Host.Outcome State Fault Refusal :=
  let s := s.advance t
  match s.takePkt port [tSegment] pkt with
  | (s, none) => .next s
  | (s, some k) =>
    let g := parseSeg k.body
    if g.kind < 6 || g.kind > 9 then .next s
    else
      match s.admitRecord port g with
      | (s, none) => .next s
      | (s, some c) => .next (s.recordIn c g)

/-- COMPARE_DECIDE_AT (R251). -/
def State.decideAt (s : State) (n : Cmp) : State :=
  let c := n.ctx
  let s := s.setCmp n { n with decided := true }
  match n.result with
  | none => s.count .UU_CMP_INCOMPLETE 0 c 1
  | some w =>
    let s := (s.setReg .UU_CMP_LAST 0 c w).setReg .UU_CMP_HEAT 0 c n.heat
    let s := match n.cand with
      | some d => (s.setReg .UU_CMP_CAND_LO 0 c (d % 2 ^ 64)).setReg .UU_CMP_CAND_HI 0 c (d / 2 ^ 64)
      | none => s
    match w % 4 with
    | 3 => s.count .UU_CMP_INCOMPLETE 0 c 1
    | 2 =>
      let s := if (s.ctx c).st = .running then s.setCtx c (fun x => { x with diverged := true }) else s
      s.event c ⟨stReplicaDiverged, 0, true, 0, n.heat, w⟩
    | _ => s

def execCompareDecideAt (t ctx : Nat) (s : State) : Host.Outcome State Fault Refusal :=
  let s := s.advance t
  match s.cmps.find? (fun n => s.cmpLives ctx n && n.begun && !n.decided && n.at64 8 ≤ s.ft) with
  | some n => .next (s.decideAt n)
  | none => .next s

/-! REPAIR (R252). -/

/-- The SOURCE of a repair: the compare of the heat ended MAJORITY and this package differs from the candidate. -/
def State.repairFrom (s : State) (c heat : Nat) : Option Nat :=
  match s.cmpOf c heat with
  | some n =>
    match n.result with
    | some w => if n.decided && w % 4 == 1 && n.cand.isSome && n.cand != some n.digest then some (bitsOf w 29 16) else none
    | none => none
  | none => none

/-- The parts of a shard's block that a REPAIR copies, by channel offset and length, pads and all (R252), in the order of R232: M1 and M2,
W with the tag that follows it, C and CS (R495). -/
def blockRanges (d : Shard) (fact : Bool) (b : Nat) : List (Nat × Nat) :=
  let n := 32 * d.groupsOf b
  [(d.m1 + 4096 * b, 4 * n), if fact then (d.m2 + 256 * b, 256) else (d.m2 + 4096 * b, 4 * n), (d.w + 4096 * b, 4 * n), (d.tag + 8 * b, 8),
   (d.c + 1024 * d.copyWidth * b, d.copyWidth * n)] ++ (if d.scaled then [(d.cs + 32 * b, n / 32)] else [])

/-- The reads that bring a range: whole lines, within one granule of the interleave. -/
def rangeReads (r : Nat × Nat) : List (Nat × Nat) :=
  let lo := r.1 / 64 * 64
  let hi := ceilDiv (r.1 + r.2) 64 * 64
  let mid := (lo / 4096 + 1) * 4096
  if hi ≤ mid then [(lo, hi - lo)] else [(lo, mid - lo), (mid, hi - mid)]

/-- Bytes of a range from what the reads brought; the fuel is at least the number of reads. -/
def gotBytes (got : List (Nat × List Byte)) : Nat → Nat → Nat → List Byte
  | 0, _, _ => []
  | k + 1, off, n =>
    match got.find? (fun p => p.1 ≤ off && off < p.1 + p.2.length) with
    | some p => let bs := (p.2.drop (off - p.1)).take n; bs ++ gotBytes got k (off + bs.length) (n - bs.length)
    | none => []

/-- The writes of a block that is copied: pads of the weights and moments are left alone (R227), a 64-byte line at a time. -/
def copyWrites (d : Shard) (fact : Bool) (b : Nat) (got : List (Nat × List Byte)) : List (Nat × List Byte) :=
  let valid (off : Nat) : List (Nat × List Byte) := (List.range (d.groupsOf b)).flatMap (fun g =>
    lineWrites (off + 128 * g) (gotBytes got 4 (off + 128 * g) (4 * d.validIn b g)))
  ((blockRanges d fact b).zip (List.range 6)).flatMap (fun (r, i) =>
    if i = 0 || i == 2 || (i == 1 && !fact) then valid r.1 else lineWrites r.1 (gotBytes got 4 r.1 r.2))

/-- Ask SOURCE for the part of a shard that is next (R252, R302): READ requests for the same channel offsets there, once the port has tags
for all of them. -/
def State.repairAsk (s : State) (u src : Nat) (r : Running) (fact : Bool) (rg : Region) (w : Sweep) : State :=
  let d := shardOf rg.desc
  let ch := channelOf u
  let reads := if w.part = 0 then rangeReads (d.dig, 32) else if w.part ≤ d.blocks then (blockRanges d fact (w.part - 1)).flatMap rangeReads else []
  if w.asked then s.setProg u (.sweeping w)
  else if reads.isEmpty then s.setProg u (.sweeping { w with asked := true, awaits := 0, got := [] })
  else
    match s.route src with
    | none => ((s.countPort .PORT_NO_ROUTE (unitDie u * 2) 1).sweepFails u ⟨stFabricTimeout, s.channelAddr ch d.dig⟩)
    | some p =>
      if (s.port p).freeTags.length < reads.length then s.setProg u (.sweeping w)
      else
        let s := reads.foldl (fun (s : State) (q : Nat × Nat) =>
          let a := s.channelAddr ch q.1
          (s.issue p { typ := tRead, vc := 0, dst := src, src := 0, tag := 0, port := 0, addr := a, len := q.2, birth := 0, ops := 0, flag := 0
                       epoch := 0, body := [] }
            { tag := 0, dst := src, typ := tRead, birth := 0, addr := a + 2 ^ 44 * src, unit := u, ctx := r.held.ctx, tile := q.1, part := 5
              len := q.2 }).1) s
        let first := if w.first = 0 then s.channelAddr ch (reads.headD (0, 0)).1 + 2 ^ 44 * src else w.first
        s.setProg u (.sweeping { w with asked := true, awaits := reads.length, got := [], first := first })

/-- A part of a shard whose data have come: the compare of the digest entries, a block, or the digest entry (R252). -/
def State.repairPart (s : State) (u : Nat) (fact : Bool) (rg : Region) (w : Sweep) : State × Except SweepErr Sweep :=
  let d := shardOf rg.desc
  let next (w : Sweep) (part : Nat) (ws : List (Nat × List Byte)) : Sweep := { w with part := part, writes := ws, asked := false, got := [] }
  if w.part = 0 then
    let entry := gotBytes w.got 2 d.dig 32
    match s.chLoad (channelOf u) d.dig 32 with
    | (s, none) => (s, .error eccErr)
    | (s, some own) =>
      if fieldAt own 0 20 = fieldAt entry 0 20 then (s, .ok { next w 0 [] with phase := w.phase + 1 })
      else (s.setEpoch rg (rg.epoch ^^^ 0x80000000), .ok { next w 1 [] with entry := entry })
  else if w.part ≤ d.blocks then (s, .ok (next w (w.part + 1) (copyWrites d fact (w.part - 1) w.got)))
  else (s, .ok (next w (w.part + 1) (lineWrites d.dig w.entry)))

/-- A shard is copied: its region takes the copied epoch, and it counts (R252). -/
def State.repairShut (s : State) (u : Nat) (rg : Region) (w : Sweep) : State × Sweep :=
  if w.part = (shardOf rg.desc).blocks + 2 && w.writes.isEmpty then
    ((s.setEpoch rg (fieldAt w.entry 16 4)).countUnit .UU_SHARDS_COPIED u 1,
      { w with part := 0, phase := w.phase + 1, copied := w.copied + 1, asked := false, got := [] })
  else (s, w)

/-- The repair of a minority package has visited every shard (R252): the unit digest, and DIGEST_MISMATCH. -/
def State.repairEnds (s : State) (u src : Nat) (r : Running) (w : Sweep) : State :=
  match s.keepDigest u with
  | (s, true) => (s.event r.held.ctx ⟨stDigestMismatch, 0, true, 0, r.held.heat, src + 2 ^ 32 * w.copied⟩).ended u
  | (s, false) => s.failPour u stMemUncorrectable 0 0

/-- Write out what the part in progress has left, up to `n` lines; then, when none is left, the shard may be done. -/
def State.repairWrites (s : State) (u : Nat) (rg : Region) (w : Sweep) (n : Nat) : State × Except SweepErr Sweep :=
  match s.issueLeft u n w with
  | (s, false) => (s, .error eccErr)
  | (s, true) => let (s, w) := s.repairShut u rg { w with writes := w.writes.drop n }; (s, .ok w)

/-- Up to `n` parts go by whole, the one in progress first, each once SOURCE's answers have come; then up to `lines` writes of the next are
issued. -/
def State.repairParts (u table src : Nat) (r : Running) (x : Ctx) (lines : Nat) : Nat → Sweep → State → State
  | n, w, s =>
    match (s.tableRegions u table)[w.phase]? with
    | none => s.repairEnds u src r w
    | some rg =>
      let fact := x.factored u (shardOf rg.desc)
      if w.writes.isEmpty && !(w.asked && w.awaits == 0) then s.repairAsk u src r fact rg w
      else
        match (if w.writes.isEmpty then (s.fillBuffer u).repairPart u fact rg w else (s, .ok w)) with
        | (s, .error e) => s.sweepFails u e
        | (s, .ok w) =>
          match n with
          | 0 =>
            match s.repairWrites u rg w lines with
            | (s, .error e) => s.sweepFails u e
            | (s, .ok w) => s.setProg u (.sweeping w)
          | k + 1 =>
            match s.repairWrites u rg w w.writes.length with
            | (s, .error e) => s.sweepFails u e
            | (s, .ok w) => State.repairParts u table src r x lines k w s

/-- REPAIR goes on. -/
def State.repairOn (s : State) (u parts lines : Nat) (r : Running) (w : Sweep) : State :=
  match s.repairFrom r.held.ctx r.held.heat with
  | none => s.ended u
  | some src =>
    let (s, ok) := if w.opened then (s, true) else s.openTable u r w
    if !ok then s
    else State.repairParts u (fieldAt r.held.bytes 0 4) src r (s.sweepCtx r.held.ctx w) lines parts { w with opened := true } s

def execRepair (t unit : Nat) (go : Stretch) (s : State) : Host.Outcome State Fault Refusal :=
  let s := s.advance t
  match s.sweeps unit 4 with
  | some (r, w) => .next (s.repairOn unit go.parts go.lines r w)
  | none => .next s

/-- SOURCE's answer to a READ of a repair. -/
def State.repairAnswer (s : State) (q : Req) (data : List Byte) : State :=
  match s.sweeps q.unit 4 with
  | some (_, w) => s.setProg q.unit (.sweeping { w with awaits := w.awaits - 1, got := w.got ++ [(q.tile, data)] })
  | none => s

/-! EXPORT_SHARD and DIGEST_QUERY (R253 to R256, R440). -/

/-- The shard that a command names: its region, or in BOOT_HOLD the descriptor in the table that the unit last swept. -/
def State.shardNamed (s : State) (unit shard : Nat) : State × Option Region :=
  if s.boot.st = .hold then
    match s.uuTables.find? (fun q => q.1 = unit) with
    | some (_, table, n, c) =>
      if shard < n then
        match State.readTable (channelOf unit) unit table c [shard] s with
        | (s, some (r :: _)) => (s, some r)
        | (s, _) => (s, none)
      else (s, none)
    | none => (s, none)
  else (s, s.regions.reverse.find? (fun r => r.unit = unit && r.shard == shard))

/-- A sweep, a resume or a repair of the region is in progress on its unit: it has begun, and not written all of the shard. -/
def State.regionBusy (s : State) (r : Region) : Bool :=
  match s.runningOn r.unit with
  | some ⟨h, _, _, .sweeping w⟩ =>
    fieldAt h.bytes 0 4 == r.table &&
    (if h.pour.action = 4 then
      (match (s.tableRegions r.unit r.table)[w.phase]? with
       | some q => q.shard == r.shard && w.part != 0
       | none => false)
    else
      (match phaseOf (s.tableRegions r.unit r.table) w.phase with
       | some (q, b, k) => q.shard == r.shard && (b != 0 || k != 0 || !w.writes.isEmpty)
       | none => false))
  | _ => false

/-- The arrays of a shard record with pads removed (R255): W, M1 and M2. -/
def State.exportArrays (ch : Nat) (d : Shard) (fact : Bool) : List Nat → State → State × Option (List Byte × List Byte × List Byte)
  | [], s => (s, some ([], [], []))
  | b :: rest, s =>
    match State.readBlocks d ch b [d.w, d.m1] s with
    | (s, some [w, m1]) =>
      match s.readM2 d ch b fact with
      | (s, none) => (s, none)
      | (s, some m2) =>
        match State.exportArrays ch d fact rest s with
        | (s, some (x, y, z)) => (s, some (w.flatMap (leBytes 4) ++ x, m1.flatMap (leBytes 4) ++ y, m2.flatMap (leBytes 4) ++ z))
        | (s, none) => (s, none)
    | (s, _) => (s, none)

/-- The header of a shard record (R254). -/
def recordHeader (d : Shard) (raw : List Byte) (opt epoch : Nat) (entry : List Byte) (w m1 m2 : Nat) : List Byte :=
  leBytes 4 0x44524853 ++ leBytes 2 1 ++ leBytes 1 opt ++ leBytes 1 1 ++ raw.take 4 ++ leBytes 1 1 ++ leBytes 1 (fieldAt raw 4 1) ++
  leBytes 2 0 ++ (d.shape ++ d.origin ++ d.extent).flatMap (leBytes 4) ++ leBytes 4 0 ++ leBytes 8 (fieldAt entry 24 8) ++
  leBytes 4 epoch ++ leBytes 4 0 ++ entry.take 16 ++ leBytes 8 w ++ leBytes 8 m1 ++ leBytes 8 m2 ++ List.replicate 120 0#8

/-- A package-local destination of BOOT_HOLD: banks 12 to 15 of D0 (R440). -/
def holdDest (a n : Nat) : Bool := wsBase 0 + 12 * 0x4000000 ≤ a && a + n ≤ wsBase 0 + 16 * 0x4000000

/-- Write a record: the payload, then the header (R254). -/
def State.putRecord (s : State) (c dest : Nat) (header body : List Byte) : State × Nat :=
  if s.boot.st = .hold then
    if !holdDest dest (header.length + body.length) then (s, stBadParam)
    else
      let (s, a) := s.save (dest + header.length) body
      let (s, b) := if a then s.save dest header else (s, false)
      (s, if a && b then stOk else stMemUncorrectable)
  else
    let die := (s.ctx c).home
    match s.saveVa die c (dest + header.length) body with
    | (s, some e) => (s, e.code)
    | (s, none) =>
      match s.saveVa die c dest header with
      | (s, some e) => (s, e.code)
      | (s, none) => (s, stOk)

/-- The unit that EXPORT_SHARD and DIGEST_QUERY name: OK, or why not (R285). -/
def State.namesUnit (s : State) (c unit : Nat) : Nat :=
  if unitCls unit ≠ clsUU || !unitExists unit then stBadParam
  else if s.boot.st = .hold || partHasUnit (s.ctx c).part unit then stOk
  else stTranslationFault

/-- Bytes of a shard record: header, W, M1 and M2 (R254, R255). -/
def recordLen (d : Shard) (fact : Bool) : Nat :=
  let count := d.shape.getD 0 1 * prod (d.extent.drop 1)
  256 + 4 * count + 4 * count + (if fact then 256 * d.blocks else 4 * count)

/-- The region still has the epoch that an export found at acceptance, and no pour is at work on it (R254). -/
def State.exportHolds (s : State) (r : Region) : Bool := (s.boot.st == .hold || s.regions.contains r) && !s.regionBusy r

/-- An export reads its shard and writes the record, payload first and header last, or ends with EPOCH_FENCE when the region's epoch has
changed since its acceptance (R254). -/
def State.exportNow (s : State) (x : Export) : State :=
  let r := x.region
  let o := x.cmd
  let d := shardOf r.desc
  let c := s.ctx r.ctx
  let fact := c.factored r.unit d
  let ch := channelOf r.unit
  if !s.exportHolds r then s.complete o stEpochFence 0 0
  else
    match s.chLoad ch d.dig 32 with
    | (s, none) => s.complete o stMemUncorrectable 0 0
    | (s, some entry) =>
      match State.exportArrays ch d fact (List.range d.blocks) s with
      | (s, none) => s.complete o stMemUncorrectable 0 0
      | (s, some (w, m1, m2)) =>
        let h := recordHeader d r.desc (c.hyper r.unit d.group 1) r.epoch entry w.length m1.length m2.length
        let (s, st) := s.putRecord x.target x.dest h (w ++ m1 ++ m2)
        if st = stOk then s.complete o stOk (recordLen d fact) 0 else s.complete o st 0 0

/-- EXPORT_SHARD: `late` leaves the reads to a later moment, when the block serves what it has accepted (log 78). -/
def State.doExport (s : State) (o : OutCmd) (c unit shard dest limit : Nat) (late : Bool) : State :=
  let st := s.namesUnit c unit
  if st ≠ stOk then s.complete o st 0 0
  else
    match s.shardNamed unit shard with
    | (s, none) => s.complete o stBadParam 0 0
    | (s, some r) =>
      let d := shardOf r.desc
      if limit < recordLen d ((s.ctx r.ctx).factored unit d) then s.complete o stBadParam 0 0
      else
        let x : Export := ⟨o, c, r, dest, limit⟩
        if late then { s with exports := s.exports ++ [x] } else s.exportNow x

def execExportShard (t : Nat) (c : Cmd) (unit shard dest : Nat) (room : ExportRoom) (s : State) : Host.Outcome State Fault Refusal :=
  .next ((s.advance t).command c 0x0B (fun o s => s.doExport o (cmdTarget c) unit shard dest room.limit room.late))

/-- The oldest export that waits is served, unless its command has gone. -/
def State.serveExport (s : State) : State :=
  match s.exports with
  | [] => s
  | x :: rest =>
    let s := { s with exports := rest }
    let slot := if x.cmd.ring = 17 then 16 else x.cmd.ring
    if (s.ring slot).out.contains x.cmd then s.exportNow x else s

/-- DIGEST_QUERY. -/
def State.doDigest (s : State) (o : OutCmd) (c unit shard : Nat) : State :=
  let st := s.namesUnit c unit
  if st ≠ stOk then s.complete o st 0 0
  else if shard = 0xFFFF then
    s.complete o stOk (s.reg .UU_DIGEST_LO (unitDie unit) (unitInst unit)) (s.reg .UU_DIGEST_HI (unitDie unit) (unitInst unit))
  else
    match s.shardNamed unit shard with
    | (s, none) => s.complete o stBadParam 0 0
    | (s, some r) =>
      match s.chLoad (channelOf unit) (shardOf r.desc).dig 32 with
      | (s, none) => s.complete o stMemUncorrectable 0 0
      | (s, some e) => s.complete o stOk (fieldAt e 0 8) (fieldAt e 8 8)

def execDigestQuery (t : Nat) (c : Cmd) (unit shard : Nat) (s : State) : Host.Outcome State Fault Refusal :=
  .next ((s.advance t).command c 0x0C (fun o s => s.doDigest o (cmdTarget c) unit shard))

end Sys2Proof.Machine
end

