-- ==== Sys2Proof/Machine/Tiles.lean ====
section
/-!
DEFINITION. Memory system and tiers (chapter 10): memory-side atomic operations, the rows of a stack channel, uncached core accesses, and
the tile mover: the rows TM_LOAD to CORE_UNCACHED_ACCESS.
-/
namespace Sys2Proof.Machine

/-! Memory-side atomic operations (R269 to R272). -/

/-- Operand type: its format, if a float type, and its bytes. -/
def atomType : Nat → Option (Option Fmt × Nat)
  | 0 => some (some .fp32, 4)
  | 1 => some (some .bf16, 2)
  | 2 => some (some .fp64, 8)
  | 3 => some (none, 4)
  | 4 => some (none, 8)
  | _ => none

/-- One element (R270): what m becomes, and whether a float result counts as infinite or NaN. -/
def atomElem (f : Option Fmt) (bytes aop m x : Nat) : Nat × Bool :=
  let w := 8 * bytes
  match f with
  | some f =>
    let bits :=
      match aop with
      | 0 => (roundTo f .rne (vAdd (valOf f m) (valOf f x))).bits
      | 1 => let v := vMin (valOf f m) (valOf f x); if vIsNan v then fmtNan f else if v = valOf f m then m else x
      | 2 => let v := vMax (valOf f m) (valOf f x); if vIsNan v then fmtNan f else if v = valOf f m then m else x
      | _ => x
    (bits, !vFinite (valOf f bits))
  | none =>
    let bits :=
      match aop with
      | 0 => (m + x) % 2 ^ w
      | 1 => if toInt w x < toInt w m then x else m
      | 2 => if toInt w m < toInt w x then x else m
      | _ => x
    (bits, false)

/-- Apply an atomic operation to one line at its channel as one step (R271): the old bytes, or none when the line's read met an
uncorrectable word, which leaves the line. -/
def State.atomicLine (s : State) (ln atype aop : Nat) (ops : List Byte) : State × Option (List Byte) :=
  match atomType atype with
  | none => (s, none)
  | some (f, n) =>
    if s.fencedIn true (64 * ln) 64 then (s.setFenced, none)
    else
    let s := (s.copyRoom State.lineLost (64 * ln) 0).snoopWrite (64 * ln) []
    match s.load (64 * ln) 64 with
    | (s, none) => (s, none)
    | (s, some old) =>
      let k := 64 / n
      let out := ((wordsLE n k old).zip (wordsLE n k ops)).map (fun (m, x) => atomElem f n aop m x)
      let ch := (s.channelAt (64 * ln)).1
      let (s, _) := s.save (64 * ln) (out.flatMap (fun e => leBytes n e.1))
      let s := s.count .STK_ATOMIC (ch / 64) (ch % 64) k
      (s.count .STK_ATOM_NONFINITE (ch / 64) (ch % 64) (out.filter (fun e => e.2)).length, some old)

/-! Loss of the coherent domain (R341, R342). -/

/-- Loss of the coherent domain stops every sweep, resume and repair at its interruption point (R233). -/
def State.stopSweeps (s : State) : State :=
  (s.units.map Prod.fst).foldl (fun s u =>
    match (s.unit u).running with
    | some ⟨_, _, _, .sweeping _⟩ => ((s.stopSweep u).dropRunning u).endRequests u
    | _ => s) s

/-- The coherent domain is lost: update units stop, the cores stop, engine-side accesses at a home end unapplied, every context is fenced,
Meilamo files the record and reports to the board. -/
def State.loseDomain (s : State) (cause line unit : Nat) : State :=
  let waited : Bool := !s.hcx.engineWait.isEmpty || s.hcx.busy.any (fun o => o.acc.isSome)
  let s := s.stopSweeps.setHcx (fun h => { h with
    down := some (cause, s.ft), found := none, engineWait := [], busy := h.busy.filter (fun o => o.acc.isNone) })
  let s := if waited then { s with resp := .failed stContextFenced } else s
  let s := s.happen 8 (.record 0 ⟨stContextFenced, unit, 0xFF, 3, 64 * line, cause⟩)
  let s := s.created.foldl (fun s c => s.faultCtx c stContextFenced noUnit 0 0 0) s
  if s.mgmt.ibiOn then { s with mgmt := { s.mgmt with ibis := s.mgmt.ibis + 1 } } else s

/-- An uncorrectable word of a system-level cache or the directory that has been found loses the domain, and counts (R341). -/
def State.loseFound (s : State) : State :=
  match s.hcx.found with
  | none => s
  | some ln => (s.count .HCX_ECC_UNCORR (s.lineHome ln) 0 1).loseDomain 1 ln (unitId (s.lineHome ln) clsHCX 0x80)

/-! Rows of a stack channel, and engine-side accesses at a home (R334). -/

/-- A partial write that may wait for a fill (R265): one to a line not held starts the fill, one during the fill waits with it, and one to a
held line merges. -/
def State.startFill (s : State) (a : Nat) (bs : List Byte) : State :=
  let ln := lineOf a
  let ch := (s.channelAt a).1
  let s := (s.copyRoom State.lineLost a bs.length).snoopWrite a bs
  match s.entry ln with
  | none =>
    let s := (s.touchStack a).count .STK_WCB_FILL (ch / 64) (ch % 64) 1
    let s := s.makeRoom State.lineLost ch
    s.setEntry ln { bytes := [], lastWrite := s.ft, fill := true, writes := [(a % 64, bs)] }
  | some w =>
    if w.fill then s.setEntry ln { w with writes := w.writes ++ [(a % 64, bs)] }
    else
      match s.mergeWrite a bs w with
      | (s, true) => s
      | (s, false) => { s with resp := .failed stMemUncorrectable }

/-- An engine-side access of a line takes place. -/
def State.serveAcc (s : State) (ln : Nat) : EngAcc → State
  | .read fence =>
    if (match fence with | some e => (s.staleAt e (64 * ln)).isSome | none => false) then { s with resp := .failed stEpochFence }
    else
      match s.load (64 * ln) 64 with
      | (s, some bs) => { s with resp := .bytes bs }
      | (s, none) => { s with resp := .failed stMemUncorrectable }
  | .write off bs row =>
    if row && bs.length < 64 then s.startFill (64 * ln + off) bs
    else
      match s.save (64 * ln + off) bs with
      | (s, true) => if row then s else { s with resp := .none }
      | (s, false) => { s with resp := .failed stMemUncorrectable }
  | .atomic atype aop ops =>
    match s.atomicLine ln atype aop ops with
    | (s, some old) => { s with resp := .bytes old }
    | (s, none) => { s with resp := .failed stMemUncorrectable }

def EngAcc.writes : EngAcc → Bool
  | .read _ => false
  | _ => true

def State.send (s : State) (kind : MsgKind) (core ln : Nat) (bs : List Byte) : State :=
  s.setHcx (fun h => { h with msgs := h.msgs ++ [{ kind := kind, core := core, line := ln, bytes := bs }] })

def State.setOp (s : State) (o : HomeOp) : State :=
  s.setHcx (fun h => { h with busy := o :: h.busy.filter (fun x => x.line ≠ o.line) })

/-- Begin to wait for answers: a message to each core. -/
def State.ask (s : State) (o : HomeOp) (kind : MsgKind) (cores : List Nat) : State :=
  cores.foldl (fun s k => s.send kind k o.line []) (s.setOp { o with missing := cores, since := s.ft })

/-- A home reads a line's directory entry: a corrected word counts (R450); false on an uncorrectable one, which loses the domain (R341). -/
def State.dirRead (s : State) (ln : Nat) : State × Bool :=
  match s.meets (fun w => w = .dir ln) with
  | (_, true) => (s.findError ln, false)
  | (0, false) => (s, true)
  | (n, false) => (s.count .HCX_ECC_CORR (s.lineHome ln) 0 n, true)

/-- Serve an engine-side access for a line that the home is not busy with: it waits for answers, or is done at once (true). -/
def State.serveEngine (s : State) (ln : Nat) (x : EngAcc) : State × Bool :=
  match s.dirRead ln with
  | (s, false) => ({ s with resp := .failed stContextFenced }, true)
  | (s, true) =>
    let op (kind : OpKind) : HomeOp := { line := ln, kind := kind, acc := some x }
    match x.writes, s.homeEntry ln with
    | false, some (.owned k) => ((s.count .HCX_SNOOPS (s.lineHome ln) 0 1).ask (op .read) .fwdS [k], false)
    | true, some (.owned k) => ((s.count .HCX_SNOOPS (s.lineHome ln) 0 1).ask (op .write) .fwdI [k], false)
    | true, some e => ((s.count .HCX_SNOOPS (s.lineHome ln) 0 1).ask (op .write) .inv e.cores, false)
    | _, _ => (s.serveAcc ln x, true)

/-- A row of a channel on a line: it ends unapplied when the coherent domain is lost and the access needs a snoop or a busy home (R342), and
waits its turn while the home is busy with the line, or for the answer of a core within its hold (R334, R339). -/
def State.atChannel (s : State) (ln : Nat) (x : EngAcc) : State :=
  let s :=
    if s.fencedIn x.writes (64 * ln) 64 then { s with resp := .failed stContextFenced }
    else if !s.homeBusy x.writes (64 * ln) 64 then s.serveAcc ln x
    else if (s.homeOp ln).isSome then s.setHcx (fun h => { h with engineWait := h.engineWait ++ [(ln, x)] })
    else (s.serveEngine ln x).1
  s.loseFound

/-- ATOMIC_LINE_APPLY: the answer is the line's old value. -/
def execAtomicLineApply (t line atype aop : Nat) (operands : List Byte) (s : State) : Host.Outcome State Fault Refusal :=
  let s := s.advance t
  if !isTier1 (64 * line) || operands.length ≠ 64 || aop ≥ 4 || (atomType atype).isNone then .next s
  else .next (s.atChannel line (.atomic atype aop operands))

/-- CHANNEL_LINE_READ: the line that holds an address, with the epoch fence of R195 when one is asked for. -/
def execChannelLineRead (t addr : Nat) (fence : Option Nat) (s : State) : Host.Outcome State Fault Refusal :=
  let s := s.advance t
  if !isTier1 addr then .next s else .next (s.atChannel (lineOf addr) (.read fence))

/-- CHANNEL_LINE_WRITE: bytes within one line. -/
def execChannelLineWrite (t addr : Nat) (data : List Byte) (s : State) : Host.Outcome State Fault Refusal :=
  let s := s.advance t
  if !isTier1 addr || data.isEmpty || addr % 64 + data.length > 64 then .next s
  else .next (s.atChannel (lineOf addr) (.write (addr % 64) data true))

/-- A fill has met an uncorrectable word: the partial write that began it, and what waited with it, end with MEM_UNCORRECTABLE, under a
record of the channel (R267, R452). -/
def State.fillFailed (s : State) (ln : Nat) : State :=
  { ({ s with failedFills := s.failedFills.filter (fun l => l ≠ ln) }.lineLost ln) with resp := .failed stMemUncorrectable }

/-- WCB_FILL_DONE (R266, R267): no earlier than 48 ns after the write that began it. A fill that another request has ended in vain is told
here. -/
def execWcbFillDone (t line : Nat) (s : State) : Host.Outcome State Fault Refusal :=
  let s := s.advance t
  if s.failedFills.contains line then .next (s.fillFailed line)
  else
    match s.entry line with
    | none => .next s
    | some w =>
      if !w.fill || s.ft < w.lastWrite + 48 then .next s
      else
        match s.finishFill line with
        | (s, true) => .next s
        | (s, false) => .next (if s.failedFills.contains line then s.fillFailed line else { s with resp := .failed stMemUncorrectable })

/-- WCB_FLUSH (R268): 1,024 ns after the last write. Allocation pressure and self-refresh write out as they occur. -/
def execWcbFlush (t line : Nat) (s : State) : Host.Outcome State Fault Refusal :=
  let s := s.advance t
  match s.entry line with
  | none => .next s
  | some w => if s.ft < w.lastWrite + 1024 then .next s else .next (s.flushEntry State.lineLost line)

/-- No channel of a stack is in a context's partition. -/
def State.stackUnowned (s : State) (stack : Nat) : Bool := (countFrom (stack * 32) 32).all (fun ch => (s.channelOwner ch).isNone)

/-- The address that names, under the interleave of `s'`, the byte that a tier-1 address names under that of `s` (R262 to R264). -/
def State.renamed (s s' : State) (a : Nat) : Nat := let (ch, off) := s.channelAt a; s'.channelAddr ch off

/-- The map of tier 1 under other addresses; `k` is the number of bytes that a key stands for. -/
def moveKeys {α : Type} [DecidableEq α] (d : α) (k : Nat) (f : Nat → Nat) (m : Sparse α) : Sparse α :=
  (m.filter (fun e => isTier1 (k * e.1))).foldl (fun m e => Sparse.put d m (f (k * e.1) / k) e.2) (Sparse.dropKeys (fun a => isTier1 (k * a)) m)

/-- A write to STK_ILV (R264): each field on its own; 6 and 7 leave it. No data moves: the bytes of tier 1 and the entries of the
write-combining buffers stay where they are, under other addresses. -/
def State.writeIlv (s : State) (die v : Nat) : State :=
  let field (old new stack : Nat) : Nat := if new ≤ 5 && s.stackUnowned stack then new else old
  let r := s.reg .STK_ILV die 0
  let lo := field (bitsOf r 2 0) (bitsOf v 2 0) (2 * die)
  let hi := field (bitsOf r 10 8) (bitsOf v 10 8) (2 * die + 1)
  let s' := s.setReg .STK_ILV die 0 (lo + 256 * hi)
  let moved := s.renamed s'
  { s' with
    mem := moveKeys 0#8 1 moved s.mem, ecc := moveKeys 0 8 moved s.ecc
    wcb := s.wcb.map (fun e => (moved (64 * e.1) / 64, e.2)) }

def execStkIlvWrite (t die value : Nat) (s : State) : Host.Outcome State Fault Refusal :=
  let s := s.advance t
  if die ≥ 8 then .next s else .next (s.writeIlv die value)

/-- The cores run and the coherent domain is up. -/
def State.coresRun (s : State) : Bool := s.hcx.running && !s.domainDown

/-- The unit id of a core (R3, R31). -/
def coreUnit (core : Nat) : Nat := unitId (core / 24) clsHCX (core % 24)

/-- A core access met an uncorrectable word (R453). -/
def State.coreFault (s : State) (core addr : Nat) : State :=
  { s.raise stMemUncorrectable (coreUnit core) 0xFF 1 addr 0 with resp := .accessFault }

/-- CORE_UNCACHED_ACCESS (R260, R314, R326, R327): a load or store of working store or of an ENGINE page. An address that is not assigned, or
with any of bits 55:44 set, raises an access fault, and so does an AMO, LR or SC. -/
def execCoreUncachedAccess (t core addr size : Nat) (access : CoreAccess) (s : State) : Host.Outcome State Fault Refusal :=
  let s := s.advance t
  if core ≥ 192 || !s.coresRun || size = 0 || size > 8 then .next s
  else if !(isTier1 addr || isWs addr) || !(isTier1 (addr + size - 1) || isWs (addr + size - 1)) then
    .next (if isRegAddr addr then s else { s with resp := .accessFault })
  else if s.isShared addr then .next s
  else
    match access with
    | .load =>
      match s.load addr size with
      | (s, some bs) => .next { s with resp := .value (leNat bs) }
      | (s, none) => .next (s.coreFault core addr)
    | .store v =>
      match s.save addr (leBytes size v) with
      | (s, true) => .next { s with resp := .none }
      | (s, false) => .next (s.coreFault core addr)
    | .atomic => .next { s with resp := .accessFault }

/-! Tile moves. -/

/-- A storage form (R276): wide and narrow format (none: bits copied), elements of a tile, bytes of its element and scale part. -/
structure Form where
  fmts : Option (Fmt × Fmt)
  elems : Nat
  epart : Nat
  spart : Nat
  deriving DecidableEq, Repr

def formTable (wide : Fmt) : Nat → Option Form
  | 3 => some ⟨some (wide, .e4m3), 2048, 2048, 64⟩
  | 4 => some ⟨some (wide, .e5m2), 2048, 2048, 64⟩
  | 5 => some ⟨some (wide, .e3m2), 2048, 1536, 64⟩
  | 6 => some ⟨some (wide, .e2m3), 2048, 1536, 64⟩
  | 7 => some ⟨some (wide, .e2m1), 2048, 1024, 64⟩
  | _ => none

def formCode (c : Nat) : Option Form :=
  if c = 0 then some ⟨none, 0, 4096, 0⟩
  else if c = 1 then some ⟨some (.fp32, .bf16), 1024, 2048, 0⟩
  else if c = 2 then some ⟨some (.fp32, .e4m3), 1024, 1024, 32⟩
  else if c < 8 then formTable .bf16 c
  else if 0x13 ≤ c && c ≤ 0x17 then formTable .fp16 (c - 0x10)
  else none

/-- A tile descriptor (R274). -/
structure Tm where
  lower : Nat
  lscale : Nat
  ws : Nat
  tiles : Nat
  lstride : Nat
  wstride : Nat
  form : Form
  fence : Bool
  dirty : Bool
  ret : Bool
  mode : Nat
  atype : Nat
  tid : Nat
  base : Nat
  istride : Nat
  size0 : Nat
  row : Nat
  flag : Nat
  deriving DecidableEq, Repr

def parseTm (action : Nat) (d : List Byte) : Tm :=
  let fl := fieldAt d 33 1
  let code := fieldAt d 32 1
  { lower := fieldAt d 0 8, lscale := fieldAt d 8 8, ws := fieldAt d 16 4, tiles := fieldAt d 20 4, lstride := fieldAt d 24 4
    wstride := fieldAt d 28 4, form := ((if action = 3 then formCode 0 else formCode code).getD ⟨none, 0, 4096, 0⟩), fence := bitOf fl 0
    dirty := bitOf fl 1, ret := bitOf fl 2, mode := fieldAt d 34 1, atype := code, tid := fieldAt d 36 4, base := fieldAt d 40 8
    istride := fieldAt d 48 8, size0 := fieldAt d 56 4, row := fieldAt d 60 2, flag := fieldAt d 62 2 }

/-- Element `k` of tile `t` is a pad (R82): a scaled form pads the rows of a tensor whose dimension 0 is no multiple of 32, and the element's
place in dimension 0, from BASE_IDX on, lies past SIZE_0 (log 81). -/
def Tm.pad (m : Tm) (t k : Nat) : Bool := m.form.spart ≠ 0 && m.size0 ≤ (m.base + t * m.istride) % m.size0 + k % m.row

/-- Index of element k of tile t for stochastic rounding (R274), before it is cut to 40 bits. -/
def Tm.place (m : Tm) (t k : Nat) : Nat := m.base + t * m.istride + k / m.row * m.size0 + k % m.row
def Tm.index (m : Tm) (t k : Nat) : Nat := m.place t k % 2 ^ 40

/-- A STORE that rounds stochastically has no element at index 2^40 or beyond (R95): the last of each tile row decides. -/
def Tm.indexOk (m : Tm) : Bool :=
  m.mode ≠ 2 || (List.range m.tiles).all (fun t =>
    let last := m.place t (m.form.elems - 1)
    let c := (m.base + t * m.istride) % m.size0 + (m.row - 1)
    (if m.form.spart = 0 || c < m.size0 then last else last - (c - (m.size0 - 1))) < 2 ^ 40)

/-- Smallest power of two not below `n`. -/
def alignUnit (n : Nat) : Nat := 2 ^ clog2 n

/-- The fields of a tile descriptor. -/
def tmFieldsOk (action : Nat) (d : List Byte) : Bool :=
  let m := parseTm action d
  let code := fieldAt d 32 1
  let a := alignUnit m.form.epart
  (if action = 3 then code < 5 else (formCode code).isSome) &&
  (match action with | 1 => fieldAt d 33 1 < 2 | 2 => fieldAt d 33 1 == 0 || fieldAt d 33 1 == 2 | _ => fieldAt d 33 1 == 0 || fieldAt d 33 1 == 4) &&
  (match action with | 1 => m.mode == 0 | 2 => m.mode < 3 | _ => m.mode < 4) &&
  zeroAt d 35 1 && m.lower % a == 0 && (if m.form.spart = 0 then m.lscale == 0 else m.lscale % m.form.spart == 0) &&
  m.ws < 2 ^ 30 && m.ws % 4096 == 0 && 1 ≤ m.tiles && m.tiles ≤ 65536 && m.lstride % a == 0 && m.form.epart ≤ m.lstride &&
  m.wstride % 4096 == 0 && 4096 ≤ m.wstride && m.tid < 2 ^ 24 && m.base < 2 ^ 40 && m.istride < 2 ^ 40 && 1 ≤ m.size0 &&
  (m.form.elems == 0 || (m.row ≠ 0 && m.row % 32 == 0 && m.form.elems % m.row == 0)) && (m.flag < 1024 || m.flag == 0xFFFF) &&
  (action ≠ 2 || m.form.elems == 0 || m.indexOk)

/-- The check of a fetched tile descriptor (R273, R275): OK, BAD_PARAM or TRANSLATION_FAULT. -/
def tmCheck (p : Part) (die action : Nat) (d : List Byte) : Nat :=
  if !(action = 1 || action == 2 || action == 3) || !tmFieldsOk action d then stBadParam
  else
    let m := parseTm action d
    if (List.range m.tiles).all (fun t => inBanks p die (m.ws + t * m.wstride) 4096) then stOk else stTranslationFault

/-- A unit id is a tile mover. -/
def isMover (u : Nat) : Bool := unitCls u == clsWS && unitInst u ≥ 16

/-- Count at a tile mover. -/
def State.countMover (s : State) (r : Reg) (u n : Nat) : State := s.count r (unitDie u) (unitInst u - 16) n

/-- A tile of the move on a unit fails (R286): the record, and the context's ending; no tile is issued any more, and the pour ends,
without a signal, when the issued ones have landed. -/
def State.moveFails (s : State) (u code unit addr detail : Nat) : State :=
  match s.runningOn u with
  | none => s
  | some r =>
    match r.prog with
    | .moving n fl _ first arr =>
      let code := if code = stMemUncorrectable && s.hcx.fenced then stContextFenced else code
      let s := s.setHcx (fun h => { h with fenced := false })
      let s := if fl.isEmpty then s.dropRunning u else s.setProg u (.moving n fl true first arr)
      s.faultCtx r.held.ctx code unit addr detail r.held.pour.offset
    | _ => s

/-- A move all of whose tiles have landed: it sends its arrival to the other package (R275), or has ended. -/
def State.moveGoes (s : State) (u : Nat) : State :=
  match s.runningOn u with
  | none => s
  | some r =>
    match r.prog with
    | .moving n [] failed first arr =>
      let m := parseTm r.held.pour.action r.held.bytes
      if failed then s.dropRunning u
      else if n < m.tiles || arr then s
      else if r.held.pour.action = 1 || m.flag == 0xFFFF || gaPkg first == s.pkgId then s.ended u
      else
        let q : Req := { tag := 0, dst := gaPkg first, typ := tArrival, birth := 0, addr := first, unit := u, ctx := r.held.ctx, tile := 0, part := 2 }
        let k : Pkt := { typ := tArrival, vc := 0, dst := gaPkg first, src := s.pkgId, tag := 0, port := 0, addr := gaLocal first, len := 0
                         birth := 0, ops := 0, flag := m.flag, epoch := 0, body := [] }
        match s.route (gaPkg first) with
        | none => (s.countPort .PORT_NO_ROUTE (unitDie u * 2) 1).moveFails u stFabricTimeout u first 0
        | some p =>
          match s.issue p k q with
          | (s, .sent) => s.setProg u (.moving n [] false first true)
          | (s, .noTag) => s
          | (s, .noRoute) => s.moveFails u stFabricTimeout u first 0
    | _ => s

/-- Remove a tile from flight. -/
def State.unfly (s : State) (u tile : Nat) : State :=
  match s.runningOn u with
  | none => s
  | some r =>
    match r.prog with
    | .moving n fl f first arr => s.setProg u (.moving n (fl.filter (fun x => x.tile ≠ tile)) f first arr)
    | _ => s

/-- A tile has landed whole. -/
def State.landed (s : State) (u tile : Nat) : State := ((s.unfly u tile).countMover .WS_TM_TILES u 1).moveGoes u

/-- A tile in flight has failed: nothing of it lands. -/
def State.tileFails (s : State) (u tile code unit addr detail : Nat) : State :=
  ((s.unfly u tile).moveFails u code unit addr detail).moveGoes u

/-! Conversion (R277). -/

/-- Widen the parts of tile `t` (LOAD): the 4 KiB tile and what it counts. A pad is ignored and written as 0. -/
def Tm.widen (m : Tm) (t : Nat) (e sc : List Byte) : List Byte × Nat × Nat :=
  match m.form.fmts with
  | none => (e, 0, 0)
  | some (wide, nar) =>
    let scales := sc.map (fun b : Byte => b.toNat)
    let rs := ((unpackElems nar e m.form.elems).zip (List.range m.form.elems)).map (fun (b, i) =>
      if m.pad t i then { bits := 0, sat := false, nonfin := false : Rounded }
      else roundTo wide .rne (if m.form.spart = 0 then valOf nar b else scaledBy (scales.getD (i / 32) 0) (valOf nar b)))
    (packElems wide (rs.map (fun r => r.bits)), (rs.filter (fun r => r.sat)).length, (rs.filter (fun r => r.nonfin)).length)

/-- Narrow a 4 KiB tile (STORE): element part, scale part, and what it counts. A pad takes no part in its block and is written as 0. -/
def Tm.narrow (m : Tm) (seed heat t : Nat) (wide : List Byte) : List Byte × List Byte × Nat × Nat :=
  match m.form.fmts with
  | none => (wide, [], 0, 0)
  | some (w, nar) =>
    let vals := (unpackElems w wide m.form.elems).map (valOf w)
    let mode (k : Nat) : RMode := modeOf m.mode (if m.mode = 2 then srHash seed m.tid (m.index t k) heat else 0)
    if m.form.spart = 0 then
      let rs := (vals.zip (List.range m.form.elems)).map (fun (v, k) => roundTo nar (mode k) v)
      (packElems nar (rs.map (fun r => r.bits)), [], (rs.filter (fun r => r.sat)).length, (rs.filter (fun r => r.nonfin)).length)
    else
      let valid (b : Nat) : Nat := ((List.range 32).filter (fun j => !m.pad t (32 * b + j))).length
      let blocks := ((chunksOf 32 vals).zip (List.range m.form.spart)).map (fun (vs, b) => (vs.take (valid b), b))
      let xs := blocks.map (fun (vs, _) => blockScale nar vs)
      let rs := (blocks.zip xs).map (fun ((vs, b), x) => blockElems nar x vs ((List.range 32).map (fun j => mode (32 * b + j))))
      let all := rs.flatten
      (packElems nar (rs.flatMap (fun l => (l.map (fun r => r.bits)) ++ List.replicate (32 - l.length) 0)), xs.map (BitVec.ofNat 8)
        , (all.filter (fun r => r.sat)).length, (all.filter (fun r => r.nonfin)).length)

/-! Issue (R275, R494). -/

/-- What a tile's translation gave: the global addresses of its parts, or the failure (unit, code, address, detail). -/
inductive Target where
  | at (elem scale : Nat)
  | bad (code addr detail : Nat)
  deriving DecidableEq, Repr

/-- A part's global address, checked against R275 and R285. -/
def State.tilePart (s : State) (u c tile va n : Nat) (need : Need) (atomic : Bool) : State × Except (Nat × Nat × Nat) Nat :=
  match s.translate (unitDie u) c va need with
  | (s, .error e) => (s, .error (e.code, va, e.detail))
  | (s, .ok g) =>
    let a := gaLocal g
    let own : Bool := gaPkg g = s.pkgId
    if !isAssigned a then (s, .error (stTranslationFault, a, tile))
    else if !(isTier1 a || (isWs a && !own && !atomic)) then (s, .error (stBadParam, a, tile))
    else if own && !(linesOf a n).all (fun ln => s.ownsAddr c (64 * ln)) then (s, .error (stTranslationFault, a, tile))
    else (s, .ok g)

def State.tileTarget (s : State) (u c : Nat) (action : Nat) (m : Tm) (t : Nat) : State × Target :=
  let need : Need := match action with | 1 => .rd | 2 => .wr | _ => .atom
  match s.tilePart u c t (m.lower + t * m.lstride) m.form.epart need (action = 3) with
  | (s, .error (code, a, d)) => (s, .bad code a d)
  | (s, .ok e) =>
    if m.form.spart = 0 then (s, .at e 0)
    else
      match s.tilePart u c t (m.lscale + t * m.form.spart) m.form.spart need false with
      | (s, .error (code, a, d)) => (s, .bad code a d)
      | (s, .ok g) => (s, .at e g)

/-- Working-store address of a wide tile. -/
def Tm.wsOf (m : Tm) (die t : Nat) : Nat := wsAt die (m.ws + t * m.wstride)

/-- A request packet of a tile. -/
def tilePkt (typ g len ops epoch : Nat) (body : List Byte) : Pkt :=
  { typ := typ, vc := 0, dst := gaPkg g, src := 0, tag := 0, port := 0, addr := gaLocal g, len := len, birth := 0, ops := ops, flag := 0
    epoch := epoch, body := body }

/-- A write of one part: whole lines, or the bytes of one line under a mask. -/
def writePkt (g : Nat) (bs : List Byte) : Pkt :=
  if g % 64 = 0 && bs.length % 64 == 0 then tilePkt tWrite g bs.length 0 0 bs
  else
    let off := g % 64
    let line := overlay (List.replicate 64 0#8) off bs
    tilePkt tMasked (g - off) 64 0 0 (line ++ leBytes 8 (2 ^ off * (2 ^ bs.length - 1)))

/-- The requests of a tile to another package. -/
def Tm.requests (m : Tm) (action epoch : Nat) (e g : Nat) (ebytes sbytes : List Byte) : List (Nat × Pkt) :=
  match action with
  | 1 =>
    let ops := if m.fence then 64 else 0
    let ep := if m.fence then epoch else 0
    (0, tilePkt tRead e m.form.epart ops ep []) :: (if m.form.spart = 0 then [] else [(1, tilePkt tRead (g - g % 64) 64 ops ep [])])
  | 2 => (0, writePkt e ebytes) :: (if m.form.spart = 0 then [] else [(1, writePkt g sbytes)])
  | _ => [(0, tilePkt tAtomic e 4096 (m.atype + 8 * m.mode + 32 * b2n m.ret) 0 ebytes)]

/-- Send the requests of a tile, each through the port of its package; the caller has seen that tags are free. -/
def State.sendTile (u tile : Nat) (r : Running) (m : Tm) (rs : List (Nat × Pkt)) (s : State) : State :=
  rs.foldl (fun s (part, k) =>
    match s.route k.dst with
    | none => s
    | some p => (s.issue p k
        { tag := 0, dst := k.dst, typ := k.typ, birth := 0, addr := k.addr + 2 ^ 44 * k.dst, unit := u, ctx := r.held.ctx, tile := tile
          part := part, len := k.len, launch := r.launched
          va := if part = 0 then m.lower + tile * m.lstride else m.lscale + tile * m.form.spart }).1) s

/-- Tile `t` of a move flies. -/
def State.fly (s : State) (u : Nat) (x : Fly) (first : Nat) : State :=
  match s.runningOn u with
  | some r =>
    match r.prog with
    | .moving n fl f _ arr => s.setProg u (.moving (n + 1) (fl ++ [x]) f first arr)
    | _ => s
  | none => s

/-- The packages other than this one that a tile's parts lie in. -/
def State.otherPkgs (s : State) (m : Tm) (e g : Nat) : List Nat :=
  (if gaPkg e ≠ s.pkgId then [gaPkg e] else []) ++ (if m.form.spart ≠ 0 && gaPkg g ≠ s.pkgId then [gaPkg g] else [])

/-- A tile waits before it is issued: a port has no two tags free for its requests, or, of an ATOMIC move to another package, an earlier tile
has not been applied (R271). -/
def State.tileWaits (s : State) (r : Running) (m : Tm) (e g : Nat) : Bool :=
  let dsts := s.otherPkgs m e g
  dsts.any (fun d => match s.route d with | some p => (s.port p).freeTags.length < 2 | none => false) ||
  (r.held.pour.action = 3 && !dsts.isEmpty && (match r.prog with | .moving _ fl _ _ _ => !fl.isEmpty | _ => false))

/-- The first line of a range whose read meets an uncorrectable word. -/
def State.badLine (s : State) (a n : Nat) : Nat := match s.badWord a n with | some w => 64 * (w * 8 / 64) | none => 64 * (a / 64)

/-- A tile of another package is issued: a STORE or an ATOMIC reads its source first. Of a STORE with a scale part only the scale request
goes out, since a write of half a line can fail for its line: the element part follows once the scale part is written (R286, log 95). -/
def State.issueRemote (s : State) (u : Nat) (r : Running) (m : Tm) (t e g first : Nat) : State :=
  let c := r.held.ctx
  let action := r.held.pour.action
  let die := unitDie u
  if (s.otherPkgs m e g).any (fun d => (s.route d).isNone) then
    ((s.countPort .PORT_NO_ROUTE (die * 2) 1).moveFails u stFabricTimeout u e t).moveGoes u
  else
    let a := m.wsOf die t
    let (s, src) := if action = 1 then (s, some []) else s.load a 4096
    match src with
    | none => (s.moveFails u stMemUncorrectable u (s.badLine a 4096) t).moveGoes u
    | some bs =>
      let (eb, sb, sat, nf) := if action = 2 then m.narrow (s.ctx c).seed r.held.heat t bs else (bs, [], 0, 0)
      let s := (s.countMover .WS_TM_SAT u sat).countMover .WS_TM_NONFINITE u nf
      let s := if action = 3 then s.countMover .WS_TM_ATOMIC u 64 else s
      let rs := (m.requests action r.held.heatEpoch e g eb sb).filter (fun q => q.2.dst ≠ s.pkgId)
      if action = 2 && m.form.spart ≠ 0 then
        let rs := rs.filter (fun q => q.1 = 1)
        (State.sendTile u t r m rs s).fly u { tile := t, elem := e, scale := g, awaits := rs.length, got := [(2, eb), (3, sb)] } first
      else (State.sendTile u t r m rs s).fly u { tile := t, elem := e, scale := g, awaits := rs.length } first

/-- Issue the next tile. A tile that has to wait leaves everything as it is, its granule's dirty bit too (R283). -/
def State.issueTile (s₀ : State) (u : Nat) (r : Running) (n first : Nat) : State :=
  let action := r.held.pour.action
  let m := parseTm action r.held.bytes
  let die := unitDie u
  match s₀.tileTarget u r.held.ctx action m n with
  | (s, .bad code a d) => (s.moveFails u code u a d).moveGoes u
  | (s, .at e g) =>
    let first := if n = 0 then e else first
    let gran := wsGranule (m.wsOf die n)
    if action = 2 && m.dirty && Sparse.at? false s.clean gran then
      (((s.fly u { tile := n, elem := e, scale := g } first).unfly u n).countMover .WS_TM_SKIPPED u 1).moveGoes u
    else if s.tileWaits r m e g then s₀
    else
      let s := if action = 2 && m.dirty then { s with clean := Sparse.put false s.clean gran true } else s
      if (s.otherPkgs m e g).isEmpty then s.fly u { tile := n, elem := e, scale := g } first
      else s.issueRemote u r m n e g first

/-- TILE_ISSUE. A move whose tiles have all landed and whose arrival still waits for a tag sends it. -/
def execTileIssue (t unit : Nat) (s : State) : Host.Outcome State Fault Refusal :=
  let s := s.advance t
  if !isMover unit then .next s
  else
    match s.runningOn unit with
    | none => .next s
    | some r =>
      match r.prog with
      | .start => if r.held.pour.action = 0 then .next s
        else .next ((s.setProg unit (.moving 0 [] false 0 false)).issueTile unit r 0 0)
      | .moving n _ failed first _ =>
        if n ≥ (parseTm r.held.pour.action r.held.bytes).tiles then .next (s.moveGoes unit)
        else if failed || s.ft < r.launched + 16 * n then .next s
        else .next (s.issueTile unit r n first)
      | _ => .next s

/-! Landing. -/

/-- The tile of a move of an action that is in flight and has every answer. -/
def State.flies (s : State) (u action tile : Nat) : Option (Running × Fly) :=
  if !isMover u then none
  else
    match s.runsAction u action with
    | some r =>
      match r.prog with
      | .moving _ fl _ _ _ => (fl.find? (fun x => x.tile = tile && x.awaits == 0)).map (fun x => (r, x))
      | _ => none
    | none => none

/-- The first block of a tile's parts whose epoch differs from the one carried (R195): its address and the epoch found. -/
def State.fenceHit (s : State) (e : Nat) (parts : List (Nat × Nat)) : Option (Nat × Nat) :=
  (parts.flatMap (fun p => linesOf p.1 p.2)).findSome? (fun ln =>
    (s.staleAt e (64 * ln)).map (fun r => (64 * ln, r)))

/-- One part of a LOAD tile: the data that another package sent, or a read of tier 1; the line that failed otherwise. -/
def State.tilePartBytes (s : State) (x : Fly) (part g n : Nat) : State × Except Nat (List Byte) :=
  match x.got.find? (fun p => p.1 = part) with
  | some (_, bs) => (s, .ok ((bs.drop (if part = 1 then g % 64 else 0)).take n))
  | none =>
    if n = 0 then (s, .ok [])
    else
      match s.load (gaLocal g) n with
      | (s, none) => (s, .error (s.badLine (gaLocal g) n))
      | (s, some bs) => (s, .ok bs)

/-- Both parts. -/
def State.tileParts (s : State) (m : Tm) (x : Fly) : State × Except Nat (List Byte × List Byte) :=
  match s.tilePartBytes x 0 x.elem m.form.epart with
  | (s, .error a) => (s, .error a)
  | (s, .ok e) =>
    match s.tilePartBytes x 1 x.scale m.form.spart with
    | (s, .error a) => (s, .error a)
    | (s, .ok sc) => (s, .ok (e, sc))

/-- The parts of a tile that lie in this package: package-local address and bytes. -/
def State.ownParts (s : State) (m : Tm) (x : Fly) : List (Nat × Nat) :=
  (if gaPkg x.elem = s.pkgId then [(gaLocal x.elem, m.form.epart)] else []) ++
  (if m.form.spart ≠ 0 && gaPkg x.scale == s.pkgId then [(gaLocal x.scale, m.form.spart)] else [])

/-- TM_LOAD: a tile of a LOAD is read and lands in the working store (R277, R282, R494). -/
def State.landLoad (s : State) (unit tile : Nat) : State :=
  match s.flies unit 1 tile with
  | none => s
  | some (r, x) =>
    let m := parseTm 1 r.held.bytes
    let e := r.held.heatEpoch
    let parts := s.ownParts m x
    if parts.any (fun p => s.homeBusy false p.1 p.2) then s
    else
    match (if m.fence then s.fenceHit e parts else none) with
    | some (a, found) =>
      let ch := (s.channelAt a).1
      (s.tileFails unit tile stEpochFence (unitId (ch / 64) clsSTK (ch % 64)) a (e + 2 ^ 32 * found))
    | none =>
      match s.tileParts m x with
      | (s, .error a) => (s.tileFails unit tile stMemUncorrectable unit a tile)
      | (s, .ok (eb, sb)) =>
        let (wide, sat, nf) := m.widen tile eb sb
        let s := (s.countMover .WS_TM_SAT unit sat).countMover .WS_TM_NONFINITE unit nf
        let a := m.wsOf (unitDie unit) tile
        let (s, _) := s.save a wide
        ({ s with clean := Sparse.put false s.clean (wsGranule a) true }.landed unit tile)

def execTmLoad (t unit tile : Nat) (s : State) : Host.Outcome State Fault Refusal := .next ((s.advance t).landLoad unit tile).loseFound

/-- The element bytes of a STORE tile are on their way. -/
def State.elemsSent (s : State) (u tile : Nat) : State :=
  match s.runningOn u with
  | none => s
  | some r =>
    match r.prog with
    | .moving n fl f first arr =>
      s.setProg u (.moving n (fl.map (fun y => if y.tile = tile then { y with awaits := 1, got := [(4, [])] } else y)) f first arr)
    | _ => s

/-- The scale part of a STORE tile, when it lies in this package. -/
def State.storeScale (s : State) (x : Fly) : State × Bool :=
  if gaPkg x.scale ≠ s.pkgId then (s, true) else s.save (gaLocal x.scale) (lookupD [] x.got 3)

/-- A STORE tile with a scale part and a part in another package, read when it was issued (`got`): a scale part of this package is written,
then the element part is written, or sent to its package, for whose answer the tile waits. A port without a free tag holds it. -/
def State.landLate (s : State) (unit : Nat) (r : Running) (m : Tm) (x : Fly) : State :=
  let bad (s : State) (a : Nat) : State := s.tileFails unit x.tile stMemUncorrectable unit a x.tile
  let eb := lookupD [] x.got 2
  if x.got.any (fun g => g.1 = 4) then s.landed unit x.tile
  else if gaPkg x.elem = s.pkgId then
    match s.storeScale x with
    | (s, false) => bad s (64 * (gaLocal x.scale / 64))
    | (s, true) =>
      match s.save (gaLocal x.elem) eb with
      | (s, true) => s.landed unit x.tile
      | (s, false) => bad s (gaLocal x.elem)
  else
    match s.route (gaPkg x.elem) with
    | none => (s.countPort .PORT_NO_ROUTE (unitDie unit * 2) 1).tileFails unit x.tile stFabricTimeout unit x.elem x.tile
    | some p =>
      if (s.port p).freeTags.isEmpty then s
      else
        match s.storeScale x with
        | (s, false) => bad s (64 * (gaLocal x.scale / 64))
        | (s, true) => (State.sendTile unit x.tile r m [(0, writePkt x.elem eb)] s).elemsSent unit x.tile

/-- TM_STORE: a tile of a STORE is read and lands at its lower address. The scale part, which alone can fail, goes first, so that a failed
tile writes nothing (R286). A tile with a part in another package has been read, and has counted, when it was issued. -/
def State.landStore (s : State) (unit tile : Nat) : State :=
  match s.flies unit 2 tile with
  | none => s
  | some (r, x) =>
    let m := parseTm 2 r.held.bytes
    let parts := s.ownParts m x
    if parts.any (fun p => s.homeBusy true p.1 p.2) then s
    else if parts.any (fun p => s.fencedIn true p.1 p.2) then s.tileFails unit tile stContextFenced unit (gaLocal x.elem) tile
    else if !x.got.isEmpty then s.landLate unit r m x
    else if parts.isEmpty then (s.landed unit tile)
    else
      let a := m.wsOf (unitDie unit) tile
      match s.load a 4096 with
      | (s, none) => (s.tileFails unit tile stMemUncorrectable unit (s.badLine a 4096) tile)
      | (s, some bs) =>
        let (eb, sb, sat, nf) := m.narrow (s.ctx r.held.ctx).seed r.held.heat tile bs
        let s := (s.countMover .WS_TM_SAT unit sat).countMover .WS_TM_NONFINITE unit nf
        let (s, ok) := if m.form.spart = 0 then (s, true) else s.save (gaLocal x.scale) sb
        if !ok then (s.tileFails unit tile stMemUncorrectable unit (64 * (gaLocal x.scale / 64)) tile)
        else
          match s.save (gaLocal x.elem) eb with
          | (s, true) => (s.landed unit tile)
          | (s, false) => (s.tileFails unit tile stMemUncorrectable unit (gaLocal x.elem) tile)

def execTmStore (t unit tile : Nat) (s : State) : Host.Outcome State Fault Refusal := .next ((s.advance t).landStore unit tile).loseFound

/-- The lines of an ATOMIC tile in ascending order (R271): the old values, or the line that failed. -/
def State.atomicLines (atype aop : Nat) : List (Nat × List Byte) → State → State × Except Nat (List Byte)
  | [], s => (s, .ok [])
  | (ln, ops) :: rest, s =>
    match s.atomicLine ln atype aop ops with
    | (s, none) => (s, .error (64 * ln))
    | (s, some old) =>
      match State.atomicLines atype aop rest s with
      | (s, .ok more) => (s, .ok (old ++ more))
      | (s, .error a) => (s, .error a)

/-- With RETURN, the old values go to the tile's place in the working store (log 61). -/
def State.atomicReturns (s : State) (unit tile : Nat) (m : Tm) (old : List Byte) : State :=
  if m.ret then ((s.save (m.wsOf (unitDie unit) tile) old).1).landed unit tile else s.landed unit tile

/-- TM_ATOMIC: tiles in ascending order. -/
def State.landAtomic (s : State) (unit tile : Nat) : State :=
  match s.flies unit 3 tile with
  | none => s
  | some (r, x) =>
    let m := parseTm 3 r.held.bytes
    let earlier : Bool := match r.prog with | .moving _ fl _ _ _ => fl.any (fun y => y.tile < tile) | _ => false
    if earlier then s
    else if gaPkg x.elem ≠ s.pkgId then (s.atomicReturns unit tile m (lookupD [] x.got 0))
    else if s.homeBusy true (gaLocal x.elem) 4096 then s
    else
      let a := m.wsOf (unitDie unit) tile
      match s.load a 4096 with
      | (s, none) => (s.tileFails unit tile stMemUncorrectable unit (s.badLine a 4096) tile)
      | (s, some bs) =>
        let ln := gaLocal x.elem / 64
        match State.atomicLines m.atype m.mode ((countFrom ln 64).zip (pieces 64 64 bs)) s with
        | (s, .error bad) =>
          ((s.countMover .WS_TM_ATOMIC unit (bad / 64 - ln + 1)).tileFails unit tile stMemUncorrectable unit bad tile)
        | (s, .ok old) => ((s.countMover .WS_TM_ATOMIC unit 64).atomicReturns unit tile m old)

def execTmAtomic (t unit tile : Nat) (s : State) : Host.Outcome State Fault Refusal := .next ((s.advance t).landAtomic unit tile).loseFound

end Sys2Proof.Machine
end

