-- ==== Sys2Proof/Machine/Fabric.lean ====
section
/-!
DEFINITION. The Darzil fabric (chapter 11), link side: link frames, credits and replay, relay, responses, timeouts, retrain and loss,
port and window settings, page bias, and Ethernet rings.
-/
namespace Sys2Proof.Machine

/-- The unit id of a port. -/
def portUnit (p : Nat) : Nat := unitId (p / 2) clsPORT (p % 2)

/-! Windows (R310, R311, R313, R439). -/

/-- The package refuses every request: it is standalone, or in BOOT_HOLD (R313, R439). -/
def State.standalone (s : State) : Bool := s.reg .PORT_PKG_CTRL 0 0 % 2 == 0 || s.boot.st == .hold

/-- A window admits a range from a source, with the given permission bits of PORT_WIN_CTRL (R310). -/
def State.winAdmits (s : State) (src a n need w : Nat) : Bool :=
  let c := s.reg .PORT_WIN_CTRL 0 w
  let r := s.reg .PORT_WIN_RANGE 0 w
  let q := s.reg .PORT_WIN_SRC 0 w
  bitOf c 0 && c &&& need == need && bitsOf r 19 0 ≤ a / 2 ^ 24 && (a + (n - 1)) / 2 ^ 24 ≤ bitsOf r 51 32 &&
  bitsOf q 13 0 ≤ src && src ≤ bitsOf q 29 16

/-- The windows that admit a request of `n` bytes. -/
def State.admitting (s : State) (k : Pkt) (n need : Nat) : List Nat :=
  if s.standalone || !isAssigned k.addr || !isAssigned (k.addr + (n - 1)) then []
  else (List.range 64).filter (s.winAdmits k.src k.addr n need)

/-- Permission bits of PORT_WIN_CTRL. -/
def permRd : Nat := 2
def permWr : Nat := 4
def permAtom : Nat := 8
def permReg : Nat := 16

/-- The owning contexts of the admitting windows. -/
def State.winOwners (s : State) (ws : List Nat) : List Nat :=
  ws.filterMap (fun w => let c := s.reg .PORT_WIN_CTRL 0 w; if bitOf c 12 then some (bitsOf c 11 8) else none)

/-- The context whose transfer a packet carries that this package sent or admits, or 16 for none (R415): that of the request it answers, of the
segment's tag, or of the window that admits it. -/
def State.pktCtx (s : State) (bytes : List Byte) : Nat :=
  match parsePkt bytes with
  | none => 16
  | some k =>
    let perm := if k.typ = tRead then permRd else if k.typ = tAtomic then permAtom else permWr
    let owner : Option Nat :=
      if k.dst ≠ s.pkgId then none
      else if 0x80 ≤ k.typ then ((s.port k.port).tags.find? (fun r => r.tag = k.tag && r.birth == k.birth)).map (fun r => r.ctx)
      else if k.typ = tSegment then s.tagCtx (parseSeg k.body).tag
      else (s.winOwners (s.admitting k (max k.len 1) perm)).head?
    min (owner.getD 16) 16

/-! Link frames (R293). -/

def frameSeq (f : List Byte) : Nat := fieldAt f 0 2
def frameAck (f : List Byte) : Nat := fieldAt f 2 2
def frameKind (f : List Byte) : Nat := fieldAt f 4 1 % 8
def frameBody (f : List Byte) : List Byte := (f.drop 8).take 512

/-- The frame is whole and its CRC passes. -/
def frameOk (f : List Byte) : Bool := f.length == 528 && fieldAt f 520 8 == crc64 (f.take 520)

/-- Credits that a frame returns (R295). -/
def PortSt.credited (x : PortSt) (f : List Byte) : PortSt := x.takeCredits (fieldAt f 5 1) (fieldAt f 6 2)

/-- Whole packets at the front of a byte string, and the rest (R294): NULL headers are skipped. -/
def splitPackets : Nat → List Byte → List (List Byte) × List Byte
  | 0, bs => ([], bs)
  | k + 1, bs =>
    match parsePkt bs with
    | none => ([], bs)
    | some h =>
      if h.typ = tNull then splitPackets k (bs.drop 32)
      else
        let n := 32 + payloadLen h
        if bs.length < n then ([], bs)
        else
          let (ps, rest) := splitPackets k (bs.drop (stepBytes n))
          (bs.take n :: ps, rest)

/-- The receiver sends a NAK with the last frame it accepted (R297). -/
def State.sendNak (s : State) (p : Nat) : State :=
  s.setPort p (fun x => { x with
    lastTx := frameBytes 0 x.rxSeq 2 0 0 []
    naks := s.ft :: x.naks.filter (fun f => s.ft ≤ f + 1000000) })

/-- A frame that does not pass is discarded: it counts, and a NAK goes out. An operand of no bytes is a frame with an uncorrectable FEC
codeword (R452). -/
def State.discard (s : State) (p : Nat) (frame : List Byte) : State :=
  (s.countPort (if frame.isEmpty then .PORT_FEC_UNCORR else .PORT_CRC_ERR) p 1).sendNak p

/-- Bytes of a packet that is relayed as it arrives reach the port that it leaves by (R300). -/
def OutPkt.extend (w : OutPkt) (p : Nat) (part : List Byte) : OutPkt :=
  if w.left ≠ 0 && w.came.map Prod.fst == some p then { w with bytes := w.bytes ++ part, left := w.left - part.length } else w

def PortSt.extend (x : PortSt) (p : Nat) (part : List Byte) : PortSt :=
  { x with waiting := x.waiting.map (fun w => w.extend p part), sending := x.sending.map (fun w => w.extend p part) }

/-- The credits of a packet that has left the package's buffer return to the sender of the link by which it came (R295). -/
def State.giveBack (s : State) (came : Option (Nat × Nat)) (units : Nat) : State :=
  match came with
  | some (p, v) => s.setPort p (fun x => { x with owed := modAt (fun n => n + units) x.owed v })
  | none => s

/-- The part of a frame's body that belongs to the packet being relayed goes on with it; the rest of the body. -/
def State.relayMore (s : State) (p : Nat) (body : List Byte) : State × List Byte :=
  match (s.port p).relay with
  | none => (s, body)
  | some r =>
    let part := body.take r.left
    let left := r.left - part.length
    let s := s.setPort p (fun x => { x with relay := if left = 0 then none else some { r with left := left } })
    let s := match r.out with
      | some q => s.setPort q (fun x => x.extend p part)
      | none => if left = 0 then s.giveBack (some (p, r.vc)) r.units else s
    (s, body.drop r.left)

/-- The body of an accepted frame: the rest of a packet that is being relayed, then packets for the port's buffer. -/
def State.bodyIn (s : State) (p : Nat) (body : List Byte) : State :=
  let (s, body) := s.relayMore p body
  let (ps, rest) := splitPackets 4096 ((s.port p).receiving ++ body)
  s.setPort p (fun x => { x with receiving := rest, inbox := x.inbox ++ ps })

/-- The account that a frame received is charged to (R415): the context of the packet whose bytes come first in it; a packet that is relayed
belongs to no context here. -/
def State.frameCtx (s : State) (p : Nat) (body : List Byte) : Nat :=
  let bs := (s.port p).receiving ++ body
  if (s.port p).relay.isSome then acctHost
  else
    let c := s.pktCtx bs
    if c < 16 then c else acctHost

/-- LINK_FRAME_RX (R297): a DATA frame. -/
def execLinkFrameRx (t port : Nat) (frame : List Byte) (s : State) : Host.Outcome State Fault Refusal :=
  let s := s.advance t
  if !s.linkUp port then .next s
  else if !frameOk frame then .next (s.discard port frame)
  else if frameKind frame ≠ 0 then .next s
  else if frameSeq frame ≠ ((s.port port).rxSeq + 1) % 65536 then .next (s.discard port frame)
  else
    let s := (s.takeAck port (frameAck frame)).countPort .PORT_FRAMES_RX port 1
    let s := s.charge (port / 2) (s.frameCtx port (frameBody frame)) 13 1
    let s := s.setPort port (fun x => { x.credited frame with rxSeq := frameSeq frame })
    .next (s.bodyIn port (frameBody frame))

/-- IDLE: credits and an ACK. -/
def execLinkIdle (t port : Nat) (frame : List Byte) (s : State) : Host.Outcome State Fault Refusal :=
  let s := s.advance t
  if !s.linkUp port then .next s
  else if !frameOk frame then .next (s.discard port frame)
  else if frameKind frame ≠ 1 then .next s
  else .next ((s.takeAck port (frameAck frame)).setPort port (fun x => x.credited frame))

/-! Loss of a link (R322). -/

/-- The packets on their way out that came in by a port that has gone down: their credits are void, and one that has not arrived whole is
discarded, or, when it has begun to be sent, filled up with bytes that the spec leaves open (log 83). -/
def PortSt.cutOff (p : Nat) (fill : List Byte) (x : PortSt) : PortSt :=
  let mine (w : OutPkt) : Bool := w.came.map Prod.fst == some p
  let void (w : OutPkt) : OutPkt := if mine w then { w with came := none, bytes := w.bytes ++ fill.take w.left, left := 0 } else w
  { x with waiting := (x.waiting.filter (fun w => !(mine w && w.left ≠ 0))).map void, sending := x.sending.map void }

/-- What a port going down does to the relayed packets of the package: those that wait for it are discarded, and those that came by it. -/
def State.relaysLost (s : State) (p : Nat) : State :=
  let gone := (s.port p).waiting ++ (s.port p).sending.toList
  let s := gone.foldl (fun s w => if w.left = 0 then s.giveBack w.came w.units else s) s
  let fill := (countFrom s.freeCount 4192).map (fun n => BitVec.ofNat 8 (Config.freeNat n))
  let s := if (s.port p).relay.isSome then { s with freeCount := s.freeCount + 4192 } else s
  { s with ports := s.ports.map (fun x =>
      { x.cutOff p fill with relay := x.relay.map (fun r => if r.out = some p then { r with out := none } else r) }) }

/-- A register access of another package that Meilamo requested has ended (R302). -/
def State.farEnds (s : State) (r : Req) (x : Resp) : State :=
  { s with mgmt := { s.mgmt with farDone := s.mgmt.farDone ++ [(r.addr, x)] } }

/-- The port has gone down: frames and packets are discarded, and each transfer of this package that had a packet among them ends. -/
def State.goDown (s : State) (p : Nat) : State :=
  let lost := s.heldTransfers p
  let far := (s.port p).tags.filter (fun r => r.part = 4 && (s.port p).holds (s.heldFrames p) r)
  let s := s.countPort .PORT_DISCARDED p (s.heldFrames p)
  let s := (s.setQueue (.portReplay p) RunQ.emptied).relaysLost p
  let s := s.setPort p (fun x => { x with
    link := .down, waiting := [], sending := none, receiving := [], relay := none, inbox := [], naks := [], senders := [] })
  let s := far.foldl (fun s r =>
    (s.setPort p (fun x => { x with tags := x.tags.map (fun q => if q = r then { q with ended := true, lost := true } else q) })).farEnds r
      (.failed stLinkLost)) s
  (lost.filter (fun u => u ≠ noUnit)).foldl (fun s u =>
    match s.runningOn u with
    | none => s.loseRequests u
    | some r =>
      let first := r.firstAddr
      (((s.stopSweep u).dropRunning u).loseRequests u).faultCtx r.held.ctx stLinkLost (portUnit p) first 0 r.held.pour.offset) s

/-- PORT_DOWN: 2,000,000 ns after RETRAIN began. -/
def execPortDown (t port : Nat) (s : State) : Host.Outcome State Fault Refusal :=
  let s := s.advance t
  if port ≥ 16 || (s.port port).link ≠ .retrain || s.ft < (s.port port).retrainFt + 2000000 then .next s
  else .next ((s.countPort .PORT_DOWN port 1).goDown port)

/-- Send the held frames after an ACK again (R297), which is a REWIND to the first of them and reads on from there (R395); an uncorrectable word among them takes the port down (R399). -/
def State.resend (s : State) (p ack : Nat) : State :=
  let s := s.takeAck p ack
  let es := (s.queue (.portReplay p)).entries
  if es.any QEntry.bad then s.goDown p
  else
    let s := s.queueEcc (.portReplay p) (es.foldl (fun n e => n + e.corr) 0)
    let s := s.setQueue (.portReplay p) (fun q => RunQ.readTo q.wr { q with mark := q.rp }.rewind)
    let s := s.countPort .PORT_REPLAYS p (es.length / 3)
    if es.isEmpty then s
    else s.setPort p (fun x => { x with lastTx := (es.drop (es.length - 3)).flatMap (fun e => e.bytes) })

/-- NAK. -/
def execLinkNak (t port : Nat) (frame : List Byte) (s : State) : Host.Outcome State Fault Refusal :=
  let s := s.advance t
  if !s.linkUp port then .next s
  else if !frameOk frame then .next (s.discard port frame)
  else if frameKind frame ≠ 2 then .next s
  else .next ((s.setPort port (fun x => x.credited frame)).resend port (frameAck frame))

/-- RETRAIN_ENTRY (R320). -/
def execRetrainEntry (t port : Nat) (lost : Bool) (s : State) : Host.Outcome State Fault Refusal :=
  let s := s.advance t
  if port ≥ 16 || (s.port port).link ≠ .up then .next s
  else if !lost && ((s.port port).naks.filter (fun f => s.ft ≤ f + 1000000)).length < 64 then .next s
  else .next ((s.countPort .PORT_RETRAINS port 1).setPort port (fun x => { x with link := .retrain, retrainFt := s.ft, naks := [] }))

/-- RETRAIN_DONE (R321): each side reports the last FSEQ it accepted, and what the partner has not is sent again. -/
def execRetrainDone (t port peerLast : Nat) (s : State) : Host.Outcome State Fault Refusal :=
  let s := s.advance t
  if port ≥ 16 || (s.port port).link ≠ .retrain || s.ft > (s.port port).retrainFt + 2000000 then .next s
  else if !s.isDarzil port then .next (s.setPort port (fun x => { x with link := .up }))
  else .next ((s.setPort port (fun x => { x with
    link := .up, reported := some x.rxSeq, lastTx := frameBytes 0 x.rxSeq 1 0 0 [] })).resend port (peerLast % 65536))

/-- DIE_STATUS.PORTS_UP: set once both ports of the die have completed bring-up, which is when a port's first training attempt ends,
UP or DOWN (R433). A disabled port has no attempt to make (log 66). -/
def State.notePorts (s : State) (die : Nat) : State :=
  let up (p : Nat) : Bool := s.portMode p = 0 || (s.port p).trained
  if s.boot.portsLoaded && up (2 * die) && up (2 * die + 1) then s.setReg .DIE_STATUS die 0 (setBits (s.reg .DIE_STATUS die 0) 4 4 1) else s

/-- LINK_TRAINED: a training attempt from DOWN ends. Credits are advertised anew (R295), and numbering begins anew. -/
def execLinkTrained (t port : Nat) (up : Bool) (peer : Nat) (s : State) : Host.Outcome State Fault Refusal :=
  let s := s.advance t
  let x := s.port port
  if port ≥ 16 || s.portMode port = 0 || !(x.link == .down || x.link == .training) then .next s
  else if up then
    .next ((s.setPort port (fun x => { x with
      link := .up, trained := true, peer := if s.isDarzil port then some (peer % 2 ^ 14) else none
      txSeq := 0, rxSeq := 0xFFFF, credits := List.replicate 6 1024, owed := List.replicate 6 0 })).notePorts (port / 2))
  else .next ((s.setPort port (fun x => { x with link := .down, trained := true })).notePorts (port / 2))

/-! Sending (R294, R295, R300, R371). -/

/-- The packets that may start: the oldest of each VC that holds the credit for it, the VCs in rotation (R295, R300). Within a VC packets go in
arrival order, whoever sends them (R300, R319). -/
def PortSt.heads (x : PortSt) : List OutPkt :=
  ((countFrom (x.lastVc + 1) 6).map (fun v => v % 6)).filterMap (fun v =>
    (x.waiting.find? (fun w => w.vc = v)).bind (fun w => if w.units ≤ x.credits.getD v 0 then some w else none))

/-- Frames that a packet can take part in. -/
def OutPkt.frames (w : OutPkt) : Nat := ceilDiv (w.bytes.length + w.left) 512 + 1

/-- How far the contexts with packets in a VC have fallen behind their shares of the frames that stay in sight once `n` more have gone: the
frames that the one furthest behind still lacks of its share of 100. -/
def PortSt.lacks (x : PortSt) (share : Nat → Nat) (n v : Nat) : Nat :=
  ((x.waiting.filter (fun w => w.vc = v && w.ctx < 16)).map (fun w => share w.ctx - (x.senders.take (100 - n)).count w.ctx)).foldl max 0

/-- The next packet that may start (R371): while a context would lack frames of its share after the longest of them, the one whose VC holds
the packet of the context that lacks most; else that of the next sender in rotation (log 84). -/
def PortSt.nextPacket (x : PortSt) (share : Nat → Nat) : Option OutPkt :=
  let hs := x.heads
  let n := (hs.map OutPkt.frames).foldl max 0
  let most := (hs.map (fun w => x.lacks share n w.vc)).foldl max 0
  if most ≠ 0 then hs.find? (fun w => x.lacks share n w.vc = most)
  else ((countFrom (x.senders.headD 16 + 1) 17).map (fun c => c % 17)).findSome? (fun c => hs.find? (fun w => w.ctx = c))

/-- Fill a body of 512 bytes; the packets whose last byte is in it. -/
def fillBody (share : Nat → Nat) : Nat → PortSt → List Byte → List OutPkt → PortSt × List Byte × List OutPkt
  | 0, x, body, ends => (x, body, ends)
  | k + 1, x, body, ends =>
    let room := 512 - body.length
    if room = 0 then (x, body, ends)
    else
      match x.sending with
      | none =>
        match x.nextPacket share with
        | none => (x, body, ends)
        | some w =>
          fillBody share k { x with
            waiting := x.waiting.erase w, lastVc := w.vc, sending := some w
            credits := modAt (fun n => n - w.units) x.credits w.vc } body ends
      | some w =>
        let rest := w.bytes.drop room
        if w.bytes.isEmpty then (x, body, ends)
        else if rest.isEmpty && w.left = 0 then fillBody share k { x with sending := none } (body ++ w.bytes) (w :: ends)
        else fillBody share k { x with sending := some { w with bytes := rest } } (body ++ w.bytes.take room) ends

/-- The credit return of the next frame: VC field, units, and the port without them. -/
def PortSt.giveCredits (x : PortSt) : Nat × Nat × PortSt :=
  match (List.range 6).find? (fun v => x.owed.getD v 0 ≠ 0) with
  | none => (0, 0, x)
  | some v => let n := min 1024 (x.owed.getD v 0); (128 + v, n, { x with owed := modAt (fun m => m - n) x.owed v })

/-- The sender of the next frame (R371): that of the packet in progress, or of the one that starts it. -/
def PortSt.sender (x : PortSt) (share : Nat → Nat) : Nat :=
  match x.sending with
  | some w => w.ctx
  | none => match x.nextPacket share with | some w => w.ctx | none => 16

/-- The packet in progress has no byte for the rest of the body: packets are never interleaved, so the frame waits (R294). -/
def PortSt.starved (x : PortSt) : Bool := match x.sending with | some w => w.bytes.isEmpty | none => false

/-- PORT_SHARE of a context at a port, in percent (R370, R371). -/
def State.portShare (s : State) (p c : Nat) : Nat := if (s.ctx c).created then (s.ctx c).part.portShare.getD p 0 else 0

/-- LINK_FRAME_TX: a DATA frame, or an IDLE frame when nothing can be sent (R293, R297). -/
def execLinkFrameTx (t port : Nat) (s : State) : Host.Outcome State Fault Refusal :=
  let s := s.advance t
  if !s.linkUp port then .next s
  else
    let (cvc, n, x) := (s.port port).giveCredits
    let share := s.portShare port
    let (y, body, ends) := if (s.queue (.portReplay port)).full 1536 then (x, [], []) else fillBody share 64 x [] []
    if body.isEmpty || (y.starved && body.length < 512) then
      .next (s.setPort port (fun _ => { x with lastTx := frameBytes 0 x.rxSeq 1 cvc n [] }))
    else
      let f := frameBytes y.txSeq y.rxSeq 0 cvc n body
      let who := x.sender share
      let tags := ends.filterMap (fun w => w.tag)
      let s := s.setPort port (fun _ => { y with
        txSeq := (y.txSeq + 1) % 65536, lastTx := f, senders := (who :: y.senders).take 100
        tags := y.tags.map (fun r => if tags.contains r.tag then { r with lastFrame := some y.txSeq } else r) })
      let s := ends.foldl (fun s w => s.giveBack w.came w.units) s
      let s := (pieces 176 3 f).foldl (fun s b => s.queuePut (.portReplay port) { bytes := b, valid := allValid 176, last := false }) s
      let s := s.setQueue (.portReplay port) (fun q => q.readTo q.wr)
      .next ((s.countPort .PORT_FRAMES_TX port 1).charge (port / 2) (acctOf (if who < 16 then some who else none)) 13 1)

/-! Relay (R299, R300, R303). -/

/-- A packet of which `left` bytes have still to arrive goes on from a port to where the route table says, on the VC that it takes there
(R296, R299), or is discarded by age or for want of a route. -/
def State.relay (s : State) (port : Nat) (k : Pkt) (bytes : List Byte) (left : Nat) : State :=
  let units := ceilDiv (32 + payloadLen k) 64
  let waits (out : Option Nat) (s : State) : State :=
    if left = 0 then (if out.isNone then s.giveBack (some (port, k.vc)) units else s)
    else s.setPort port (fun x => { x with relay := some { out := out, vc := k.vc, units := units, left := left } })
  if s.age k ≥ 1999000 then waits none (s.countPort .PORT_EXPIRED port 1)
  else
    match s.route k.dst with
    | some p =>
      let vc := s.vcOut p k
      let bs := bytes.take 1 ++ leBytes 1 vc ++ bytes.drop 2
      let pad := if left = 0 then List.replicate (stepBytes bs.length - bs.length) 0#8 else []
      waits (some p) (s.setPort p (fun x => { x with
        waiting := x.waiting ++ [{ vc := vc, bytes := bs ++ pad, left := left, units := units, came := some (port, k.vc) }] }))
    | none =>
      let s := waits none (s.countPort .PORT_NO_ROUTE port 1)
      if classOf k.typ = 0 then s.answer port k tError 3 [] else s

/-- PACKET_RELAY: a packet for another package, whole in the port's buffer, or as far as it has arrived once the frame with its header has
passed (R300). -/
def execPacketRelay (t port : Nat) (pkt : List Byte) (s : State) : Host.Outcome State Fault Refusal :=
  let s := s.advance t
  match parsePkt pkt with
  | none => .next s
  | some k =>
    if port ≥ 16 || k.typ = tNull || k.dst == s.pkgId then .next s
    else if (s.port port).first s.pkgId pkt then
      .next ((s.setPort port (fun x => { x with inbox := x.inbox.erase pkt })).relay port k pkt 0)
    else if (s.port port).receiving = pkt && { s.port port with inbox := (s.port port).inbox ++ [pkt] : PortSt }.first s.pkgId pkt then
      .next ((s.setPort port (fun x => { x with receiving := [] })).relay port k pkt (stepBytes (32 + payloadLen k) - pkt.length))
    else .next s

/-! Responses (R304, R305). -/

/-- The age of a request (R304). -/
def State.reqAge (s : State) (r : Req) : Nat := (s.ft + 2 ^ 32 - r.birth) % 2 ^ 32

/-- The tag of a response is freed; the request it answers, when BIRTH and the kind of answer fit. A lost request is remembered until it can no
longer land (R354), and so is one that ERROR code NO_ROUTE ends. -/
def State.matchTag (s : State) (at' : Nat) (k : Pkt) (fits : Req → Bool) : State × Option Req :=
  match (s.port k.port).tags.find? (fun r => r.tag = k.tag && r.birth == k.birth && fits r) with
  | none => (s.countPort .PORT_RSP_DROP at' 1, none)
  | some r =>
    let lands : Bool := r.lost || (k.typ == tError && k.ops == 3)
    (s.setPort k.port (fun x => { x with
      tags := x.tags.filter (fun q => q ≠ r)
      late := (if lands then [r] else []) ++ x.late.filter (fun q => s.reqAge q < 2000000) }), some r)

/-- An answer brings a tile's part. -/
def State.tileAnswer (s : State) (r : Req) (data : Option (List Byte)) : State :=
  match s.runningOn r.unit with
  | none => s
  | some run =>
    match run.prog with
    | .moving n fl f first arr =>
      let new : List (Nat × List Byte) := match data with | some d => [(r.part, d)] | none => []
      let upd (x : Fly) : Fly := if x.tile = r.tile then { x with awaits := x.awaits - 1, got := x.got ++ new } else x
      s.setProg r.unit (.moving n (fl.map upd) f first arr)
    | _ => s

/-- Meilamo requests the next register access of another package, once a tag is free (R302, log 88). -/
def State.farAsk (s : State) : State :=
  match s.mgmt.far with
  | [] => s
  | f :: rest =>
    let dst := gaPkg f.addr
    let q : Req := { tag := 0, dst := dst, typ := if f.write.isSome then tWrite else tRead, birth := 0, addr := f.addr, unit := noUnit, ctx := 16
                     tile := 0, part := 4, len := 8 }
    let gone (s : State) : State := { s with mgmt := { s.mgmt with far := rest } }
    match s.route dst with
    | none => ((gone s).countPort .PORT_NO_ROUTE 0 1).farEnds q (.failed stFabricTimeout)
    | some p =>
      match s.issue p { typ := q.typ, vc := 0, dst := dst, src := 0, tag := 0, port := 0, addr := gaLocal f.addr, len := 8, birth := 0, ops := 0
                        flag := 0, epoch := 0, body := match f.write with | some v => leBytes 8 v | none => [] } q with
      | (s, .sent) => gone s
      | (s, .noTag) => s
      | (s, .noRoute) => (gone s).farEnds q (.failed stFabricTimeout)

/-- A request has been answered: its transfer goes on. -/
def State.answered (s : State) (r : Req) (data : Option (List Byte)) : State :=
  if r.ended then s
  else if r.part = 4 then s.farEnds r (match data with | some bs => .value (leNat bs) | none => .none)
  else if r.part = 2 then s.ended r.unit
  else if r.part = 3 then s.sendGoes r.unit
  else if r.part = 5 then s.repairAnswer r (data.getD [])
  else s.tileAnswer r data

/-- A request has ended with a status code: its transfer fails. -/
def State.requestFails (s : State) (r : Req) (code : Nat) : State :=
  if r.ended then s
  else if r.part = 4 then s.farEnds r (.failed code)
  else if r.part = 3 then (s.failPour r.unit code r.addr 0).endRequests r.unit
  else if r.part = 5 then (s.sweepFails r.unit ⟨code, r.addr⟩).endRequests r.unit
  else
    let close (q : Req) : Req :=
      if q.unit = r.unit && q.tile == r.tile then { q with ended := true, lost := q.lost || code == stFabricTimeout } else q
    let s := { s with ports := s.ports.map (fun x : PortSt => { x with tags := x.tags.map close }) }
    s.tileFails r.unit r.tile code r.unit r.addr r.tile

/-- One of the response rows. -/
def State.response (s : State) (port typ : Nat) (pkt : List Byte) (fits : Req → Bool) (keep : Bool) : State :=
  match s.takePkt port [typ] pkt with
  | (s, none) => s
  | (s, some k) =>
    match s.matchTag port k fits with
    | (s, none) => s
    | (s, some r) => s.answered r (if keep then some k.body else none)

def execPktReadData (t port : Nat) (pkt : List Byte) (s : State) : Host.Outcome State Fault Refusal :=
  .next ((s.advance t).response port tReadData pkt (fun r => r.typ = tRead) true)

def execPktWriteAck (t port : Nat) (pkt : List Byte) (s : State) : Host.Outcome State Fault Refusal :=
  .next ((s.advance t).response port tWriteAck pkt (fun r => r.typ = tWrite || r.typ == tMasked || r.typ == tAtomic || r.typ == tSegment) false)

def execPktAtomicData (t port : Nat) (pkt : List Byte) (s : State) : Host.Outcome State Fault Refusal :=
  .next ((s.advance t).response port tAtomicData pkt (fun r => r.typ = tAtomic) true)

def execPktArrivalAck (t port : Nat) (pkt : List Byte) (s : State) : Host.Outcome State Fault Refusal :=
  .next ((s.advance t).response port tArrivalAck pkt (fun r => r.typ = tArrival) false)

/-- The status code of an ERROR (R305). -/
def errorStatus (code : Nat) : Nat :=
  match code with
  | 2 => stMemUncorrectable
  | 3 => stFabricTimeout
  | 4 => stEpochFence
  | _ => stTranslationFault

def execPktError (t port : Nat) (pkt : List Byte) (s : State) : Host.Outcome State Fault Refusal :=
  let s := s.advance t
  match s.takePkt port [tError] pkt with
  | (s, none) => .next s
  | (s, some k) =>
    match s.matchTag port k (fun _ => true) with
    | (s, none) => .next s
    | (s, some r) => .next (s.requestFails r (errorStatus k.ops))

/-- REQUEST_TIMEOUT (R304): 2,000,000 ns after BIRTH. -/
def execRequestTimeout (t port tag : Nat) (s : State) : Host.Outcome State Fault Refusal :=
  let s := s.advance t
  match (s.port port).tags.find? (fun r => r.tag = tag) with
  | none => .next s
  | some r =>
    if s.reqAge r < 2000000 then .next s
    else
      let s := s.setPort port (fun x => { x with tags := x.tags.filter (fun q => q ≠ r) })
      .next ((s.countPort .PORT_TIMEOUTS port 1).requestFails r stFabricTimeout)

/-! Settings (R290, R299, R311, R313, R315). -/

/-- Some context whose mould has the FABRIC flag is ARMED or RUNNING. -/
def State.fabricActive (s : State) : Bool := s.ctxs.any (fun x => x.active && x.fabric)

/-- A write to PORT_CTRL of a port. -/
def State.writePortCtrl (s : State) (p v : Nat) : State :=
  let v := v &&& 0xFFFF13
  let old := s.reg .PORT_CTRL (p / 2) (p % 2)
  if v = old || s.fabricActive then s
  else
    let s := (s.setReg .PORT_CTRL (p / 2) (p % 2) v).goDown p
    (s.setPort p (fun x => { x with link := if v % 4 = 0 then .disabled else .training, peer := none })).notePorts (p / 2)

def execPortCtrlWrite (t port value : Nat) (s : State) : Host.Outcome State Fault Refusal :=
  let s := s.advance t
  if port ≥ 16 then .next s else .next (s.writePortCtrl port value)

/-- A write to PORT_PKG_CTRL. -/
def State.writeJoined (s : State) (v : Nat) : State := if s.anyActive then s else s.setReg .PORT_PKG_CTRL 0 0 (v % 2)

def execPortPkgCtrlWrite (t value : Nat) (s : State) : Host.Outcome State Fault Refusal := .next ((s.advance t).writeJoined value)

/-- A write to PORT_ROUTE_DATA. -/
def State.writeRoute (s : State) (v : Nat) : State :=
  { s with routes := Sparse.put 0 s.routes (s.reg .PORT_ROUTE_SEL 0 0 % 2 ^ 14) (v &&& 0x8F) }

def execPortRouteDataWrite (t value : Nat) (s : State) : Host.Outcome State Fault Refusal := .next ((s.advance t).writeRoute value)

/-- A write to PORT_BIAS_DATA: to SHARED at once, to ENGINE through BUSY. -/
def State.writeBias (s : State) (v : Nat) : State :=
  let page := s.reg .PORT_BIAS_SEL 0 0 % 2 ^ 14
  let old := Sparse.at? 0 s.bias page
  { s with bias := Sparse.put 0 s.bias page (if bitOf v 0 then (if old = 1 then 1 else 2) else 0) }

def execPortBiasDataWrite (t value : Nat) (s : State) : Host.Outcome State Fault Refusal := .next ((s.advance t).writeBias value)

/-- The lines of a page that a core, the directory or a system-level cache holds. -/
def State.cachedLines (s : State) (page : Nat) : List Nat :=
  ((s.hcx.dir.map Prod.fst ++ s.hcx.slc.map Prod.fst).filter (fun ln => ln / 2 ^ 20 = page)).eraseDups

/-- BIAS_FLIP_DONE: each cached line is written back and invalidated; a line that its home is busy with keeps the page BUSY. -/
def execBiasFlipDone (t page : Nat) (s : State) : Host.Outcome State Fault Refusal :=
  let s := s.advance t
  let moving : Bool := s.hcx.busy.any (fun o => o.line / 2 ^ 20 = page) || s.hcx.msgs.any (fun m => m.line / 2 ^ 20 = page) ||
    s.hcx.reqs.any (fun r => r.line / 2 ^ 20 = page)
  if Sparse.at? 0 s.bias page ≠ 2 || moving || (s.hcx.down.isSome && !(s.cachedLines page).isEmpty) then .next s
  else
    let s := (s.cachedLines page).foldl (fun s ln => s.snoopWrite (64 * ln) []) s
    .next { s with bias := Sparse.put 0 s.bias page 1 }

/-- A 16 MiB unit lies wholly in a context's banks and channels (R311): 512 granules meet every channel of a stripe set. -/
def State.unitIn (s : State) (c u : Nat) : Bool :=
  let a := 2 ^ 24 * u
  if isTier1 a then (countFrom 0 512).all (fun g => s.ownsAddr c (a + 4096 * g)) else s.ownsAddr c a

/-- A write to PORT_WIN_CTRL of a window. -/
def State.writeWindow (s : State) (w v : Nat) : State :=
  let v := v &&& 0x1F1F
  let bad := s.reg .PORT_WIN_CTRL 0 w &&& 0x2000
  if !bitOf v 0 then s.setReg .PORT_WIN_CTRL 0 w (v + bad)
  else
    let r := s.reg .PORT_WIN_RANGE 0 w
    let base := bitsOf r 19 0
    let limit := bitsOf r 51 32
    let c := bitsOf v 11 8
    let ok : Bool := !bitOf v 12 ||
      ((s.ctx c).created && base ≤ limit && (countFrom base (limit + 1 - base)).all (s.unitIn c))
    s.setReg .PORT_WIN_CTRL 0 w (if ok then v else v - 1 + 0x2000)

def execPortWinCtrlWrite (t window value : Nat) (s : State) : Host.Outcome State Fault Refusal :=
  let s := s.advance t
  if window ≥ 64 then .next s else .next (s.writeWindow window value)

/-! Ethernet mode (R291, R292). -/

/-- The port is an Ethernet port that is up. -/
def State.ethUp (s : State) (p : Nat) : Bool := p < 16 && s.portMode p ≥ 2 && (s.port p).link == .up

/-- An entry of the ring table: address, base, entry count and consumer index; none when it cannot be read or is no ring. -/
def State.ethRing (s : State) (p k : Nat) : State × Option (Nat × Nat × Nat × Nat) :=
  let a := 512 * (s.reg .PORT_ETH_RINGS (p / 2) (p % 2) / 512) + 32 * k
  if !(isTier1 a || isWs a) then (s, none)
  else
    match s.load a 32 with
    | (s, none) => (s, none)
    | (s, some e) =>
      let base := fieldAt e 0 8
      let n := fieldAt e 8 4
      if (isTier1 base || isWs base) && base % 4096 == 0 && 64 ≤ n && n ≤ 65536 then (s, some (a, base, n, fieldAt e 16 4)) else (s, none)

/-- The frame check sequence of IEEE 802.3. -/
def fcs (bs : List Byte) : List Byte := leBytes 4 (crc32 bs)

/-- A ring has a descriptor that the port has not used. -/
def PortSt.posted (x : PortSt) (k : Nat) (ring : Nat × Nat × Nat × Nat) : Bool := x.producers.getD k 0 % ring.2.2.1 ≠ ring.2.2.2 % ring.2.2.1

/-- Whole nanoseconds that `q` pause quanta of 512 bit times last (IEEE 802.3). -/
def quantaNs (mode q : Nat) : Nat := if mode = 2 then ceilDiv (512 * q) 1600 else ceilDiv (512 * q) 800

/-- A priority pause frame for one priority; `on` pauses it for as long as a frame can, else the pause ends. -/
def pauseFrame (k : Nat) (on : Bool) : List Byte :=
  let head := [0x01#8, 0x80#8, 0xC2#8, 0x00#8, 0x00#8, 0x01#8] ++ List.replicate 6 0#8 ++ [0x88#8, 0x08#8, 0x01#8, 0x01#8, 0x00#8] ++ leBytes 1 (2 ^ k)
  let times := (List.range 8).flatMap (fun i => if i = k && on then [0xFF#8, 0xFF#8] else [0#8, 0#8])
  let bs := head ++ times ++ List.replicate 26 0#8
  bs ++ fcs bs

/-- The port pauses a priority of the partner, or lets it send again (R292). -/
def State.ethPause (s : State) (p k : Nat) (on : Bool) : State :=
  let till := if on then s.ft + quantaNs (s.portMode p) 65535 else 0
  s.setPort p (fun x => { x with
    lastTx := pauseFrame k on, pausing := modAt (fun _ => till) (if x.pausing.isEmpty then List.replicate 8 0 else x.pausing) k })

/-- The receive ring of a priority holds no posted descriptor. -/
def State.ringEmpty (s : State) (p k : Nat) : Bool :=
  match s.ethRing p (8 + k) with | (_, some r) => !(s.port p).posted (8 + k) r | (_, none) => false

/-- The priorities whose receive ring has no posted descriptor, and which a pause does not cover for as long again as a pause lasts at most:
the port pauses them, and renews a pause when half of it is over (R292, log 85). -/
def State.pauseDue (s : State) (p : Nat) : Option Nat :=
  (List.range 8).find? (fun k => Config.pfcEnabled p k && decide ((s.port p).pausing.getD k 0 < s.ft + quantaNs (s.portMode p) 32768) && s.ringEmpty p k)

/-- A posted descriptor ends the pause of its priority. -/
def State.ethResume (s : State) (p k : Nat) : State :=
  if 8 ≤ k && decide (s.ft < (s.port p).pausing.getD (k - 8) 0) && !s.ringEmpty p (k - 8) then s.ethPause p (k - 8) false else s

/-- A write to PORT_ETH_DOORBELL: the port reads the ring's producer index. -/
def State.ethDoorbell (s : State) (p v : Nat) : State :=
  let k := v % 16
  let a := 512 * (s.reg .PORT_ETH_RINGS (p / 2) (p % 2) / 512) + 32 * k + 12
  if s.portMode p < 2 || !(isTier1 a || isWs a) then s
  else
    match s.load a 4 with
    | (s, some bs) => (s.setPort p (fun x => { x with
        producers := modAt (fun _ => leNat bs) (if x.producers.isEmpty then List.replicate 16 0 else x.producers) k })).ethResume p k
    | (s, none) => s

def execPortEthDoorbell (t port value : Nat) (s : State) : Host.Outcome State Fault Refusal :=
  let s := s.advance t
  if port ≥ 16 then .next s else .next (s.ethDoorbell port value)

/-- DONE, and then the consumer index (R292). -/
def State.ethDone (s : State) (ring : Nat × Nat × Nat × Nat) : State :=
  let (a, base, n, cons) := ring
  let d := base + cons % n * 16
  let (s, _) := s.save (d + 10) [1#8]
  (s.save (a + 16) (leBytes 4 ((cons + 1) % n))).1

/-- Transmit rings from the highest priority down: the first that is not paused and has a frame. -/
def State.ethPick (p : Nat) : List Nat → State → State × Option (Nat × Nat × Nat × Nat)
  | [], s => (s, none)
  | k :: rest, s =>
    if (s.port p).paused.getD k 0 > s.ft then State.ethPick p rest s
    else
      match s.ethRing p k with
      | (s, some r) => if (s.port p).posted k r then (s, some r) else State.ethPick p rest s
      | (s, none) => State.ethPick p rest s

/-- ETH_FRAME_TX: a pause that is due goes first. -/
def execEthFrameTx (t port : Nat) (s : State) : Host.Outcome State Fault Refusal :=
  let s := s.advance t
  if !s.ethUp port then .next s
  else
    match s.pauseDue port with
    | some k => .next (s.ethPause port k true)
    | none =>
    match State.ethPick port [7, 6, 5, 4, 3, 2, 1, 0] s with
    | (s, none) => .next s
    | (s, some r) =>
      match s.load (r.2.1 + r.2.2.2 % r.2.2.1 * 16) 16 with
      | (s, none) => .next s
      | (s, some d) =>
        let buf := fieldAt d 0 8
        let len := fieldAt d 8 2
        if len < 60 || len > 9212 || !(isTier1 buf || isWs buf) then .next s
        else
          match s.load buf len with
          | (s, none) => .next s
          | (s, some bs) =>
            let s := s.setPort port (fun x => { x with lastTx := bs ++ fcs bs })
            let s := (s.countPort .PORT_FRAMES_TX port 1).charge (port / 2) acctHost 13 1
            .next (s.ethDone r)

/-- Big-endian 16-bit field of an Ethernet frame. -/
def be16 (f : List Byte) (o : Nat) : Nat := 256 * fieldAt f o 1 + fieldAt f (o + 1) 1

/-- The priorities paused after a PAUSE or priority pause frame. -/
def pausedAfter (ft mode : Nat) (old : List Nat) (f : List Byte) : List Nat :=
  (List.range 8).map (fun k =>
    if be16 f 14 = 0x0001 then ft + quantaNs mode (be16 f 16)
    else if bitOf (be16 f 16) k then ft + quantaNs mode (be16 f (18 + 2 * k))
    else old.getD k 0)

/-- A received frame has no place: it is dropped; with flow control on its priority the port pauses the partner (R292). -/
def State.ethDrop (s : State) (p prio : Nat) (noDesc : Bool) : State :=
  let s := s.countPort .PORT_ETH_DROP p 1
  if noDesc && Config.pfcEnabled p prio then s.ethPause p prio true else s

/-- ETH_FRAME_RX; the frame carries its FCS. -/
def execEthFrameRx (t port : Nat) (frame : List Byte) (s : State) : Host.Outcome State Fault Refusal :=
  let s := s.advance t
  if !s.ethUp port then .next s
  else
    let n := frame.length
    let bs := frame.take (n - 4)
    if n < 64 || n > 9216 || frame.drop (n - 4) ≠ fcs bs then .next (s.countPort .PORT_ETH_DROP port 1)
    else if be16 bs 12 = 0x8808 then
      .next ((s.countPort .PORT_FRAMES_RX port 1).setPort port (fun x => { x with paused := pausedAfter s.ft (s.portMode port) x.paused bs }))
    else
      let prio := if be16 bs 12 = 0x8100 then be16 bs 14 / 8192 else 0
      match s.ethRing port (8 + prio) with
      | (s, none) => .next (s.ethDrop port prio true)
      | (s, some r) =>
        if !(s.port port).posted (8 + prio) r then .next (s.ethDrop port prio true)
        else
          let d := r.2.1 + r.2.2.2 % r.2.2.1 * 16
          match s.load d 16 with
          | (s, none) => .next (s.ethDrop port prio false)
          | (s, some desc) =>
            let buf := fieldAt desc 0 8
            if fieldAt desc 8 2 < bs.length || !(isTier1 buf || isWs buf) then .next (s.ethDrop port prio false)
            else
              let (s, _) := s.save buf bs
              let (s, _) := s.save (d + 8) (leBytes 2 bs.length)
              let s := (s.countPort .PORT_FRAMES_RX port 1).charge (port / 2) acctHost 13 1
              let s := s.ethDone r
              let left := (s.port port).posted (8 + prio) (r.1, r.2.1, r.2.2.1, r.2.2.2 + 1)
              .next (if !left && Config.pfcEnabled port prio then s.ethPause port prio true else s)

end Sys2Proof.Machine
end

