-- ==== Sys2Proof/Machine/Coherence.lean ====
section
/-!
DEFINITION. Coherence between the cores and the homes (chapter 12): the rows GET_S to DOMAIN_TIMEOUT.
-/
namespace Sys2Proof.Machine

/-! Messages. -/

/-- The oldest message of a kind between a core and the home of a line is taken. -/
def State.receive (s : State) (kind : MsgKind) (core ln : Nat) : Option (CohMsg × State) :=
  match s.hcx.msgs.find? (fun m => m.kind = kind && m.core == core && m.line == ln) with
  | none => none
  | some m => some (m, s.setHcx (fun h => { h with msgs := h.msgs.erase m }))

/-- Count at a core's slot. -/
def State.countCore (s : State) (r : Reg) (core n : Nat) : State := s.count r (core / 24) (core % 24) n

/-- The hart id of a core and its time CSR, which reads FT of its die (R326). -/
def hartId (die core : Nat) : Nat := 24 * die + core
def State.coreTime (s : State) (hart : Nat) : Nat := s.dieFt (hart / 24)

/-! The system-level cache (R328 to R330). -/

/-- The set of a line in a system-level cache: a way of 4 MiB has 65,536 lines (R328). -/
def slcSetOf (ln : Nat) : Nat := Config.slcSet ln % 65536

/-- The ways of a die's cache that a class may allocate in: its own, or the host's. -/
def State.waysOf (s : State) (cls die : Nat) : List Nat :=
  let owned (w : Nat) : Bool := s.created.any (fun c => bitOf ((s.ctx c).part.ways.getD die 0) w)
  let mine := if cls < 16 && (s.ctx cls).created then onesOf 16 ((s.ctx cls).part.ways.getD die 0) else []
  if mine.isEmpty then (List.range 16).filter (fun w => w < 2 || !owned w) else mine

/-- A line leaves the system-level cache for another one. A modified line is read to be written back: its corrected words count, and an
uncorrectable one loses the domain (R341). -/
def State.slcEvict (s : State) (ln : Nat) (l : SlcLine) : State :=
  let gone (s : State) : State := (s.setHcx (fun h => { h with slc := h.slc.filter (fun x => x.1 ≠ ln) })).mendSlc ln
  if !l.dirty then gone s
  else
    let s := ((wordsOf (64 * ln) 64).filter (fun w => popCount 64 (s.wordErr w) = 1)).foldl State.countCorr s
    if (s.badWord (64 * ln) 64).isSome then (gone s).findError ln else (gone s).putLine ln l.bytes

/-- Place a line in the cache of its home die for a core: in a free way of its class if there is one, else in place of another line of its
set in those ways; which one is open. The words written are sound (R451). -/
def State.slcPut (s : State) (core ln : Nat) (bs : List Byte) (dirty : Bool) : State :=
  match s.slcLine ln with
  | some l => (s.setHcx (fun h => { h with slc := setKey h.slc ln { bytes := bs, dirty := dirty || l.dirty, way := l.way } })).mendSlc ln
  | none =>
    let die := s.lineHome ln
    let ways := s.waysOf (s.reg .HCX_CORE_CTRL (core / 24) (core % 24) % 32) die
    let inSet := s.hcx.slc.filter (fun e => s.lineHome e.1 = die && slcSetOf e.1 == slcSetOf ln)
    let empty := ways.filter (fun w => !inSet.any (fun e => e.2.way = w))
    let (i, s) := s.free (if empty.isEmpty then ways.length else empty.length)
    let way := (if empty.isEmpty then ways else empty).getD i 0
    let s :=
      match inSet.find? (fun e => e.2.way = way) with
      | none => s
      | some e => s.slcEvict e.1 e.2
    (s.setHcx (fun h => { h with slc := (ln, { bytes := bs, dirty := dirty, way := way }) :: h.slc })).mendSlc ln

/-- The line's data for a core: from the cache, whose corrected words count and whose uncorrectable word loses the domain (R341), or from
DRAM into the cache; none on an uncorrectable word. -/
def State.homeRead (s : State) (core ln : Nat) : State × Option (List Byte) :=
  match s.slcLine ln with
  | some l =>
    let s := ((wordsOf (64 * ln) 64).filter (fun w => popCount 64 (s.wordErr w) = 1)).foldl State.countCorr s
    if (s.badWord (64 * ln) 64).isSome then (s.findError ln, none) else (s, some l.bytes)
  | none =>
    match s.load (64 * ln) 64 with
    | (s, none) => (s, none)
    | (s, some bs) => (s.slcPut core ln bs false, some bs)

/-! The directory (R332, R333). -/

/-- Set an entry, most recently used. -/
def State.setEntryOf (s : State) (ln : Nat) (e : DirSt) : State :=
  s.setHcx (fun h => { h with dir := h.dir.filter (fun x => x.1 ≠ ln) ++ [(ln, e)] })

def State.dropEntryOf (s : State) (ln : Nat) : State := s.setHcx (fun h => { h with dir := h.dir.filter (fun x => x.1 ≠ ln) })

/-- One more sharer: beyond four, a die vector. -/
def addSharer (core : Nat) : Option DirSt → DirSt
  | some (.shared l) =>
    if l.contains core then .shared l
    else if l.length < 4 then .shared (l ++ [core])
    else .vector (bitsAt ((l ++ [core]).map (fun k => k / 24)))
  | some (.vector v) => .vector (v ||| 2 ^ (core / 24))
  | _ => .shared [core]

/-- The sets of a die's directory, and the entries of a set: 1,048,576 entries in all (R332). -/
def dirSets : Nat := 2 ^ (Config.dirSetsLog % 21)
def dirWays : Nat := 2 ^ 20 / dirSets
def dirSetOf (ln : Nat) : Nat := Config.dirSet ln % dirSets

/-- The entry that a new one of this line would displace: the least recently used of a full set (R333). -/
def State.victim (s : State) (ln : Nat) : Option (Nat × DirSt) :=
  let die := s.lineHome ln
  let set := s.hcx.dir.filter (fun e => s.lineHome e.1 = die && dirSetOf e.1 == dirSetOf ln)
  if set.length < dirWays then none else set.head?

/-! The home (R334 to R340). -/

def State.dropOp (s : State) (ln : Nat) : State := s.setHcx (fun h => { h with busy := h.busy.filter (fun x => x.line ≠ ln) })

/-- The access of a core met an uncorrectable word (R453): the request ends. -/
def State.dropReq (s : State) (core ln : Nat) : State :=
  s.setHcx (fun h => { h with reqs := h.reqs.filter (fun r => !(r.core = core && r.line == ln)) })

/-- Grant a line with data: DATA_E or DATA_S; the home stays busy until the core's hold ends (R339). A line that cannot be read ends the request
(R453), and CORE_HOLD_END, at once, ends the home's work on it (log 86). -/
def State.grantData (s : State) (o : HomeOp) (excl : Bool) : State :=
  let s := s.setOp { o with missing := [] }
  match s.homeRead o.core o.line with
  | (s, none) =>
    if s.hcx.found.isSome then s
    else ((s.dropReq o.core o.line).setOp { o with missing := [], granted := true, since := s.ft }).coreFault o.core (64 * o.line)
  | (s, some bs) =>
    let s := s.setEntryOf o.line (if excl then .owned o.core else addSharer o.core (s.homeEntry o.line))
    (s.setOp { o with missing := [], granted := true, since := s.ft }).send (if excl then .dataE else .dataS) o.core o.line bs

/-- Grant an UPGRADE; a core whose copy has gone receives the line. -/
def State.grantUpgrade (s : State) (o : HomeOp) : State :=
  if (s.copyOf o.core o.line).isNone then s.grantData o true
  else ((s.setEntryOf o.line (.owned o.core)).setOp { o with missing := [], granted := true, since := s.ft }).send .grant o.core o.line []

/-- Begin to recall an entry (R333), unless its home is busy with it: then the recall begins when the home has done with it. -/
def State.beginRecall (s : State) (v : Nat × DirSt) : State :=
  if (s.homeOp v.1).isSome then s
  else
  match v.2 with
  | .owned k => s.ask { line := v.1, kind := .evict } .fwdI [k]
  | e => s.ask { line := v.1, kind := .evict } .inv e.cores

/-- Serve a core's request for a line that the home is not busy with, or whose recall has ended. -/
def State.serveCore (s : State) (o : HomeOp) : State :=
  let ln := o.line
  let fresh (s : State) : State :=
    match s.victim ln with
    | some v => (s.setOp { o with behind := some v.1, since := s.ft }).beginRecall v
    | none => s.grantData o true
  match o.kind, s.homeEntry ln with
  | .getS, none => fresh s
  | .getS, some (.owned k) => s.ask o .fwdS [k]
  | .getS, some _ => s.grantData o false
  | .upgrade, some (.owned k) => s.ask { o with kind := .getX } .fwdI [k]
  | .upgrade, some e =>
    let others := e.cores.filter (fun k => k ≠ o.core)
    let o := if e.cores.contains o.core then o else { o with kind := .getX }
    if others.isEmpty then s.grantUpgrade o else s.ask o .inv others
  | _, none => fresh s
  | _, some (.owned k) => s.ask o .fwdI [k]
  | _, some e =>
    let others := e.cores.filter (fun k => k ≠ o.core)
    if others.isEmpty then s.grantData o true else s.ask o .inv others

/-- The line is no longer busy: the reserved request is served (R338), else the engine-side accesses that wait, in order. -/
def State.serveNext (ln : Nat) : Nat → State → State
  | 0, s => s
  | k + 1, s =>
    match s.hcx.reserved.find? (fun r => r.1 = ln) with
    | some (_, core, _) =>
      let s := s.setHcx (fun h => { h with reserved := h.reserved.filter (fun r => r.1 ≠ ln) })
      match s.hcx.reqs.find? (fun r => r.core = core && r.line == ln) with
      | some r => s.serveCore { line := ln, kind := r.kind, core := core }
      | none => State.serveNext ln k s
    | none =>
      match s.hcx.engineWait.find? (fun e => e.1 = ln) with
      | none => s
      | some e =>
        let s := s.setHcx (fun h => { h with engineWait := h.engineWait.erase e })
        match s.serveEngine ln e.2 with
        | (s, true) => State.serveNext ln k s
        | (s, false) => s

/-- The home has finished with a line: PUT_ACKs go out (R336), requests that waited for its recall go on, then the next is served. -/
def State.homeDone (s : State) (o : HomeOp) : State :=
  let s := o.putAcks.foldl (fun s k => s.send .putAck k o.line []) (s.dropOp o.line)
  let s := (s.hcx.busy.filter (fun x => x.behind = some o.line)).foldl (fun s x => s.serveCore { x with behind := none }) s
  if (s.homeOp o.line).isSome then s else State.serveNext o.line (s.hcx.engineWait.length + 2) s

/-- Every answer has arrived. -/
def State.answersIn (s : State) (o : HomeOp) : State :=
  match o.kind with
  | .getS => s.grantData o false
  | .getX => (s.dropEntryOf o.line).grantData o true
  | .upgrade => s.grantUpgrade o
  | .evict => ((s.dropEntryOf o.line).count .HCX_DIR_RECALLS (s.lineHome o.line) 0 1).homeDone o
  | .read => (s.serveAcc o.line (o.acc.getD (.read none))).homeDone o
  | .write => ((s.dropEntryOf o.line).serveAcc o.line (o.acc.getD (.read none))).homeDone o

/-- One core has answered. -/
def State.oneAnswer (s : State) (core ln : Nat) : State :=
  match s.homeOp ln with
  | none => s
  | some o =>
    let o := { o with missing := o.missing.erase core }
    let s := s.setOp o
    if o.missing.isEmpty && !o.granted && o.behind.isNone then s.answersIn o else s

/-- Modified data of a core reaches the home that is busy with the line: for a core's request or a recall to the cache; for an engine-side
access as R334 says. -/
def State.takeData (s : State) (core ln : Nat) (bs : List Byte) : State :=
  match s.homeOp ln with
  | some o =>
    match o.kind with
    | .read => s.homeWrite ln bs
    | .write => (match o.acc with | some (.write 0 d _) => if d.length < 64 then s.homeWrite ln bs else s | _ => s.homeWrite ln bs)
    | _ => s.slcPut core ln bs true
  | none => s.slcPut core ln bs true

/-- The request of a core is answered with NACK (R337, R338). -/
def State.nack (s : State) (core ln : Nat) : State :=
  let s := (s.count .HCX_DIR_NACKS (s.lineHome ln) 0 1).send .nack core ln []
  let s := s.setHcx (fun h => { h with reqs := h.reqs.map (fun r => if r.core = core && r.line == ln then { r with nacks := r.nacks + 1 } else r) })
  let n := match s.hcx.reqs.find? (fun r => r.core = core && r.line == ln) with | some r => r.nacks | none => 0
  if n ≥ 16 && !s.hcx.reserved.any (fun r => r.1 = ln) then
    (s.setHcx (fun h => { h with reserved := h.reserved ++ [(ln, core, s.ft)] })).countCore .HCX_CORE_RESERVED core 1
  else s

/-- A request of a core arrives at the home. The retry of one that the home serves already, as the line's reservation (R338), adds nothing. -/
def State.homeRequest (s : State) (core ln : Nat) (kind : OpKind) : State :=
  match s.homeOp ln with
  | some o =>
    let coming : Bool := s.hcx.msgs.any (fun m => m.core = core && m.line == ln && (m.kind == .dataS || m.kind == .dataE || m.kind == .grant))
    if o.core = core && o.acc.isNone && o.kind != .evict && (!o.granted || coming) then s else s.nack core ln
  | none =>
    if s.hcx.reserved.any (fun r => r.1 = ln && r.2.1 ≠ core) then s.nack core ln
    else
      match s.dirRead ln with
      | (s, false) => s
      | (s, true) =>
        let s := s.setHcx (fun h => { h with reserved := h.reserved.filter (fun r => r.1 ≠ ln) })
        s.serveCore { line := ln, kind := kind, core := core }

/-- A core drops its clean copy of a line without telling the home (R335), once its minimum hold is over. -/
def CoreLine.drops (s : State) (c : CoreLine) : Bool := c.st != .modified && c.due.isNone && decide (c.holdEnd ≤ s.ft)

/-- Room in a core's level-2 cache of 32,768 lines (R328) for one more: of a full one a clean line goes, which one is open; none when every line
that it holds is modified or within its hold, so that a PUT_M comes first. Lines on their way have their places too. -/
def State.l2Room (s : State) (core : Nat) : Option State :=
  let mine := s.hcx.copies.filter (fun c => c.core = core)
  let coming := s.hcx.reqs.filter (fun r => r.core = core && r.kind != .upgrade)
  if mine.length + coming.length < 32768 then some s
  else
    match mine.filter (fun c => c.drops s) with
    | [] => none
    | l =>
      let (i, s) := s.free l.length
      some (s.setHcx (fun h => { h with copies := match l[i]? with | some c => h.copies.erase c | none => h.copies }))

/-- A new request of a core: it holds no copy, or drops a clean one (R335) (an UPGRADE: it holds a shared one), has no request for the line
outstanding and no PUT_M (R336); a copy to come has room in its caches (R328). On an ENGINE page the data comes uncached (R314); at an address that is not assigned the access faults (R326,
R327). -/
def State.coreRequest (s : State) (core ln : Nat) (kind : OpKind) : State :=
  let held := s.copyOf core ln
  let asks : Bool := match held with | none => kind != .upgrade | some c => if kind = .upgrade then c.st == .sharedCopy else c.drops s
  if core ≥ 192 || !s.coresRun then s
  else if !isTier1 (64 * ln) then (if isAssigned (64 * ln) then s else { s with resp := .accessFault })
  else if !s.isShared (64 * ln) then
    if kind = .upgrade then s
    else
      match s.load (64 * ln) 64 with
      | (s, some bs) => { s with resp := .bytes bs }
      | (s, none) => s.coreFault core (64 * ln)
  else if !asks || s.hcx.reqs.any (fun r => r.core = core && r.line == ln) || s.hcx.putting.contains (core, ln) then s
  else
    let s := if kind = .upgrade then s else s.setHcx (fun h => { h with copies := h.copies.filter (fun c => !(c.core = core && c.line == ln)) })
    match (if kind = .upgrade then some s else s.l2Room core) with
    | none => s
    | some s =>
      let s := s.setHcx (fun h => { h with reqs := h.reqs ++ [{ core := core, line := ln, kind := kind, since := s.ft }] })
      s.homeRequest core ln kind

def execGetS (t core line : Nat) (s : State) : Host.Outcome State Fault Refusal := .next ((s.advance t).coreRequest core line .getS).loseFound
def execGetX (t core line : Nat) (s : State) : Host.Outcome State Fault Refusal := .next ((s.advance t).coreRequest core line .getX).loseFound
def execUpgrade (t core line : Nat) (s : State) : Host.Outcome State Fault Refusal := .next ((s.advance t).coreRequest core line .upgrade).loseFound

/-- PUT_M (R336, R340): never refused, within the core's hold neither; the home takes its data, and acknowledges it once it is not busy with the
line. An INV or a forward that the hold kept back is then answered with NOT_PRESENT. -/
def execPutM (t core line : Nat) (data : List Byte) (s : State) : Host.Outcome State Fault Refusal :=
  let s := s.advance t
  match s.copyOf core line with
  | none => .next s
  | some c =>
    if !s.coresRun || c.st == .sharedCopy || data.length ≠ 64 then .next s
    else
      let s := s.setHcx (fun h => { h with copies := h.copies.erase c, putting := h.putting ++ [(core, line)] })
      let s := s.takeData core line data
      let s := if c.due.isSome then s.send .notPresent core line [] else s
      match s.homeOp line with
      | some o => .next (s.setOp { o with putAcks := o.putAcks ++ [core] }).loseFound
      | none => .next ((s.dropEntryOf line).send .putAck core line []).loseFound

/-- PUT_ACK. -/
def execPutAck (t core line : Nat) (s : State) : Host.Outcome State Fault Refusal :=
  let s := s.advance t
  match (if s.coresRun then s.receive .putAck core line else none) with
  | none => .next s
  | some (_, s) => .next (s.setHcx (fun h => { h with putting := h.putting.filter (fun p => p ≠ (core, line)) }))

/-- A core answers an INV or a forward (R334, R335): a copy in state M comes back dirty. -/
def State.coreAnswers (s : State) (core ln : Nat) (kind : MsgKind) : State :=
  match s.copyOf core ln with
  | none => s.send .notPresent core ln []
  | some c =>
    let keep : Bool := kind = .fwdS
    let s := s.setHcx (fun h => { h with copies := h.copies.filterMap (fun x =>
      if x = c then (if keep then some { x with st := .sharedCopy, due := none } else none) else some x) })
    if kind = .inv then s.send .invAck core ln []
    else s.send (if c.st = .modified then .wbDirty else .wbClean) core ln c.bytes

/-- What a core has done with a copy since it came (R332, R335): a store makes an owned line M, and a clean line may have gone. -/
def CoreLine.after (s : State) (c : CoreLine) (did : CoreDid) : Option CoreLine :=
  match did with
  | .nothing => some c
  | .stored bs => if c.st != .sharedCopy && bs.length == 64 then some { c with st := .modified, bytes := bs } else some c
  | .dropped => if c.drops s then none else some c

/-- A core receives an INV or a forward: during its hold the answer waits (R339). -/
def State.coreTold (s : State) (core ln : Nat) (kind : MsgKind) (did : CoreDid) : State :=
  match (if s.coresRun then s.receive kind core ln else none) with
  | none => s
  | some (_, s) =>
    let s := s.setHcx (fun h => { h with copies := h.copies.filterMap (fun c => if c.core = core && c.line == ln then c.after s did else some c) })
    match s.copyOf core ln with
    | some c =>
      if s.ft < c.holdEnd then
        s.setHcx (fun h => { h with copies := h.copies.map (fun x => if x = c then { x with due := some kind } else x) })
      else s.coreAnswers core ln kind
    | none => s.coreAnswers core ln kind

def execInv (t core : Nat) (msg : InvAt) (s : State) : Host.Outcome State Fault Refusal :=
  .next ((s.advance t).coreTold core msg.line .inv msg.did)
def execFwdS (t core line : Nat) (did : CoreDid) (s : State) : Host.Outcome State Fault Refusal := .next ((s.advance t).coreTold core line .fwdS did)
def execFwdI (t core line : Nat) (did : CoreDid) (s : State) : Host.Outcome State Fault Refusal := .next ((s.advance t).coreTold core line .fwdI did)

/-- DATA_WB. -/
def execDataWb (t core line : Nat) (s : State) : Host.Outcome State Fault Refusal :=
  let s := s.advance t
  let after (s : State) : State :=
    let s := match s.homeOp line with
      | some o => if o.kind = OpKind.getS || o.kind == OpKind.read then s.setEntryOf line (.shared [core]) else s
      | none => s
    s.oneAnswer core line
  if !s.coresRun then .next s
  else
    match s.receive .wbDirty core line with
    | some (m, s) => .next (after (s.takeData core line m.bytes)).loseFound
    | none =>
      match s.receive .wbClean core line with
      | some (_, s) => .next (after s).loseFound
      | none => .next s

/-- INV_ACK. -/
def execInvAck (t core line : Nat) (s : State) : Host.Outcome State Fault Refusal :=
  let s := s.advance t
  match (if s.coresRun then s.receive .invAck core line else none) with
  | none => .next s
  | some (_, s) => .next (s.oneAnswer core line).loseFound

/-- NOT_PRESENT (R335): an owner that answers it holds nothing. -/
def execNotPresent (t core line : Nat) (s : State) : Host.Outcome State Fault Refusal :=
  let s := s.advance t
  match (if s.coresRun then s.receive .notPresent core line else none) with
  | none => .next s
  | some (_, s) =>
    let s := s.count .HCX_NOT_PRESENT (s.lineHome line) 0 1
    let s := match s.homeEntry line with | some (.owned k) => if k = core then s.dropEntryOf line else s | _ => s
    .next (s.oneAnswer core line).loseFound

/-- A level-1 data cache of 1,024 lines (R328) has room for one more line: of a full one a line goes, which one is open. It stays in the
level-2 cache. -/
def State.l1Room (s : State) (core : Nat) : State :=
  let mine := s.hcx.copies.filter (fun c => c.core = core && c.l1)
  if mine.length < 1024 then s
  else
    let (i, s) := s.free mine.length
    s.setHcx (fun h => { h with copies := h.copies.map (fun c => if mine[i]? = some c then { c with l1 := false } else c) })

/-- A line enters a core's level-1 instruction cache of 1,024 lines. -/
def State.l1Instr (s : State) (core ln : Nat) : State :=
  let mine := s.hcx.l1i.filter (fun e => e.1 = core && e.2 != ln)
  let (i, s) := if mine.length < 1024 then (1024, s) else s.free mine.length
  s.setHcx (fun h => { h with l1i := (core, ln) :: h.l1i.filter (fun e => e ≠ (core, ln) && mine[i]? != some e) })

/-- A core receives a line or a grant: the request ends, and the hold of 128 ns begins (R339). The line enters the level-1 cache that asked
for it, for a line to share either one, which is open (log 96). -/
def State.coreGets (s : State) (core ln : Nat) (st : CopySt) (bs : Option (List Byte)) : State :=
  let (i, s) := if st = .sharedCopy then s.free 2 else (0, s)
  let s := if i = 1 then s.l1Instr core ln else s.l1Room core
  let s := (s.dropReq core ln).setHcx (fun h => { h with
    copies := match bs with
      | some b => { core := core, line := ln, st := st, bytes := b, holdEnd := s.ft + 128, l1 := i = 0 } ::
          h.copies.filter (fun c => !(c.core = core && c.line == ln))
      | none => h.copies.map (fun c => if c.core = core && c.line == ln then { c with st := st, holdEnd := s.ft + 128, l1 := true } else c) })
  match s.homeOp ln with
  | some o => if o.granted && o.core == core then s.setOp { o with since := s.ft + 128 } else s
  | none => s

def State.coreDelivered (s : State) (core ln : Nat) (kind : MsgKind) (st : CopySt) : State :=
  match (if s.coresRun then s.receive kind core ln else none) with
  | none => s
  | some (m, s) => s.coreGets core ln st (if kind = .grant then none else some m.bytes)

def execDataS (t core line : Nat) (s : State) : Host.Outcome State Fault Refusal := .next ((s.advance t).coreDelivered core line .dataS .sharedCopy)
def execDataE (t core line : Nat) (s : State) : Host.Outcome State Fault Refusal := .next ((s.advance t).coreDelivered core line .dataE .exclusive)
def execGrant (t core line : Nat) (s : State) : Host.Outcome State Fault Refusal := .next ((s.advance t).coreDelivered core line .grant .exclusive)

/-- CORE_HOLD_END: the answer that waited goes out, and the home is no longer busy with the line. -/
def execCoreHoldEnd (t core line : Nat) (s : State) : Host.Outcome State Fault Refusal :=
  let s := s.advance t
  let early : Bool := match s.copyOf core line with | some c => s.ft < c.holdEnd | none => false
  let moving : Bool := s.hcx.msgs.any (fun m => m.core = core && m.line == line && (m.kind == .dataS || m.kind == .dataE || m.kind == .grant))
  if early || moving || !s.coresRun then .next s
  else
    let s := match s.copyOf core line with
      | some c => (match c.due with | some k => s.coreAnswers core line k | none => s)
      | none => s
    match s.homeOp line with
    | some o => if o.granted && o.core == core && s.ft ≥ o.since then .next (s.homeDone o).loseFound else .next s
    | none => .next s

/-- Backoff after `n` NACKs in a row (R337). -/
def backoff (n : Nat) : Nat := min 512 (32 * 2 ^ (n - 1))

/-- NACK. -/
def execNackRx (t core line : Nat) (s : State) : Host.Outcome State Fault Refusal :=
  let s := s.advance t
  match (if s.coresRun then s.receive .nack core line else none) with
  | none => .next s
  | some (_, s) =>
    let s := s.countCore .HCX_CORE_NACKED core 1
    .next (s.setHcx (fun h => { h with reqs := h.reqs.map (fun r =>
      if r.core = core && r.line == line then { r with retryAt := some (s.ft + backoff r.nacks) } else r) }))

/-- NACK_BACKOFF_EXPIRY: the same request again. An UPGRADE whose copy has gone is treated at the home as GET_X. -/
def execNackBackoffExpiry (t core line : Nat) (s : State) : Host.Outcome State Fault Refusal :=
  let s := s.advance t
  match s.hcx.reqs.find? (fun r => r.core = core && r.line == line) with
  | none => .next s
  | some r =>
    match r.retryAt with
    | none => .next s
    | some at' =>
      if s.ft < at' || !s.coresRun then .next s
      else
        let s := s.setHcx (fun h => { h with reqs := h.reqs.map (fun x => if x = r then { x with retryAt := none } else x) })
        .next (s.homeRequest core line r.kind).loseFound

/-- ENGINE_SNOOP_ACCESS: an engine-side access of a line; `write` holds the bytes from the line's start. -/
def execEngineSnoopAccess (t line : Nat) (write : Option (List Byte)) (s : State) : Host.Outcome State Fault Refusal :=
  let s := s.advance t
  let short : Bool := match write with | some bs => bs.isEmpty || bs.length > 64 | none => false
  let acc : EngAcc := match write with | some bs => .write 0 bs false | none => .read none
  if !isTier1 (64 * line) || !s.isShared (64 * line) || short then .next s
  else if s.fencedIn write.isSome (64 * line) 64 then .next { s with resp := .failed stContextFenced }
  else if (s.homeOp line).isSome then .next (s.setHcx (fun h => { h with engineWait := h.engineWait ++ [(line, acc)] }))
  else .next (s.serveEngine line acc).1.loseFound

/-! Loss of the domain (R341). -/

/-- The error that a report of the coherent domain tells of lies in a word of the line's copy in the system-level cache, or in its tag or
directory entry: which one is open (log 94). -/
def State.markSlc (s : State) (ln unit : Nat) : State :=
  if (s.slcLine ln).isNone || unit ≠ unitId (s.lineHome ln) clsHCX 0x80 then s
  else
    let (i, s) := s.free 9
    if i = 8 then s else { s with upsets := (.slc ln i, 3) :: s.upsets.filter (fun e => e.1 ≠ .slc ln i) }

/-- DOMAIN_TIMEOUT: 1 an uncorrectable error found, 2 a silent core, 3 a silent home, 4 an unserved reservation. An error in a level-1
instruction cache (5) drops the line, which is fetched again from the level-2 cache, counts, and loses nothing. -/
def execDomainTimeout (t cause line unit : Nat) (s : State) : Host.Outcome State Fault Refusal :=
  let s := s.advance t
  let late (f : Nat) : Bool := s.ft ≥ f + 20000
  let holds (c : HomeOp) : Nat := c.missing.foldl (fun a k => match s.copyOf k line with | some x => max a x.holdEnd | none => a) c.since
  let due : Bool :=
    match cause with
    | 1 => true
    | 2 => match s.homeOp line with | some o => !o.missing.isEmpty && late (holds o) | none => false
    | 3 => s.hcx.reqs.any (fun r => r.line = line && late r.since)
    | 4 => s.hcx.reserved.any (fun r => r.1 = line && late r.2.2)
    | _ => false
  if s.coresRun && cause == 5 then
    .next ((s.count .HCX_ECC_UNCORR (unitDie unit) 0 1).setHcx (fun h => { h with
      l1i := h.l1i.filter (fun e => e ≠ (24 * unitDie unit + unitInst unit, line)) }))
  else if !s.coresRun || !due then .next s
  else
    let s := if cause = 1 then (s.count .HCX_ECC_UNCORR (unitDie unit) 0 1).markSlc line unit else s
    .next (s.loseDomain cause line unit)

end Sys2Proof.Machine
end

