-- ==== Sys2Proof/Machine/Translate.lean ====
section
/-!
DEFINITION. Engine address translation (chapter 12): the rows MAP, UNMAP, INVAL_TC, TC_INVALIDATION, TRANSLATION_RETIRE_DONE and
TRANSLATION_WALK.
-/
namespace Sys2Proof.Machine

/-! Tables and the table area (R346, R347). -/

/-- Bytes and alignment of a table, by level. -/
def tableSize : Nat → Nat
  | 3 => 2048
  | 0 => 128
  | _ => 4096

/-- A place of `size` bytes in the area meets no table. -/
def placeFree (tables : List (Nat × Nat)) (a size : Nat) : Bool := tables.all (fun t => a + size ≤ t.1 || t.1 + t.2 ≤ a)

/-- The first free place from the `i`-th on, around the area of `n` places. -/
def findPlace (tables : List (Nat × Nat)) (base size n : Nat) : Nat → Nat → Option Nat
  | 0, _ => none
  | k + 1, i =>
    let a := base + i % n * size
    if placeFree tables a size then some a else findPlace tables base size n k (i + 1)

/-- Take a table of a level: its place in the area is open (R348, log 6); it is written with zeros. None when the area has no room. -/
def State.newTable (s : State) (c level : Nat) : State × Option Nat :=
  let x := s.ctx c
  let size := tableSize level
  let n := x.tableBytes / size
  let (i, s) := s.free n
  match findPlace x.tables x.tableArea size n n i with
  | none => (s, none)
  | some a =>
    let (s, _) := s.save a (List.replicate size 0#8)
    (s.setCtx c (fun x => { x with tables := (a, size) :: x.tables }), some a)

/-- A pointer entry to a table. -/
def pointerTo (a : Nat) : List Byte := leBytes 8 (a + 1)

/-- The root table of a context. -/
def State.rootOf (s : State) (c : Nat) : Nat := 2048 * bitsOf (s.reg .PTU_CTX_ROOT 0 c) 43 11

/-- The levels from below the root to the leaf's level: level, low index bit, width. -/
def levelsTo (big : Bool) : List (Nat × Nat × Nat) := walkLevels.take (if big then 3 else 4)

/-- Why a mapping cannot be written. -/
inductive MapErr where
  | mapped | full | bad
  deriving DecidableEq, Repr

/-- Write a leaf, taking the tables that are missing. -/
def State.putLeaf (c va leaf : Nat) : List (Nat × Nat × Nat) → Nat → State → State × Option MapErr
  | [], _, s => (s, some .mapped)
  | (level, lo, w) :: rest, table, s =>
    let a := pteAddr table va lo w
    match s.load a 8 with
    | (s, none) => (s, some .bad)
    | (s, some bs) =>
      let e := leNat bs
      if rest.isEmpty then
        if bitOf e 0 then (s, some .mapped) else ((s.save a (leBytes 8 leaf)).1, none)
      else if bitOf e 0 then
        if bitOf e 1 then (s, some .mapped) else State.putLeaf c va leaf rest (128 * bitsOf e 43 7) s
      else
        match s.newTable c (level - 1) with
        | (s, none) => (s, some .full)
        | (s, some t) => State.putLeaf c va leaf rest t (s.save a (pointerTo t)).1

/-- The leaf's address and value at the level of a page size, if the page is mapped at that size. -/
def State.findLeaf (va : Nat) : List (Nat × Nat × Nat) → Nat → State → State × Option (Nat × Nat)
  | [], _, s => (s, none)
  | (_, lo, w) :: rest, table, s =>
    let a := pteAddr table va lo w
    match s.load a 8 with
    | (s, none) => (s, none)
    | (s, some bs) =>
      let e := leNat bs
      if !bitOf e 0 then (s, none)
      else if rest.isEmpty then (s, if bitOf e 1 then some (a, e) else none)
      else if bitOf e 1 then (s, none)
      else State.findLeaf va rest (128 * bitsOf e 43 7) s

/-- Tables that hold no valid entry return to the area, from the leaf's table up (R347); the root stays. -/
def State.prune (c va : Nat) : List (Nat × Nat × Nat) → Nat → State → State
  | [], _, s => s
  | (level, lo, w) :: rest, table, s =>
    let a := pteAddr table va lo w
    let e := leNat (s.peekBytes a 8)
    if level = 0 || !bitOf e 0 || bitOf e 1 then s
    else
      let t := 128 * bitsOf e 43 7
      let s := State.prune c va rest t s
      let size := tableSize (level - 1)
      if (List.range (size / 8)).any (fun i => bitOf (leNat (s.peekBytes (t + 8 * i) 8)) 0) then s
      else
        let (s, _) := s.save a (leBytes 8 0)
        s.setCtx c (fun x => { x with tables := x.tables.filter (fun y => y.1 ≠ t) })

/-! MAP (R351). -/

def pageBytes (big : Bool) : Nat := if big then 2 ^ 30 else 2 ^ 26

/-- A page of this package lies wholly in a context's banks or channels. -/
def State.pageIn (s : State) (c a : Nat) (big : Bool) : Bool :=
  (List.range (pageBytes big / 2 ^ 24)).all (fun i => s.unitIn c (a / 2 ^ 24 + i))

/-- A page's target (R351): in the context's partition, or in another package's tier 1 or working store. -/
def State.targetOk (s : State) (c g : Nat) (big : Bool) : Bool :=
  let a := gaLocal g
  let last := a + pageBytes big - 1
  (isTier1 a || isWs a) && (isTier1 last || isWs last) && (gaPkg g ≠ s.pkgId || s.pageIn c a big)

/-- The leaf of a page. -/
def leafOf (big : Bool) (g flags : Nat) : Nat :=
  (if big then 2 ^ 30 * (g / 2 ^ 30) else 2 ^ 26 * (g / 2 ^ 26)) + 3 + 4 * (flags % 2) + 8 * (flags / 2 % 2) + 16 * (flags / 4 % 2)

/-- Pinned entries of a context on a die. -/
def State.pinnedOf (s : State) (die c : Nat) : Nat := ((s.tc.getD die []).filter (fun e => e.pinned && e.ctx == c)).length

/-- Load a pinned entry into every die the context touches (R349). -/
def State.pin (s : State) (c va leaf : Nat) (big : Bool) : State :=
  let e : TcEntry := ⟨c, if big then va / 2 ^ 30 else va / 2 ^ 26, big, leaf, true⟩
  { s with tc := (s.tc.zip dies).map (fun (l, d) => if touchesDie (s.ctx c).part d then tcFill l e else l) }

/-- Every page of the range, in order. -/
def State.mapAll (c ga leafFlags : Nat) (big pin : Bool) (va : Nat) : List Nat → State → State × Option MapErr
  | [], s => (s, none)
  | i :: rest, s =>
    let v := va + i * pageBytes big
    let leaf := leafOf big (ga + i * pageBytes big) leafFlags
    match State.putLeaf c v leaf (levelsTo big) (s.rootOf c) s with
    | (s, some e) => (s, some e)
    | (s, none) => State.mapAll c ga leafFlags big pin va rest (if pin then s.pin c v leaf big else s)

/-- MAP: every check comes before any effect, in the order of the table of R351. -/
def State.doMap (s : State) (o : OutCmd) (c va ga pages size flags : Nat) : State :=
  let big : Bool := size = 1
  let n := pageBytes big
  let pin := bitOf flags 3
  if pages = 0 || pages > 65536 || size > 1 || flags ≥ 16 || ga ≥ 2 ^ 58 then s.complete o stBadParam 0 0
  else if va % n ≠ 0 || ga % n ≠ 0 || va + pages * n > 2 ^ 56 || ga + pages * n > 2 ^ 58 then s.complete o stBadParam 0 0
  else
    let trial := State.mapAll c ga flags big pin va (List.range pages) s
    if trial.2 = some .bad then s.complete o stMemUncorrectable 0 0
    else if trial.2 = some .mapped then s.complete o stBadState 0 0
    else if !(List.range pages).all (fun i => s.targetOk c (ga + i * n) big) then s.complete o stBadParam 0 0
    else if trial.2 = some .full ||
        (pin && dies.any (fun d => touchesDie (s.ctx c).part d && s.pinnedOf d c + pages > (s.ctx c).part.allot.getD d 0)) then
      s.complete o stNoResource 0 0
    else trial.1.complete o stOk 0 0

def execMapPages (t : Nat) (c : Cmd) (va ga pages size flags : Nat) (s : State) : Host.Outcome State Fault Refusal :=
  .next ((s.advance t).command c 0x06 (fun o s => s.doMap o (cmdTarget c) va ga pages size flags))

/-! UNMAP and INVAL_TC (R352 to R356). -/

/-- Clear the leaves of a range; none when a page is not mapped at the size. -/
def State.clearLeaves (c : Nat) (big : Bool) : List Nat → State → State × Bool
  | [], s => (s, true)
  | v :: rest, s =>
    match State.findLeaf v (levelsTo big) (s.rootOf c) s with
    | (s, none) => (s, false)
    | (s, some (a, _)) => State.clearLeaves c big rest (s.save a (leBytes 8 0)).1

/-- An invalidation leaves for every die. -/
def State.invalidate (s : State) (c lo hi : Nat) (un : Bool) (o : OutCmd) : State :=
  { s with invals := s.invals ++ [{ ctx := c, lo := lo, hi := hi, unmap := un, dies := dies, cmd := o }] }

def State.doUnmap (s : State) (o : OutCmd) (c va pages size : Nat) : State :=
  let big : Bool := size = 1
  let n := pageBytes big
  if pages = 0 || pages > 65536 || size > 1 || va % n ≠ 0 || va + pages * n > 2 ^ 56 then s.complete o stBadParam 0 0
  else
    match State.clearLeaves c big ((List.range pages).map (fun i => va + i * n)) s with
    | (_, false) => s.complete o stBadParam 0 0
    | (s, true) => s.invalidate c va (va + pages * n) true o

def execUnmap (t : Nat) (c : Cmd) (va pages size : Nat) (s : State) : Host.Outcome State Fault Refusal :=
  .next ((s.advance t).command c 0x07 (fun o s => s.doUnmap o (cmdTarget c) va pages size))

def State.doInval (s : State) (o : OutCmd) (c va pages size : Nat) (all : Bool) : State :=
  if all then s.invalidate c 0 (2 ^ 56) false o
  else
    let n := pageBytes (size = 1)
    if pages = 0 || pages > 65536 || size > 1 || va + pages * n > 2 ^ 56 then s.complete o stBadParam 0 0
    else s.invalidate c va (va + pages * n) false o

def execInvalTc (t : Nat) (c : Cmd) (va pages size : Nat) (all : Bool) (s : State) : Host.Outcome State Fault Refusal :=
  .next ((s.advance t).command c 0x08 (fun o s => s.doInval o (cmdTarget c) va pages size all))

/-- A cached entry meets a range of virtual addresses. -/
def TcEntry.meets (e : TcEntry) (c lo hi : Nat) : Bool :=
  let n := pageBytes e.big
  e.ctx = c && e.page * n < hi && lo < (e.page + 1) * n

/-- A cached entry translates a virtual address of a context. -/
def TcEntry.serves (e : TcEntry) (c va : Nat) : Bool := e.ctx = c && e.page == va / pageBytes e.big

/-- The requests of this package that are outstanding, or lost and can still land (R304, R354). -/
def State.landing (s : State) : List Req :=
  s.ports.flatMap (fun p => p.tags ++ p.late.filter (fun r => s.reqAge r < 2000000))

/-- The transfers of a context that are in flight on a die through one of some translations (R353, R354): tile mover, tile, launch. A tile
flies, or a request of it is outstanding or can still land. -/
def State.flyingBy (s : State) (die c : Nat) (by' : Nat → Bool) : List (Nat × Nat × Nat) :=
  ((s.units.filter (fun e => isMover e.1 && unitDie e.1 == die)).flatMap (fun (u, x) =>
    match x.running with
    | none => []
    | some r =>
      match r.prog with
      | .moving _ fl _ _ _ =>
        if r.held.ctx ≠ c then []
        else
          let m := parseTm r.held.pour.action r.held.bytes
          (fl.filter (fun y => by' (m.lower + y.tile * m.lstride) || (m.form.spart ≠ 0 && by' (m.lscale + y.tile * m.form.spart)))).map
            (fun y => (u, y.tile, r.launched))
      | _ => []) ++
  (s.landing.filter (fun q => q.part < 2 && isMover q.unit && unitDie q.unit == die && q.ctx == c && by' q.va)).map
    (fun q => (q.unit, q.tile, q.launch))).eraseDups

/-- TC_INVALIDATION: a die passes its invalidation point. What waits are the transfers that used an entry dropped here, and, for UNMAP, those
of the range whose entry has gone before (R352, R355). -/
def execTcInvalidation (t die ctx : Nat) (s : State) : Host.Outcome State Fault Refusal :=
  let s := s.advance t
  match s.invals.find? (fun i => i.ctx = ctx && i.dies.contains die) with
  | none => .next s
  | some i =>
    let l := s.tc.getD die []
    let gone := l.filter (fun e => e.meets ctx i.lo i.hi)
    let used (va : Nat) : Bool := gone.any (fun e => e.serves ctx va) || (i.unmap && i.lo ≤ va && va < i.hi)
    let i' := { i with dies := i.dies.filter (fun d => d ≠ die), retiring := i.retiring ++ s.flyingBy die ctx used, lastFt := s.ft }
    let s := { s with
      tc := modAt (fun l => l.filter (fun e => !e.meets ctx i.lo i.hi)) s.tc die
      invals := s.invals.map (fun x => if x = i then i' else x) }
    .next (s.count .PTU_INVALS die 0 gone.length)

/-- A transfer has retired (R354): its tile is not in flight, and none of its requests is outstanding or can still land. -/
def State.retired (s : State) (x : Nat × Nat × Nat) : Bool :=
  (match s.runningOn x.1 with
   | some r => r.launched ≠ x.2.2 || (match r.prog with | .moving _ fl _ _ _ => !fl.any (fun y => y.tile = x.2.1) | _ => true)
   | none => true) &&
  !s.landing.any (fun r => r.unit = x.1 && r.tile == x.2.1 && r.launch == x.2.2 && r.part < 2)

/-- TRANSLATION_RETIRE_DONE: UNMAP or INVAL_TC completes. -/
def execTranslationRetireDone (t ctx : Nat) (s : State) : Host.Outcome State Fault Refusal :=
  let s := s.advance t
  match s.invals.find? (fun i => i.ctx = ctx && i.dies.isEmpty && i.retiring.all s.retired) with
  | none => .next s
  | some i =>
    let s := { s with invals := s.invals.erase i }
    let s := dies.foldl (fun s d => s.setReg .PTU_CTX_INVAL_FT d ctx i.lastFt) s
    let s := if i.unmap then
        (List.range ((i.hi - i.lo) / 2 ^ 26)).foldl (fun s k => State.prune ctx (i.lo + 2 ^ 26 * k) walkLevels (s.rootOf ctx) s) s
      else s
    .next (s.complete i.cmd stOk i.lastFt 0)

/-- TRANSLATION_WALK: a unit's access needs a translation; a failure ends its transfer (R348). -/
def execTranslationWalk (t die ctx va need unit : Nat) (s : State) : Host.Outcome State Fault Refusal :=
  let s := s.advance t
  if die ≥ 8 || !(s.ctx ctx).created then .next s
  else
    match s.translate die ctx va (match need with | 0 => .rd | 1 => .wr | _ => .atom) with
    | (s, .ok g) => .next { s with resp := .value g }
    | (s, .error e) =>
      match s.runningOn unit with
      | some r =>
        if r.held.ctx ≠ ctx then .next (s.faultCtx ctx e.code unit va e.detail 0)
        else
          match r.prog with
          | .moving _ _ _ _ _ => .next ((s.moveFails unit e.code unit va e.detail).moveGoes unit)
          | _ => .next (s.failPour unit e.code va e.detail)
      | none => .next (s.faultCtx ctx e.code unit va e.detail 0)

end Sys2Proof.Machine
end

