-- ==== Sys2Proof/Machine/Contexts.lean ====
section
/-!
DEFINITION. Contexts (chapter 13): partitions, creation and destruction, pre-emption, disabling of units: the rows DISABLE_UNIT to
CTX_DESTROY_COMPLETE.
-/
namespace Sys2Proof.Machine

/-! Partitions (R370, R372). -/

/-- The stripe set of a channel (R262), or its fine group (R263). -/
def State.channelSet (s : State) (ch : Nat) : List Nat :=
  let fine := bitsOf (s.reg .STK_FINE 0 0) 1 0
  let n := if fine = 0 then 2 ^ s.stripe (ch / 32) else 64 * 2 ^ fine
  countFrom (ch / n * n) n

/-- A virtual address that the PTU can translate, aligned to 4,096 bytes. -/
def ringVaOk (va : Nat) : Bool := va < 2 ^ 56 && va % 4096 == 0

/-- The table area (R370): in tier 1, aligned, in nobody's channels. -/
def State.areaOk (s : State) (c : Nat) (p : Part) (a n : Nat) : Bool :=
  isTier1 a && a % 4096 == 0 && a + n ≤ 0x10000000000 &&
  (List.range (n / 4096)).all (fun i =>
    let ch := (s.channelAt (a + 4096 * i)).1
    !partHasChannel p ch && s.created.all (fun k => k = c || !partHasChannel (s.ctx k).part ch))

/-- A resource that a partition names belongs to another context. -/
def State.taken (s : State) (c : Nat) (p : Part) : Bool :=
  s.created.any (fun k =>
    let q := (s.ctx k).part
    k ≠ c && (p.engines &&& q.engines != 0 || p.movers &&& q.movers != 0 || p.banks &&& q.banks != 0 || p.channels &&& q.channels != 0 ||
      p.adders &&& q.adders != 0 || (List.range 8).any (fun d => (p.ways.getD d 0) &&& (q.ways.getD d 0) != 0)))

/-- A sum over the other contexts' partitions and this one. -/
def State.totals (s : State) (c : Nat) (p : Part) (f : Part → List Nat) (n limit : Nat) : Bool :=
  (List.range n).all (fun i =>
    (s.created.filter (fun k => k ≠ c)).foldl (fun a k => a + (f (s.ctx k).part).getD i 0) ((f p).getD i 0) ≤ limit)

/-- The checks of R370 in the order of its table; `own` are those of HOME, the rings and their sizes. -/
def State.partCheck (s : State) (c : Nat) (payload : List Byte) (own : Bool) (area bytes : Nat) : Nat :=
  let p := parsePart payload
  if payload.length ≠ 224 || !zeroAt payload 146 2 || !zeroAt payload 216 8 then stBadParam
  else if !(onesOf 512 p.channels).all (fun ch => (s.channelSet ch).all (fun k => partHasChannel p k)) then stBadParam
  else if !own || p.ways.any (fun w => w % 4 ≠ 0) then stBadParam
  else if p.allot.any (fun n => n > 3840) || p.bridgeShare.any (fun n => n > 100) || p.portShare.any (fun n => n > 100) then stBadParam
  else if !s.areaOk c p area bytes then stBadParam
  else if s.taken c p then stNoResource
  else if !s.totals c p Part.allot 8 3840 then stNoResource
  else if !s.totals c p Part.bridgeShare 20 100 || !s.totals c p Part.portShare 16 100 then stNoResource
  else stOk

/-- The replies that RECOVER posts first (R381). -/
def recoverReplies (r : List OutCmd × Nat × Nat) : List Reply :=
  r.1.map (fun o => ⟨stAbortedReset, o.op, false, o.seq, r.2.2, 0⟩) ++ [⟨stAbortedReset, 0, true, 0, r.1.length, r.2.1⟩]

/-- CTX_CREATE. -/
def State.doCreate (s : State) (o : OutCmd) (c : Nat) (p : Create) (payload : List Byte) : State :=
  let own : Bool := p.home < 8 && 3 ≤ p.n && p.n ≤ 16 && 4 ≤ p.m && p.m ≤ 16 && ringVaOk p.ringVa && ringVaOk p.cplVa &&
    p.tableBytes % 4096 == 0 && 65536 ≤ p.tableBytes && p.tableBytes ≤ 268435456
  let st := if (s.ctx c).created then stBadState else s.partCheck c payload own p.table p.tableBytes
  if st ≠ stOk then s.complete o st 0 0
  else
    let old := s.ctx c
    let replies := if p.recover then (match old.resetCmds with | some r => recoverReplies r | none => []) else []
    let s := s.settleAll
    let s := s.setCtx c (fun x => { x with
      created := true, home := p.home, st := .empty, settings := [], part := parsePart payload, tableArea := p.table, tableBytes := p.tableBytes
      tables := [], resetCmds := none, owed := replies, freeSince := 0 })
    let s := dies.foldl (fun s d => [Reg.PLAN_LAUNCHES, Reg.PLAN_HOLD_WAITS, Reg.PLAN_LATE, Reg.PLAN_SKIPPED_GATED].foldl (fun s r => s.setReg r d c 0) s) s
    let s := s.setRing c (fun g => { base := p.ringVa, cplBase := p.cplVa, cmdLog := p.n, cplLog := p.m, fault := g.fault, evtLost := g.evtLost })
    let s := { s with
      energy := Sparse.dropKeys (fun k => k / 8 = c) s.energy
      energyAt := modAt (fun _ => 0) s.energyAt c }
    let s := match s.newTable c 3 with
      | (s, some a) => s.setReg .PTU_CTX_ROOT 0 c (a + 1)
      | (s, none) => s
    s.complete o stOk 0 0

def execCtxCreate (t : Nat) (c : Cmd) (p : Create) (payload : List Byte) (s : State) : Host.Outcome State Fault Refusal :=
  .next ((s.advance t).command c 0x20 (fun o s => s.doCreate o (cmdTarget c) p payload))

/-- CTX_PARTITION. -/
def State.doPartition (s : State) (o : OutCmd) (c : Nat) (payload : List Byte) : State :=
  let x := s.ctx c
  if x.st ≠ .empty || x.destroying then s.complete o stBadState 0 0
  else
    let st := s.partCheck c payload true x.tableArea x.tableBytes
    if st ≠ stOk then s.complete o st 0 0
    else (((s.settleAll).leaveDies c).setCtx c (fun x => { x with part := parsePart payload })).complete o stOk 0 0

def execCtxPartition (t : Nat) (c : Cmd) (payload : List Byte) (s : State) : Host.Outcome State Fault Refusal :=
  .next ((s.advance t).command c 0x21 (fun o s => s.doPartition o (cmdTarget c) payload))

/-! Destruction (R373). -/

/-- Step 3 of R373: everything the context holds is freed; what the rule keeps is kept, and the optimiser codes, which an export in BOOT_HOLD
names (R254, R255). -/
def State.teardown (s : State) (c : Nat) : State :=
  let s := (((s.settleAll).leaveDies c).unbindTags c).closeWindows c
  let s := s.setReg .PTU_CTX_ROOT 0 c 0
  let s := { s with
    tc := s.tc.map (fun l : List TcEntry => l.filter (fun e => e.ctx ≠ c))
    invals := s.invals.filter (fun i => i.ctx ≠ c)
    cmps := s.cmps.filter (fun n => n.ctx ≠ c) }
  s.setCtx c (fun x => {
    stepCount := x.stepCount, stepAtStart := x.stepAtStart, stepFlags := x.stepFlags, gen := x.gen, heat := x.heat
    settings := x.settings.filter (fun g => unitCls g.unit = clsUU && g.param / 256 == 1)
    resetCmds := x.resetCmds })

/-- CTX_DESTROY: dispatch stops at once, pours not launched are withdrawn, and the commands of the context's own ring get no reply (R373).
DESIGN CHOICE (log 99): a PREEMPT of the context that came by the control ring can end in no other way, and ends with BAD_STATE. -/
def State.doDestroy (s : State) (o : OutCmd) (c : Nat) : State :=
  if (s.ctx c).destroying then s.complete o stBadState 0 0
  else
    let s := s.setCtx c (fun x => { x with destroying := true, st := .halting, commit := none, haltPending := false, preempt := none, resume := none })
    let s := ((s.withdraw c).dropDrains c).setRing c (fun g => { g with out := if o.ring = c then [o] else [] })
    match s.outOf c 0x12 with
    | some p => s.complete p stBadState 0 0
    | none => s

def execCtxDestroy (t : Nat) (c : Cmd) (s : State) : Host.Outcome State Fault Refusal :=
  .next ((s.advance t).command c 0x22 (fun o s => s.doDestroy o (cmdTarget c)))

/-- Commands of the control ring that act on a context's translations or read for it are still in progress: they end first, as they would
without the CTX_DESTROY. -/
def State.controlBusy (s : State) (c : Nat) : Bool :=
  s.invals.any (fun i => i.ctx = c && 16 ≤ i.cmd.ring) || s.exports.any (fun x => x.cmd.ctx = c && 16 ≤ x.cmd.ring)

/-- CTX_DESTROY_COMPLETE: pours have ended, and every transfer of the context has retired (R354, R373). -/
def execCtxDestroyComplete (t ctx : Nat) (s : State) : Host.Outcome State Fault Refusal :=
  let s := s.advance t
  if !(s.ctx ctx).destroying || !s.quiet ctx || s.landing.any (fun r => r.ctx = ctx) || s.controlBusy ctx then .next s
  else
    let s := (s.teardown ctx).setRing ctx (fun g => { g with out := [], fault := false, evtLost := false })
    match s.outOf ctx 0x22 with
    | some o => .next (s.complete o stOk 0 0)
    | none => .next s

/-! Pre-emption (R374 to R377). -/

/-- The first boundary at or after an FT in a heat of `len` ns that starts at `start`: its offset in units of 64 ns. -/
def Mould.boundary (m : Mould) (start len ft : Nat) : Option Nat := m.bounds.find? (fun b => ft ≤ at64 start b && 64 * b < len)

/-- The first slot boundary at or after an FT: heat and offset. Every heat has a boundary at its start (R49). -/
def Ctx.boundaryFrom (x : Ctx) (ft : Nat) : Nat × Nat :=
  let next := x.nextHeat.2
  let n := if ft < next then x.heat else x.heat + 1 + (ft - next) / max 1 x.heatLen
  let len := if ft < next then x.span else x.heatLen
  match x.mould with
  | none => (n + 1, 0)
  | some m =>
    match m.boundary (x.startOf n) len ft with
    | some b => (n, b)
    | none => (n + 1, 0)

/-- FT of a boundary. -/
def Ctx.boundaryFt (x : Ctx) (b : Nat × Nat) : Nat := at64 (x.startOf b.1) b.2

/-- PREEMPT without RESUME. -/
def State.doPreempt (s : State) (o : OutCmd) (c : Nat) : State :=
  let x := s.ctx c
  if !x.active || x.haltPending || x.commit.isSome || x.preempt.isSome || x.preemptTaken then s.complete o stBadState 0 0
  else if x.st = .armed then
    (((s.withdraw c).loaded c).setCtx c (fun x => { x with resume := none })).complete o stOk x.heat 0
  else
    let b := x.boundaryFrom (s.ft + 256)
    (s.setCtx c (fun x => { x with preempt := some b })).amend o { o with a := b.1, b := b.2 }

def execPreempt (t : Nat) (c : Cmd) (s : State) : Host.Outcome State Fault Refusal :=
  .next ((s.advance t).command c 0x12 (fun o s => s.doPreempt o (cmdTarget c)))

/-- Dispatch stops at the boundary; handed pours due at or after it are withdrawn. -/
def State.takePreempt (s : State) (c at' : Nat) : State :=
  let s := { s with units := s.units.map (fun p : Nat × UnitSt =>
    (p.1, { p.2 with queue := p.2.queue.filter (fun h => h.ctx ≠ c || h.due < at') })) }
  s.setCtx c (fun x => { x with preemptTaken := true })

/-- PREEMPT_TAKE_EFFECT. -/
def execPreemptTakeEffect (t ctx : Nat) (s : State) : Host.Outcome State Fault Refusal :=
  let s := s.advance t
  let x := s.ctx ctx
  match x.preempt with
  | none => .next s
  | some b => if x.preemptTaken || s.ft < x.boundaryFt b then .next s else .next (s.takePreempt ctx (x.boundaryFt b))

/-- PREEMPT_COMPLETE: the launched pours have ended, and so have those due before the boundary. -/
def execPreemptComplete (t ctx : Nat) (s : State) : Host.Outcome State Fault Refusal :=
  let s := s.advance t
  let x := s.ctx ctx
  match x.preempt with
  | none => .next s
  | some b =>
    if !x.preemptTaken || x.st ≠ .running || !s.quiet ctx || s.units.any (fun u => u.2.queue.any (fun h => h.ctx = ctx)) then .next s
    else
      let o := s.outOf ctx 0x12
      let s := (s.loaded ctx).setCtx ctx (fun x => { x with heat := b.1, resume := some b.2, handed := [] })
      match o with
      | some o => .next (s.complete o stOk b.1 b.2)
      | none => .next s

/-- PREEMPT with RESUME. -/
def State.doResume (s : State) (o : OutCmd) (c ftStart : Nat) : State :=
  let x := s.ctx c
  match x.resume with
  | none => s.complete o stBadState 0 0
  | some off =>
    if x.st ≠ .loaded || x.fabric || x.commit.isSome then s.complete o stBadState 0 0
    else if ftStart % 1024 ≠ 0 || ftStart < s.ft + 20480 then s.complete o stBadParam 0 0
    else if s.namesDisabled c then s.complete o stNoResource 0 0
    else
      let s := s.setCtx c (fun x => { x with st := .armed, armFt := ftStart, skipBelow := off, handed := [] })
      (s.wakeDies c).complete o stOk 0 0

def execPreemptResume (t : Nat) (c : Cmd) (ftStart : Nat) (s : State) : Host.Outcome State Fault Refusal :=
  .next ((s.advance t).command c 0x12 (fun o s => s.doResume o (cmdTarget c) ftStart))

/-! Disabling units (R378, R379). -/

/-- The unit ids that DISABLE_UNIT accepts. -/
def canDisable (u : Nat) : Bool :=
  unitExists u && (unitCls u == clsME || unitCls u == clsVE || unitCls u == clsUU || unitCls u == clsLADD || isMover u)

def State.doDisable (s : State) (o : OutCmd) (u timeout : Nat) : State :=
  if !canDisable u || timeout < 1000 || timeout > 100000000 then s.complete o stBadParam 0 0
  else if (s.unit u).disabled || (s.unit u).drainBy.isSome then s.complete o stBadState 0 0
  else
    (s.setUnit u (fun x => { x with drainBy := some (s.ft + timeout), aborted := 0, refused := 0 })).amend o { o with a := u }

def execDisableUnit (t : Nat) (c : Cmd) (unit timeout : Nat) (s : State) : Host.Outcome State Fault Refusal :=
  .next ((s.advance t).command c 0x0D (fun o s => s.doDisable o unit timeout))

/-- The pour that runs on a unit is aborted: an update unit at its interruption point, a tile move with what has landed. -/
def State.abortRunning (s : State) (u code : Nat) : State :=
  match s.runningOn u with
  | none => s
  | some r =>
    match r.prog with
    | .sweeping _ => ((s.stopSweep u).failPour u code 0 0).endRequests u
    | _ => ((s.payProduct u false).failPour u code 0 0).endRequests u

/-- Pours handed to a unit and not launched end with ABORTED_DISABLE. -/
def State.abortQueue (u : Nat) : List Held → State → State
  | [], s => s
  | h :: rest, s =>
    State.abortQueue u rest
      ((s.setUnit u (fun x => { x with queue := x.queue.erase h })).faultCtx h.ctx stAbortedDisable u 0 0 h.pour.offset)

/-- DISABLE_TIMEOUT. -/
def execDisableTimeout (t unit : Nat) (s : State) : Host.Outcome State Fault Refusal :=
  let s := s.advance t
  match (s.unit unit).drainBy with
  | none => .next s
  | some d =>
    if s.ft < d then .next s
    else
      let x := s.unit unit
      let live : Bool := match x.running with | some r => decide (r.prog ≠ .ended) | none => false
      let n := x.queue.length + b2n live
      let s := if live then s.abortRunning unit stAbortedDisable else s
      let s := State.abortQueue unit x.queue s
      let s := if unitCls unit = clsME then s.setEng (engineOf unit) (fun y => { y with tiles := [] }) else s
      let s := s.setUnit unit (fun x => { x with disabled := true, drainBy := none, aborted := n })
      let s := s.setDie (unitDie unit) (fun p => { p with drainEnd := s.ft })
      match (s.ring 16).out.find? (fun o => o.op = 0x0D && o.a == unit) with
      | some o => .next (s.complete o stOk (n + 2 ^ 32 * (s.unit unit).refused) 0)
      | none => .next s

/-- ENABLE_UNIT (R379); a reserved unit id ends it with BAD_PARAM (R31). -/
def State.doEnable (s : State) (o : OutCmd) (u : Nat) : State :=
  if !unitExists u then s.complete o stBadParam 0 0
  else if !(s.unit u).disabled then s.complete o stBadState 0 0
  else
    let s := s.setUnit u (fun x => { x with disabled := false })
    let s := if unitCls u = clsME then s.setEng (engineOf u) (fun y => { y with tiles := [] }) else s
    s.complete o stOk 0 0

def execEnableUnit (t : Nat) (c : Cmd) (unit : Nat) (s : State) : Host.Outcome State Fault Refusal :=
  .next ((s.advance t).command c 0x0E (fun o s => s.doEnable o unit))

end Sys2Proof.Machine
end

