-- ==== Sys2Proof/Machine/Crypto.lean ====
section
/-!
DEFINITION. The signatures and the key derivation of chapter 16: RSASSA-PSS (RFC 8017), SLH-DSA-SHA2-192s (FIPS 205), HMAC-SHA384 and
HMAC_DRBG (NIST SP 800-90A), as R436 and R444 name them with their parameters. The standards are outside the spec: log 102.
-/
namespace Sys2Proof.Machine

/-! RSASSA-PSS: SHA-384, MGF1 with SHA-384, a salt of 48 bytes, the exponent 65,537 (R436). -/

/-- Bytes XOR bytes. -/
def xorBytes (a b : List Byte) : List Byte := (a.zip b).map (fun p => p.1 ^^^ p.2)

/-- MGF1 over a hash of `size` bytes: the first `n` bytes. -/
def mgf1 (hash : List Byte → List Byte) (size : Nat) (seed : List Byte) (n : Nat) : List Byte :=
  ((List.range (ceilDiv n size)).flatMap (fun i => hash (seed ++ beBytes 4 i))).take n

/-- `b` to the power `e` modulo `n`, by the `bits` low bits of `e`. -/
def powMod (n : Nat) : Nat → Nat → Nat → Nat
  | 0, _, _ => 1 % n
  | bits + 1, b, e =>
    let half := powMod n bits (b * b % n) (e / 2)
    if e % 2 = 1 then half * b % n else half

/-- The bits of a number. -/
def bitLength (n : Nat) : Nat := if n = 0 then 0 else Nat.log2 n + 1

/-- DB with the top bits, which the modulus has no room for, cleared. -/
def clearTop (bits : Nat) : List Byte → List Byte
  | [] => []
  | b :: rest => (b &&& BitVec.ofNat 8 (0xFF >>> bits)) :: rest

/-- EMSA-PSS: the encoded message of `emBits` bits from a salt. -/
def pssEncode (msg salt : List Byte) (emBits : Nat) : List Byte :=
  let emLen := ceilDiv emBits 8
  let h := sha384 (List.replicate 8 0#8 ++ sha384 msg ++ salt)
  let db := List.replicate (emLen - salt.length - 48 - 2) 0#8 ++ [0x01#8] ++ salt
  clearTop (8 * emLen - emBits) (xorBytes db (mgf1 sha384 48 h (emLen - 49))) ++ h ++ [0xBC#8]

/-- EMSA-PSS verification of an encoded message. -/
def pssCheck (msg em : List Byte) (emBits : Nat) : Bool :=
  let emLen := ceilDiv emBits 8
  let spare := 8 * emLen - emBits
  let masked := em.take (emLen - 49)
  let h := (em.drop (emLen - 49)).take 48
  let db := clearTop spare (xorBytes masked (mgf1 sha384 48 h (emLen - 49)))
  let salt := db.drop (db.length - 48)
  98 ≤ emLen && em.length == emLen && em.getLast? == some 0xBC#8 && clearTop spare masked == masked &&
  db.take (emLen - 98) == List.replicate (emLen - 98) 0#8 && db.getD (emLen - 98) 0#8 == 0x01#8 &&
  h == sha384 (List.replicate 8 0#8 ++ sha384 msg ++ salt)

/-- RSASSA-PSS verification with the exponent 65,537: modulus, message and signature as byte strings. -/
def pssVerify (modulus msg sig : List Byte) : Bool :=
  let n := beNat modulus
  let s := beNat sig
  let emBits := bitLength n - 1
  let m := powMod n 17 s 65537
  sig.length == ceilDiv (bitLength n) 8 && decide (s < n) && decide (m < 2 ^ (8 * ceilDiv emBits 8)) &&
  pssCheck msg (beBytes (ceilDiv emBits 8) m) emBits

/-- RSASSA-PSS signature with a private exponent and a salt. -/
def pssSign (n d : Nat) (msg salt : List Byte) : List Byte :=
  beBytes (ceilDiv (bitLength n) 8) (powMod n (bitLength d) (beNat (pssEncode msg salt (bitLength n - 1))) d)

/-! SLH-DSA-SHA2-192s (FIPS 205): n = 24, h = 63 in d = 7 layers of 9, a = 14, k = 17, w = 16 with 51 chains, m = 39. -/

/-- An address: layer, tree, type, key pair, and the two words whose meaning the type gives. -/
structure Adrs where
  layer : Nat := 0
  tree : Nat := 0
  typ : Nat := 0
  pair : Nat := 0
  a : Nat := 0
  b : Nat := 0
  deriving DecidableEq, Repr

/-- The compressed address, 22 bytes. -/
def Adrs.bytes (x : Adrs) : List Byte :=
  beBytes 1 x.layer ++ beBytes 8 x.tree ++ beBytes 1 x.typ ++ beBytes 4 x.pair ++ beBytes 4 x.a ++ beBytes 4 x.b

/-- F and PRF: a hash of 24 bytes of one value. -/
def slhF (seed : List Byte) (x : Adrs) (m : List Byte) : List Byte := (sha256 (seed ++ List.replicate 40 0#8 ++ x.bytes ++ m)).take 24

/-- H and T: a hash of 24 bytes of several values. -/
def slhT (seed : List Byte) (x : Adrs) (m : List Byte) : List Byte := (sha512 (seed ++ List.replicate 104 0#8 ++ x.bytes ++ m)).take 24

/-- The message digest of 39 bytes. -/
def slhDigest (r seed root m : List Byte) : List Byte := mgf1 sha512 64 (r ++ seed ++ sha512 (r ++ seed ++ root ++ m)) 39

/-- The first `n` groups of `b` bits of a byte string, from the most significant on. -/
def base2b (bs : List Byte) (b n : Nat) : List Nat :=
  let v := beNat bs
  (List.range n).map (fun i => v >>> (8 * bs.length - b * (i + 1)) % 2 ^ b)

/-- The chain function of WOTS+: `s` steps from step `i`. -/
def slhChain (seed : List Byte) (x : Adrs) : Nat → Nat → List Byte → List Byte
  | 0, _, m => m
  | s + 1, i, m => slhChain seed x s (i + 1) (slhF seed { x with b := i } m)

/-- The 51 chain positions of a 24-byte message: its 48 nibbles and the checksum. -/
def wotsDigits (m : List Byte) : List Nat :=
  let d := base2b m 4 48
  let csum := d.foldl (fun a x => a + (15 - x)) 0
  d ++ base2b (beBytes 2 (16 * csum)) 4 3

/-- The 24-byte parts of a byte string. -/
def parts24 (n : Nat) (bs : List Byte) : List (List Byte) := pieces 24 n bs

/-- The compressed public key of the ends of 51 chains; `x` names layer, tree and key pair. -/
def wotsRoot (seed : List Byte) (x : Adrs) (ends : List (List Byte)) : List Byte := slhT seed { x with typ := 1, a := 0, b := 0 } ends.flatten

/-- A WOTS+ public key from a signature. -/
def wotsFromSig (seed : List Byte) (x : Adrs) (sig m : List Byte) : List Byte :=
  wotsRoot seed x (((parts24 51 sig).zip ((wotsDigits m).zip (List.range 51))).map (fun (s, v, i) =>
    slhChain seed { x with typ := 0, a := i } (15 - v) v s))

/-- A root from a leaf's node, its index and its authentication path; `x` holds type, layer and key pair. The first node is at height `h`. -/
def slhClimb (seed : List Byte) (x : Adrs) : Nat → Nat → List Byte → List (List Byte) → List Byte
  | _, _, node, [] => node
  | h, i, node, p :: rest =>
    slhClimb seed x (h + 1) (i / 2) (slhT seed { x with a := h + 1, b := i / 2 } (if i % 2 = 0 then node ++ p else p ++ node)) rest

/-- An XMSS root from a signature at leaf `i`. -/
def xmssFromSig (seed : List Byte) (layer tree i : Nat) (sig m : List Byte) : List Byte :=
  slhClimb seed { layer := layer, tree := tree, typ := 2 } 0 i
    (wotsFromSig seed { layer := layer, tree := tree, pair := i } (sig.take 1224) m) (parts24 9 (sig.drop 1224))

/-- The root of the hypertree from a signature, layer by layer. -/
def htFromSig (seed : List Byte) : Nat → Nat → Nat → Nat → List Byte → List Byte → List Byte
  | 0, _, _, _, _, m => m
  | n + 1, layer, tree, i, sig, m =>
    htFromSig seed n (layer + 1) (tree / 512) (tree % 512) (sig.drop 1440) (xmssFromSig seed layer tree i sig m)

/-- The FORS public key from a signature. -/
def forsFromSig (seed : List Byte) (tree pair : Nat) (md sig : List Byte) : List Byte :=
  let roots := (((base2b md 14 17).zip (pieces 360 17 sig)).zip (List.range 17)).map (fun ((v, s), i) =>
    let x : Adrs := { tree := tree, typ := 3, pair := pair }
    let leaf := i * 16384 + v
    slhClimb seed x 0 leaf (slhF seed { x with b := leaf } (s.take 24)) (parts24 14 (s.drop 24)))
  slhT seed { tree := tree, typ := 4, pair := pair } roots.flatten

/-- The tree and the leaf that a digest names. -/
def slhPlace (digest : List Byte) : Nat × Nat := (beNat ((digest.drop 30).take 7) % 2 ^ 54, beNat ((digest.drop 37).take 2) % 2 ^ 9)

/-- The message that is signed in pure mode with an empty context string. -/
def slhPure (m : List Byte) : List Byte := [0#8, 0#8] ++ m

/-- SLH-DSA-SHA2-192s verification: public key of 48 bytes, message, signature of 16,224 bytes. -/
def slhVerify (pk msg sig : List Byte) : Bool :=
  let seed := pk.take 24
  let root := pk.drop 24
  let digest := slhDigest (sig.take 24) seed root (slhPure msg)
  let (tree, leaf) := slhPlace digest
  let fors := forsFromSig seed tree leaf (digest.take 30) ((sig.drop 24).take 6120)
  pk.length == 48 && sig.length == 16224 && htFromSig seed 7 0 tree leaf (sig.drop 6144) fors == root

/-! SLH-DSA keys and signatures (R444, R446). -/

/-- The secret of a WOTS+ chain or a FORS leaf; `x` names it, its type the one of its secrets. -/
def slhSecret (seed sk : List Byte) (x : Adrs) : List Byte := slhF seed x sk

/-- A WOTS+ public key. -/
def wotsKey (seed sk : List Byte) (x : Adrs) : List Byte :=
  wotsRoot seed x ((List.range 51).map (fun i =>
    slhChain seed { x with typ := 0, a := i } 15 0 (slhSecret seed sk { x with typ := 5, a := i })))

/-- The node at height `h` and position `i` of a tree with these leaves; `x` holds type, layer and key pair. -/
def slhNode (seed : List Byte) (x : Adrs) (leaf : Nat → List Byte) : Nat → Nat → List Byte
  | 0, i => leaf i
  | h + 1, i => slhT seed { x with a := h + 1, b := i } (slhNode seed x leaf h (2 * i) ++ slhNode seed x leaf h (2 * i + 1))

/-- The authentication path of leaf `i` over `n` heights. -/
def slhPath (seed : List Byte) (x : Adrs) (leaf : Nat → List Byte) (n i : Nat) : List (List Byte) :=
  (List.range n).map (fun h => let p := i / 2 ^ h; slhNode seed x leaf h (if p % 2 = 0 then p + 1 else p - 1))

/-- The leaves of an XMSS tree. -/
def xmssLeaf (seed sk : List Byte) (layer tree i : Nat) : List Byte := wotsKey seed sk { layer := layer, tree := tree, pair := i }

/-- An XMSS root. -/
def xmssRoot (seed sk : List Byte) (layer tree : Nat) : List Byte :=
  slhNode seed { layer := layer, tree := tree, typ := 2 } (xmssLeaf seed sk layer tree) 9 0

/-- An XMSS signature at leaf `i`. -/
def xmssSign (seed sk : List Byte) (layer tree i : Nat) (m : List Byte) : List Byte :=
  let x : Adrs := { layer := layer, tree := tree, pair := i }
  (((wotsDigits m).zip (List.range 51)).flatMap (fun (v, j) =>
    slhChain seed { x with typ := 0, a := j } v 0 (slhSecret seed sk { x with typ := 5, a := j }))) ++
  (slhPath seed { layer := layer, tree := tree, typ := 2 } (xmssLeaf seed sk layer tree) 9 i).flatten

/-- A hypertree signature, layer by layer. -/
def htSign (seed sk : List Byte) : Nat → Nat → Nat → Nat → List Byte → List Byte
  | 0, _, _, _, _ => []
  | n + 1, layer, tree, i, m => xmssSign seed sk layer tree i m ++ htSign seed sk n (layer + 1) (tree / 512) (tree % 512) (xmssRoot seed sk layer tree)

/-- The FORS leaves. -/
def forsLeaf (seed sk : List Byte) (tree pair i : Nat) : List Byte :=
  slhF seed { tree := tree, typ := 3, pair := pair, b := i } (slhSecret seed sk { tree := tree, typ := 6, pair := pair, b := i })

/-- A FORS signature. -/
def forsSign (seed sk : List Byte) (tree pair : Nat) (md : List Byte) : List Byte :=
  ((base2b md 14 17).zip (List.range 17)).flatMap (fun (v, i) =>
    let leaf := i * 16384 + v
    slhSecret seed sk { tree := tree, typ := 6, pair := pair, b := leaf } ++
    (slhPath seed { tree := tree, typ := 3, pair := pair } (forsLeaf seed sk tree pair) 14 leaf).flatten)

/-- An SLH-DSA key: SK.seed, SK.prf and PK.seed (R444). -/
structure SlhKey where
  sk : List Byte
  prf : List Byte
  seed : List Byte
  deriving DecidableEq, Repr

/-- PK.root of a key. -/
def SlhKey.root (k : SlhKey) : List Byte := xmssRoot k.seed k.sk 6 0

/-! HMAC-SHA384 and HMAC_DRBG (R444). -/

/-- HMAC-SHA384. -/
def hmac384 (key msg : List Byte) : List Byte :=
  let k := if key.length > 128 then sha384 key else key
  let k := k ++ List.replicate (128 - k.length) 0#8
  sha384 (k.map (· ^^^ 0x5C#8) ++ sha384 (k.map (· ^^^ 0x36#8) ++ msg))

/-- HMAC with SHA-512, which the signature randomiser of FIPS 205 uses. -/
def hmac512 (key msg : List Byte) : List Byte :=
  let k := key ++ List.replicate (128 - key.length) 0#8
  sha512 (k.map (· ^^^ 0x5C#8) ++ sha512 (k.map (· ^^^ 0x36#8) ++ msg))

/-- An HMAC_DRBG: Key and V. -/
structure Drbg where
  key : List Byte
  v : List Byte
  deriving DecidableEq, Repr

/-- The update function. -/
def Drbg.update (g : Drbg) (data : List Byte) : Drbg :=
  let k := hmac384 g.key (g.v ++ [0#8] ++ data)
  let v := hmac384 k g.v
  if data.isEmpty then ⟨k, v⟩
  else
    let k := hmac384 k (v ++ [1#8] ++ data)
    ⟨k, hmac384 k v⟩

/-- A generator from a 48-byte seed and a personalisation string (R444): bytes 0 to 31 are entropy, bytes 32 to 47 the nonce. -/
def Drbg.from (seed pers : List Byte) : Drbg := (Drbg.mk (List.replicate 48 0#8) (List.replicate 48 1#8)).update (seed.take 48 ++ pers)

/-- The blocks of a request, and V after them. -/
def drbgBlocks (key : List Byte) : Nat → List Byte → List Byte × List Byte
  | 0, v => ([], v)
  | n + 1, v =>
    let v := hmac384 key v
    let (bs, w) := drbgBlocks key n v
    (v ++ bs, w)

/-- A request to a generator for `n` bytes. -/
def Drbg.request (g : Drbg) (n : Nat) : List Byte × Drbg :=
  let (bs, v) := drbgBlocks g.key (ceilDiv n 48) g.v
  (bs.take n, { g with v := v }.update [])

/-- The bytes of an ASCII string. -/
def ascii (s : String) : List Byte := s.toList.map (fun c => BitVec.ofNat 8 c.toNat)

/-- A probable prime of 1,536 bits for an RSA key, with the public exponent 65,537 (FIPS 186-5, A.1.3): candidates in order, of which those too
small, those whose predecessor the exponent divides and those that are not prime fail; `other` is the prime that it must differ from by more
than 2 to the power 1,436. The test takes no composite for a prime. `i` counts the candidates. -/
def rsaPrime (other : Option Nat) : Nat → Nat → Drbg → Option (Nat × Nat × Drbg)
  | 0, _, _ => none
  | k + 1, i, g =>
    let (bs, g) := g.request 192
    let p := beNat bs / 2 * 2 + 1
    let near : Bool := match other with | some q => decide (max p q - min p q ≤ 2 ^ 1436) | none => false
    if near || p * p < 2 ^ 3071 || (p - 1) % 65537 = 0 then rsaPrime other k (i + 1) g
    else
      let g := (g.request (Config.testDraws i)).2
      if Nat.Prime p then some (p, i + 1, g) else rsaPrime other k (i + 1) g

/-- The private exponent: the inverse of 65,537 modulo `m`. -/
def rsaInverse (m : Nat) : Nat := match (List.range 65537).find? (fun k => (1 + k * m) % 65537 == 0) with | some k => (1 + k * m) / 65537 | none => 0

/-- The RSA-3072 key of a seed (R444): modulus and private exponent. A generation that fails gives 0 and 0. -/
def rsaKeyOf (seed : List Byte) : Nat × Nat :=
  match rsaPrime none 15360 0 (Drbg.from seed (ascii "RSA-3072")) with
  | none => (0, 0)
  | some (p, i, g) =>
    match rsaPrime (some p) 15360 i g with
    | none => (0, 0)
    | some (q, _, _) => (p * q, rsaInverse (Nat.lcm (p - 1) (q - 1)))

/-- The SLH-DSA key of a seed (R444). -/
def slhKeyOf (seed : List Byte) : SlhKey :=
  let b := ((Drbg.from seed (ascii "SLH-DSA-SHA2-192s")).request 72).1
  ⟨b.take 24, (b.drop 24).take 24, b.drop 48⟩

/-- An SLH-DSA signature of a message; `rand` is the randomiser's additional input. -/
def slhSign (k : SlhKey) (rand msg : List Byte) : List Byte :=
  let m := slhPure msg
  let r := (hmac512 k.prf (rand ++ m)).take 24
  let digest := slhDigest r k.seed k.root m
  let (tree, leaf) := slhPlace digest
  let fors := forsSign k.seed k.sk tree leaf (digest.take 30)
  r ++ fors ++ htSign k.seed k.sk 7 0 tree leaf (forsFromSig k.seed tree leaf (digest.take 30) fors)

end Sys2Proof.Machine
end

