-- ==== Sys2Proof/Machine/Boot.lean ====
section
/-!
DEFINITION. Reset, boot and the host-complex restart (chapter 16, R407, R425, R427 to R443, R449): package reset, the conditions of
boot, the stages, BOOT_HOLD, the checks of an image, thermal trips, and the rows POWER_ON to TRIP_HOLDOFF_END. The operand `t` of a
boot or pin row is an AON time; that of SENSOR_SAMPLE is FT (log 3).
-/
namespace Sys2Proof.Machine

/-! Package reset (R428). -/

/-- First package-local byte of banks 12 to 15 of D0, and of the image in flash (R435, R441). -/
def stageBase : Nat := 0x80030000000
def imageFlash : Nat := 0x10000

/-- Bytes of the board flash. -/
def State.flashBytes (s : State) (a n : Nat) : List Byte := (countFrom a n).map (Sparse.at? 0#8 s.flash)

/-- Program the first `n` bytes of the staged image: the 64 KiB sectors of `len` bytes are erased first (R435, R441). -/
def State.program (s : State) (n len : Nat) : State :=
  let sectors := 0x10000 * ceilDiv len 0x10000
  let put (m : Sparse Byte) (i : Nat) : Sparse Byte :=
    Sparse.put 0#8 m (imageFlash + i) (if i < n then s.peek (stageBase + i) else 0xFF#8)
  { s with flash := (List.range sectors).foldl put s.flash }

/-- A package reset during programming leaves a partial image (R442): how much of it was programmed is open. -/
def State.cutProgram (s : State) : State :=
  if s.sec.img ≠ .programming then s
  else
    let len := s.reg .SEC_IMAGE_LEN 0 0
    let (n, s) := s.free (max len 1)
    s.program n len

/-- The minimum SVN and the revoked slots as the burn of R438 makes them. -/
def State.burnt (s : State) : Nat × Nat :=
  let m := s.boot.manifest
  let used := [s.boot.rsaSlot, 4 + s.boot.slhSlot]
  (if bitOf (fieldAt m 12 4) 0 then max s.svnMin s.boot.svn else s.svnMin,
   bitsAt ((List.range 8).filter (fun i => bitOf s.revoked i || (bitOf (fieldAt m 30 1) i && !used.contains i))))

/-- The minimum SVN and the revoked slots as the fuses give them now. A burn in progress shows the old ones until it has ended (log 103). -/
def State.fuses (s : State) : Nat × Nat :=
  match s.boot.burnEnd with
  | some e => if e ≤ s.aon then s.burnt else (s.svnMin, s.revoked)
  | none => (s.svnMin, s.revoked)

/-- A package reset ends a burn that is in progress: it leaves a minimum between the old one and SVN, and some of the bits (R438). -/
def State.endBurn (s : State) : State :=
  match s.boot.burnEnd with
  | none => s
  | some e =>
    let (lo, rv) := s.burnt
    if e ≤ s.aon then { s with svnMin := lo, revoked := rv }
    else
      let (n, s) := s.free (lo - s.svnMin + 1)
      let (m, s) := s.free 256
      { s with svnMin := s.svnMin + n, revoked := bitsAt ((List.range 8).filter (fun i => bitOf s.revoked i || (bitOf rv i && bitOf m i))) }

/-- A package reset starts: every unit is in reset and tier 0 and tier 1 are lost. What the spec keeps is the AON time, the flash, the
fuses, PWR_TRIP and the pins. -/
def State.packageReset (s : State) (trip : Nat) : State :=
  let s := s.cutProgram.endBurn
  let p := s.pins
  let r : State := { State.reset with
    pending := s.pending, aon := s.aon, flash := s.flash, svnMin := s.svnMin, revoked := s.revoked, freeCount := s.freeCount
    pins := { p with
      resetAt := s.aon, ftHeld := true, tripped := false
      railsAt := if p.tripped && p.tripUntil.isNone then s.aon else p.railsAt } }
  r.setReg .PWR_TRIP 0 0 trip

def State.trip (s : State) : Nat := s.reg .PWR_TRIP 0 0

/-- POWER_ON: every register, PWR_TRIP too, at its reset value; PKG_RESET_N is asserted while the supply rises. -/
def execPowerOn (t railsAt refclkAt : Nat) (s : State) : Host.Outcome State Fault Refusal :=
  let s := (s.advanceAon t).packageReset 0
  .next { s with pins := { s.pins with
    powered := true, pkgReset := true, tripped := false, tripUntil := none, railsAt := railsAt, refclk := true, refclkAt := refclkAt } }

/-- The package answers its pins: it has its input supply and VIOREF (R401, R472). -/
def State.pinsLive (s : State) : Bool := s.pins.powered && s.pins.vioOk

/-- PKG_RESET_N_ASSERT (R427): `width` is the length of the pulse. Below 200 ns it is ignored; from 200 ns to 1,000 ns it is a pulse
that the board must not drive, with no stated effect. -/
def execPkgResetNAssert (t width : Nat) (s : State) : Host.Outcome State Fault Refusal :=
  let s := s.advanceAon t
  if !s.pinsLive || width < 200 then .next s
  else if width < 1000 then .fault .forbiddenPulse
  else
    let s := s.packageReset s.trip
    .next { s with pins := { s.pins with pkgReset := true } }

/-- PKG_RESET_N_DEASSERT (R42, R427, R449): FT starts from 0; DBG_REQ_N and the MGMT_ADDR straps are sampled. -/
def execPkgResetNDeassert (t : Nat) (dbgReq : Bool) (straps : Nat) (s : State) : Host.Outcome State Fault Refusal :=
  let s := s.advanceAon t
  if !s.pinsLive || !s.pins.pkgReset then .next s
  else
    .next ({ s with
      ft := 0
      boot := { s.boot with dbgReq := dbgReq }
      pins := { s.pins with pkgReset := false, straps := straps % 4, deassertAt := s.aon, ftHeld := false } }.setReg .DIE_STATUS 0 0 1)

/-- REFCLK_LOSS (R407): REFCLK has stopped for `stopped` ns, or a PLL other than a lane PLL has lost lock. -/
def execRefclkLoss (t stopped : Nat) (pllLost : Bool) (s : State) : Host.Outcome State Fault Refusal :=
  let s := s.advanceAon t
  if !s.pins.powered || !(stopped > 1000 || pllLost) then .next s
  else
    let s := s.packageReset 2
    .next { s with pins := { s.pins with refclk := s.pins.refclk && !(stopped > 1000) } }

/-- REFCLK_RESTORED: REFCLK is present again. -/
def execRefclkRestored (t : Nat) (s : State) : Host.Outcome State Fault Refusal :=
  let s := s.advanceAon t
  if s.pins.refclk then .next s else .next { s with pins := { s.pins with refclk := true, refclkAt := s.aon } }

/-- INPUT_OUT_OF_RANGE (R401): as at a loss of power; only POWER_ON brings the package back. -/
def execInputOutOfRange (t millivolts lasting : Nat) (s : State) : Host.Outcome State Fault Refusal :=
  let s := s.advanceAon t
  if (32000 ≤ millivolts && millivolts ≤ 40000) || lasting ≤ 10000 then .next s
  else
    let s := s.packageReset 0
    .next { s with pins := { s.pins with powered := false, pkgReset := true, tripUntil := none, ftHeld := true } }

/-- TRST_N_ASSERT: resets the test access port only. -/
def execTrstNAssert (t : Nat) (s : State) : Host.Outcome State Fault Refusal :=
  let s := s.advanceAon t
  if s.pinsLive then .next { s with sec := { s.sec with tapReset := true } } else .next s

/-- VIOREF_LOW and VIOREF_RESTORED (R472): while VIOREF is low the management lands neither drive nor sample. -/
def execViorefLow (t : Nat) (s : State) : Host.Outcome State Fault Refusal :=
  let s := s.advanceAon t
  .next { s with pins := { s.pins with vioOk := false } }

def execViorefRestored (t : Nat) (s : State) : Host.Outcome State Fault Refusal :=
  let s := s.advanceAon t
  .next { s with pins := { s.pins with vioOk := true } }

/-! What the output lands give (R413, R425, R427, R472). -/

/-- A level of an output land. -/
inductive Level where
  | low | high | highZ
  deriving DecidableEq, Repr

/-- An output of the management group: high impedance without VIN or VIOREF. -/
def State.drives (s : State) (high : Bool) : Level := if !s.pinsLive then .highZ else if high then .high else .low

/-- BOOT_DONE: high from the end of stage 9 to the next package reset, in a hold from stage 0x0A too. -/
def State.bootDonePin (s : State) : Level :=
  s.drives (!s.pins.pkgReset && (s.boot.st == .done || (s.boot.st == .hold && s.boot.stage == 0x0A)))

/-- BOOT_HOLD_N: low in BOOT_HOLD, and while PKG_RESET_N is asserted. -/
def State.bootHoldPin (s : State) : Level := s.drives (!s.pins.pkgReset && s.boot.st != .hold)

/-- THERMTRIP_N: asserted from a trip to the package reset that leaves it. -/
def State.thermtripPin (s : State) : Level := s.drives (!s.pins.tripped)

/-- PWR_ALERT_N: asserted while the backstop level of some die is above 0. -/
def State.pwrAlertPin (s : State) : Level := s.drives (!dies.any (fun d => decide (0 < (s.die d).level)))

/-! The start of boot, BOOT_HOLD, and the limits of the stages (R428, R430). -/

/-- AON time at which the last condition of R428 came to hold. -/
def State.bootStart (s : State) : Nat :=
  let p := s.pins
  max (max p.resetAt p.deassertAt) (max (p.railsAt + 1000000) (p.refclkAt + 10000000))

/-- Every condition of R428 holds, and the hold-off of R425 is over. -/
def State.bootReady (s : State) : Bool :=
  let p := s.pins
  p.powered && !p.pkgReset && p.refclk && !p.tripped && p.tripUntil.isNone && s.bootStart ≤ s.aon

/-- Boot begins at stage 0x01 when its conditions hold; after a package reset that PKG_RESET_N did not make, FT starts here. -/
def State.bootBegins (s : State) : State :=
  if s.boot.st ≠ .reset || !s.bootReady then s
  else
    let at' := s.bootStart
    let s := { s with
      ft := if s.pins.ftHeld then s.aon - at' else s.ft
      pins := { s.pins with ftHeld := false }
      boot := { s.boot with st := .booting, stage := 1, busy := true, started := at', stageStart := at' } }
    s.setReg .DIE_STATUS 0 0 1

/-- The status of a boot cause. -/
def causeStatus : Nat → Nat
  | 0x02 => stMemUncorrectable | 0x07 => stBadParam | 0x08 => stBadParam | 0x09 => stSigInvalid | 0x0A => stSigInvalid
  | 0x0B => stSigInvalid | 0x0C => stSigInvalid | 0x0D => stBadParam | 0x0E => stSigInvalid | 0x0F => stBridgeDegraded
  | 0x10 => stMemUncorrectable | _ => stBadState

/-- BOOT_HOLD is entered at AON time `at'` (R430, R439): compute dies and cores are held in reset. -/
def State.hold (s : State) (cause die at' : Nat) : State :=
  let s := dies.foldl State.loseComputeDie s
  let s := s.setHcx (fun h => { h with running := false })
  { s with boot := { s.boot with
    st := .hold, busy := false, cause := cause, status := causeStatus cause, die := die, time := at' - s.boot.started } }

/-- Bytes of a manifest's field, of the image's length and of its loader: offset and length (R436). -/
def manField (m : List Byte) (off n : Nat) : Nat := fieldAt m off n
def imageLen (m : List Byte) : Nat := manField m 16 8
def manSections (m : List Byte) : List (List Byte) := (pieces 64 32 (m.drop 1024)).take (manField m 24 4)
def loaderSection (m : List Byte) : Option (List Byte) := (manSections m).find? (fun e => fieldAt e 0 1 = 4)
def sectionSpan (e : List Byte) : Nat × Nat := (fieldAt e 4 4, fieldAt e 8 4)

def State.loaderSpan (s : State) : Nat × Nat := match loaderSection s.boot.manifest with | some e => sectionSpan e | none => (0, 0)

/-- The limit of a stage in ns from its start; 25 MB/s is 40 ns a byte, 2 GB/s half a nanosecond. -/
def State.stageLimit (s : State) : Nat :=
  match s.boot.stage with
  | 0x01 => 2000000
  | 0x02 => 150000000
  | 0x03 => 10000000 + 40 * (4096 + min (imageLen (s.flashBytes imageFlash 4096)) 67108864)
  | 0x04 => 20000000 + ceilDiv (imageLen s.boot.manifest) 2
  | 0x05 => 6000000 + 160000000
  | 0x06 => 20000000
  | 0x07 => 250000000
  | 0x08 => 100000000
  | 0x09 => 50000000
  | _ => 10000000 + 40 * s.loaderSpan.2

/-- The stage in progress has exceeded its limit. In stage 0x08 the limit bounds the ports alone (R433). -/
def State.stageOver (s : State) : Bool :=
  s.boot.busy && s.boot.dbgSince.isNone && s.boot.stageStart + s.stageLimit < s.aon &&
  (s.boot.stage ≠ 8 || !s.boot.portsLoaded || (List.range 16).any (fun p => s.portMode p ≠ 0 && !(s.port p).trained))

/-- A stage that exceeds its limit fails with one of the causes that the table gives the stage: which of several is open. Stages 0x08 and 0x09
have none in the table: there the cause is open (log 6). -/
def State.stageTimeout (s : State) : State :=
  let at' := s.boot.stageStart + s.stageLimit
  let late := (countFrom 1 7).filter (fun d => !s.boot.passed.contains d)
  match s.boot.stage with
  | 0x01 => s.hold 0x01 0 at'
  | 0x02 => let (c, s) := s.free 3; s.hold (2 + c) 0 at'
  | 0x03 => s.hold 0x06 0 at'
  | 0x04 => let (c, s) := s.free 7; s.hold (8 + c) 0 at'
  | 0x05 => s.hold 0x05 (late.headD 0) at'
  | 0x06 => let (d, s) := s.free 8; s.hold 0x0F d at'
  | 0x07 => let (d, s) := s.free 8; s.hold 0x10 d at'
  | 0x0A => s.hold 0x06 0 at'
  | _ => let (c, s) := s.free 16; s.hold (c + 1) 0 at'

/-- BOOT_STAGE_TIMEOUT. -/
def execBootStageTimeout (t : Nat) (s : State) : Host.Outcome State Fault Refusal :=
  let s := (s.advanceAon t).bootBegins
  if s.stageOver then .next s.stageTimeout else .next s

/-- A row of a stage: nothing while another stage runs or the debug window is open; a stage over its limit fails. -/
def State.atStage (s : State) (t stage : Nat) (body : State → State) : State :=
  let s := (s.advanceAon t).bootBegins
  if s.boot.stage ≠ stage || !s.boot.busy || s.boot.dbgSince.isSome then s
  else if s.stageOver then s.stageTimeout
  else body s

/-- The stage passes and the next one starts. -/
def State.pass (s : State) : State :=
  { s with boot := { s.boot with stage := s.boot.stage + 1, stageStart := s.aon } }

def State.fails (s : State) (cause die : Nat) : State := s.hold cause die s.aon

/-! Stages 0x01 and 0x02. -/

/-- ROM_START: stage 0x01 ends. -/
def execRomStart (t : Nat) (romOk katOk : Bool) (s : State) : Host.Outcome State Fault Refusal :=
  .next (s.atStage t 1 (fun s => if romOk && katOk then s.pass else s.fails 1 0))

/-- Cause and failing unit of a self-test. -/
def testCause : SelfTest → Nat × Nat
  | .pass => (0, noUnit)
  | .sram u => (2, u)
  | .logic u => (3, u)
  | .frazar => (4, noUnit)

/-- The die of a runner queue. -/
def queueDie : QueueId → Nat
  | .tileData e => e / 48 | .tileHeader e => e / 48 | .bridgeRetry die _ _ => die | .portReplay p => p / 2 | .faultQueue die => die | .dataPort => 0

/-- Every word of a queue holds 0. -/
def zeroQueue (q : RunQ) : RunQ :=
  { q with entries := q.entries.map (fun e => { bytes := List.replicate e.bytes.length 0#8, valid := 0, last := false }) }

/-- The end of a die's self-test (R431): its working store, cache, accumulators and queues hold 0; DFT_SELFTEST and DIE_STATUS. -/
def State.testDone (s : State) (d time : Nat) (res : SelfTest) : State :=
  let (cause, u) := testCause res
  let pass : Bool := cause = 0
  let lo := wsBase d
  let hi := lo + 0x40000000
  let s := { s with
    mem := Sparse.dropKeys (fun a => lo ≤ a && a < hi) s.mem
    ecc := Sparse.dropKeys (fun w => lo ≤ w * 8 && w * 8 < hi) s.ecc
    clean := Sparse.dropKeys (fun g => g / 0x40000 = d) s.clean
    hcx := { s.hcx with slc := s.hcx.slc.filter (fun e => s.lineHome e.1 ≠ d) }
    upsets := s.upsets.filter (fun e => match e.1 with | .slc l _ => s.lineHome l ≠ d | _ => true)
    queues := s.queues.map (fun q : QueueId × RunQ => (q.1, if queueDie q.1 = d then zeroQueue q.2 else q.2))
    engs := s.engs.map (fun e : Nat × EngSt => (e.1, if e.1 / 48 = d then { e.2 with tiles := [] } else e.2)) }
  let s := s.setReg .DFT_SELFTEST d 0 (1 + 2 * b2n pass + 2 ^ 8 * cause + 2 ^ 16 * (u % 2 ^ 16) + 2 ^ 32 * (time % 2 ^ 32))
  if pass then s.setReg .DIE_STATUS d 0 (setBits (s.reg .DIE_STATUS d 0) 1 1 1) else s

/-- 32 bytes from the random source (R449). -/
def State.drawChallenge (s : State) : State :=
  let c := (countFrom s.freeCount 32).map Config.random
  { s with freeCount := s.freeCount + 32, boot := { s.boot with challenge := c, dbgSince := some s.aon } }

/-- D0_SELF_TEST: stage 0x02 ends; with a debug request the ROM stops after it and waits (R449). -/
def execD0SelfTest (t : Nat) (res : SelfTest) (s : State) : Host.Outcome State Fault Refusal :=
  .next (s.atStage t 2 (fun s =>
    let s := s.testDone 0 (s.aon - s.boot.stageStart) res
    if (testCause res).1 ≠ 0 then s.fails (testCause res).1 0
    else if s.boot.dbgReq then s.drawChallenge
    else s.pass))

/-! Stage 0x03 (R435). -/

/-- The board configuration block is valid. -/
def configOk (b : List Byte) : Bool :=
  fieldAt b 0 4 == 0x47464342 && fieldAt b 4 2 == 1 && fieldAt b 6 2 < 2 ^ 14 && (List.range 16).all (fun p => fieldAt b (8 + p) 1 < 4) &&
  fieldAt b 58 1 < 4 && fieldAt b 59 1 < 2 && fieldAt b 60 8 % 4 != 3 && (fieldAt b 60 8) &&& 0x1FFFF0003 == fieldAt b 60 8 &&
  fieldAt b 68 8 % 4096 == 0 && isTier1 (fieldAt b 68 8) && zeroAt b 76 4016 && fieldAt b 4092 4 == crc32 (b.take 4092)

/-- The flash answers: its lands belong to the group of VIOREF (R472). -/
def State.flashReads (s : State) (flashOk : Bool) : Bool := flashOk && s.pins.vioOk

/-- FETCH: stage 0x03 ends. -/
def execFetch (t : Nat) (flashOk : Bool) (s : State) : Host.Outcome State Fault Refusal :=
  .next (s.atStage t 3 (fun s =>
    if !s.flashReads flashOk then s.fails 6 0
    else
      let b := s.flashBytes 0 4096
      if !configOk b then s.fails 7 0
      else
        let man := s.flashBytes imageFlash 4096
        let n := max 4096 (min (imageLen man) 67108864)
        let s := (s.save stageBase (s.flashBytes imageFlash n)).1
        let s := s.setReg .PKG_ID 0 0 (fieldAt b 6 2)
        ({ s with boot := { s.boot with config := b, manifest := man } }).pass))

/-! Stage 0x04: the checks of an image (R436, R437). -/

/-- A section entry's own fields. -/
def sectionOk (m e : List Byte) : Bool :=
  let (off, n) := sectionSpan e
  let ty := fieldAt e 0 1
  1 ≤ ty && ty ≤ 5 && zeroAt e 1 3 && zeroAt e 12 4 && off % 4096 == 0 && 0x6000 ≤ off && off + n ≤ imageLen m

/-- Two sections do not overlap. -/
def apart (a b : Nat × Nat) : Bool := a.1 + a.2 ≤ b.1 || b.1 + b.2 ≤ a.1

def allApart : List (Nat × Nat) → Bool
  | [] => true
  | a :: l => l.all (apart a) && allApart l

/-- Check 1: every field of the manifest. -/
def manifestOk (m : List Byte) : Bool :=
  let n := manField m 24 4
  let es := manSections m
  let count (ty : Nat) : Nat := (es.filter (fun e => fieldAt e 0 1 = ty)).length
  fieldAt m 0 4 == 0x57464C5A && fieldAt m 4 2 == 1 && Config.abiLevel ≤ fieldAt m 6 2 &&
  fieldAt m 8 1 ≤ Config.stepping.toNat && Config.stepping.toNat ≤ fieldAt m 9 1 && fieldAt m 10 2 ≤ 63 && fieldAt m 12 4 < 2 &&
  32768 ≤ imageLen m && imageLen m ≤ 67108864 && imageLen m % 4096 == 0 && 4 ≤ n && n ≤ 32 && fieldAt m 28 1 < 4 && fieldAt m 29 1 < 4 &&
  zeroAt m 31 49 && zeroAt m 512 512 && zeroAt m (1024 + 64 * n) (2048 - 64 * n) && zeroAt m 3072 1024 &&
  es.all (sectionOk m) && [1, 2, 3, 4].all (fun ty => count ty == 1) && allApart (es.map sectionSpan)

/-- Check 2: both keys match their fused slots, neither revoked. -/
def State.keysOk (s : State) (m : List Byte) : Bool :=
  let r := fieldAt m 28 1
  let l := fieldAt m 29 1
  let fused (slot : Nat) : List Byte := (List.range 48).map (Config.keyHash slot)
  sha384 ((m.drop 80).take 384) == fused r && sha384 ((m.drop 464).take 48) == fused (4 + l) &&
  !bitOf s.fuses.2 r && !bitOf s.fuses.2 (4 + l)

/-- Check 3: the RSA and the SLH-DSA signature over the manifest. -/
def rsaGood (m sig : List Byte) : Bool := pssVerify ((m.drop 80).take 384) m (sig.take 384)
def slhGood (m sig : List Byte) : Bool := slhVerify ((m.drop 464).take 48) m ((sig.drop 384).take 16224)

/-- Check 5: every section's hash; `read` reads the image. -/
def hashesOk (m : List Byte) (read : Nat → Nat → List Byte) : Bool :=
  (manSections m).all (fun e => sha384 (read (sectionSpan e).1 (sectionSpan e).2) == (e.drop 16).take 48)

/-- The checks of R437 in order: the cause of the first that fails, or 0. -/
def State.imageCause (s : State) (m sig : List Byte) (read : Nat → Nat → List Byte) : Nat :=
  if !manifestOk m then 0x08
  else if !s.keysOk m then 0x09
  else
    match rsaGood m sig, slhGood m sig with
    | false, true => 0x0A
    | true, false => 0x0B
    | false, false => 0x0C
    | true, true => if fieldAt m 10 2 < s.fuses.1 then 0x0D else if !hashesOk m read then 0x0E else 0

/-- The staged image: its manifest, signatures and sections in banks 12 to 15 of D0. -/
def State.staged (s : State) (off n : Nat) : List Byte := s.peekBytes (stageBase + off) n
def State.stagedCause (s : State) : Nat := s.imageCause (s.staged 0 4096) (s.staged 0x1000 16608) s.staged

/-- The reads of a part of the staged image: whether every word could be read (R450, R451). -/
def State.readStaged (s : State) (off n : Nat) : State × Bool := let (s, r) := s.load (stageBase + off) n; (s, r.isSome)

/-- The reads of the whole staged image: its manifest, and all that the manifest gives it. -/
def State.readImage (s : State) : State × Bool :=
  let (s, ok) := s.readStaged 0 4096
  let m := s.staged 0 4096
  if !ok || !manifestOk m then (s, ok) else s.readStaged 4096 (imageLen m - 4096)

/-- SEC_BOOT_RESULT takes the results of check 3, when it has been made. -/
def State.noteChecks (s : State) (r : Option (Bool × Bool)) : State :=
  { s with boot := match r with | some (rsa, slh) => { s.boot with rsaOk := rsa, slhOk := slh } | none => s.boot }

/-- Check 3 records its two results (R437). -/
def State.recordChecks (s : State) : State :=
  let m := s.staged 0 4096
  let sig := s.staged 0x1000 16608
  s.noteChecks (if manifestOk m && s.keysOk m then some (rsaGood m sig, slhGood m sig) else none)

/-- Set a measurement slot. -/
def State.measure (s : State) (slot : Nat) (h : List Byte) : State := { s with sec := { s.sec with meas := s.sec.meas.set slot h } }

/-- M0 to M2 (R445). -/
def State.measureBoot (s : State) : State :=
  let s := s.measure 0 (sha384 (Config.m0Message s.fuses.1 s.fuses.2 s.boot.dbgLevel))
  let s := s.measure 1 (sha384 s.boot.manifest)
  s.measure 2 (sha384 s.boot.config)

/-- VERIFICATION: stage 0x04 ends. SEC_BOOT_RESULT records both signatures as soon as check 3 is made. An image that cannot be read fails the
stage, with a cause of the stage that is open (log 103). -/
def execVerification (t : Nat) (s : State) : Host.Outcome State Fault Refusal :=
  .next (s.atStage t 4 (fun s =>
    let (s, ok) := s.readImage
    if !ok then let (c, s) := s.free 7; s.fails (8 + c) 0
    else
      let m := s.staged 0 4096
      let cause := s.stagedCause
      let s := s.recordChecks
      if cause ≠ 0 then s.fails cause 0
      else
        let s := { s with boot := { s.boot with
          manifest := m, svn := fieldAt m 10 2, rsaSlot := fieldAt m 28 1, slhSlot := fieldAt m 29 1 } }
        s.measureBoot.pass))

/-! Stage 0x05 (R17, R431). -/

def State.releasedDies (s : State) : List Nat := dies.filter (fun d => bitOf (s.reg .DIE_STATUS d 0) 0)

/-- Release the next die. -/
def State.releaseNext (s : State) (at' : Nat) : State :=
  let d := s.releasedDies.length
  if d ≥ 8 then s
  else { s.setReg .DIE_STATUS d 0 1 with boot := { s.boot with lastRelease := at' } }

/-- RELEASE_D1_D7: D1 is released at the start of stage 0x05. -/
def execReleaseD1D7 (t : Nat) (s : State) : Host.Outcome State Fault Refusal :=
  .next (s.atStage t 5 (fun s => if s.releasedDies.length = 1 then s.releaseNext s.boot.stageStart else s))

/-- DIE_RELEASE: the next die, 1,000,000 ns after the last one. -/
def execDieRelease (t : Nat) (s : State) : Host.Outcome State Fault Refusal :=
  .next (s.atStage t 5 (fun s =>
    let at' := s.boot.lastRelease + 1000000
    if 1 < s.releasedDies.length && at' ≤ s.aon then s.releaseNext at' else s))

/-- DIE_SELFTEST_DONE: a released die ends its self-test; stage 0x05 passes when D1 to D7 have passed. -/
def execDieSelftestDone (t die : Nat) (res : SelfTest) (s : State) : Host.Outcome State Fault Refusal :=
  .next (s.atStage t 5 (fun s =>
    let k := s.releasedDies.length
    if die = 0 || die ≥ k || s.boot.passed.contains die then s
    else
      let released := s.boot.lastRelease - 1000000 * (k - 1 - die)
      let s := s.testDone die (s.aon - released) res
      let cause := (testCause res).1
      if cause ≠ 0 then s.fails cause die
      else
        let s := { s with boot := { s.boot with passed := die :: s.boot.passed } }
        if s.boot.passed.length = 7 then s.pass else s))

/-! Stage 0x06 (R22, R434). -/

/-- Train one group: a failing spare is never used; failing data lanes, lowest first, take the lowest free spare; a group with more of
them than working spares is retired. -/
def trainGroup (bad : List Nat) (b : BridgeSt) (g : Nat) : BridgeSt :=
  let data := (List.range 64).filter (fun l => bad.contains l)
  let good := (List.range 4).filter (fun i => !bad.contains (64 + i))
  let broken := (List.range 4).filter (fun i => bad.contains (64 + i))
  let sp := broken.foldl (fun m i => Sparse.put 0 m (g * 4 + i) failedSpare) b.spares
  if data.length > good.length then { b with spares := sp, retired := if bitOf b.retired g then b.retired else b.retired + 2 ^ g }
  else { b with spares := (data.zip good).foldl (fun m p => Sparse.put 0 m (g * 4 + p.2) (p.1 + 1)) sp }

/-- Train a direction. -/
def State.trainDir (s : State) (failing : List Lane) (d : Dir) : State :=
  let mine := failing.filter (fun l => l.dir = d && decide (l.group < 64))
  let groups := (mine.map (fun l => l.group)).eraseDups
  let bad (g : Nat) : List Nat := (mine.filter (fun l => l.group = g)).map (fun l => l.lane)
  s.setDir d (fun b => { groups.foldl (fun b g => trainGroup (bad g) b g) b with trained := true })

/-- BRIDGES: stage 0x06 ends. The die that a failing direction names is open between its two ends. -/
def execBridges (t : Nat) (failing : List Lane) (s : State) : Host.Outcome State Fault Refusal :=
  .next (s.atStage t 6 (fun s =>
    let dirs := (List.range 20).map dirOf
    let s := dirs.foldl (fun s d => s.trainDir failing d) s
    let s := dies.foldl (fun s d => s.setReg .DIE_STATUS d 0 (setBits (s.reg .DIE_STATUS d 0) 2 2 1)) s
    match dirs.find? (fun d => (s.dir d).lost > 32) with
    | some d =>
      let (v, s) := s.free 2
      s.fails 0x0F (if v = 0 then d.die else (receiver d).1)
    | none => s.pass))

/-! Stage 0x07 (R432). -/

/-- STACKS: stage 0x07 ends; `badLine` is a line whose read failed its check. -/
def execStacks (t : Nat) (badLine : Option Nat) (s : State) : Host.Outcome State Fault Refusal :=
  .next (s.atStage t 7 (fun s =>
    match badLine with
    | some ln => s.fails 0x10 (64 * ln / 2 ^ 37 % 8)
    | none =>
      let s := { s with
        mem := Sparse.dropKeys isTier1 s.mem, ecc := Sparse.dropKeys (fun w => isTier1 (w * 8)) s.ecc, wcb := [], bias := []
        boot := { s.boot with stacksPassed := true } }
      let s := dies.foldl (fun s d =>
        (s.setReg .STK_ILV d 0 (5 + 5 * 2 ^ 8)).setReg .DIE_STATUS d 0 (setBits (s.reg .DIE_STATUS d 0) 3 3 1)) s
      (dies.foldl (fun s d => s.setReg .STK_FINE d 0 (fieldAt s.boot.config 58 1)) s).pass))

/-! Stage 0x08 (R433). -/

/-- Load the port settings, JOINED and FT_CTRL; enabled ports begin to train. -/
def State.loadPorts (s : State) : State :=
  let b := s.boot.config
  let s := (List.range 16).foldl (fun s p =>
    let v := fieldAt b (8 + p) 1 + b2n (bitOf (fieldAt b 24 2) p) * 16 + 2 ^ 8 * fieldAt b (26 + p) 1 + 2 ^ 16 * fieldAt b (42 + p) 1
    (s.setReg .PORT_CTRL (p / 2) (p % 2) v).setPort p (fun x =>
      { x with link := if v % 4 = 0 then .disabled else .training, trained := false })) s
  let s := (s.setReg .PORT_PKG_CTRL 0 0 (fieldAt b 59 1)).writeFtCtrl (fieldAt b 60 8)
  dies.foldl State.notePorts { s with boot := { s.boot with portsLoaded := true } }

/-- PORTS_AND_FT: the registers are loaded; the stage passes once every enabled port has ended its first attempt and, with a source of
time, FT is LOCKED or 1,000,000,000 ns have passed. -/
def execPortsAndFt (t : Nat) (s : State) : Host.Outcome State Fault Refusal :=
  .next (s.atStage t 8 (fun s =>
    let s := if s.boot.portsLoaded then s else s.loadPorts
    let trained (p : Nat) : Bool := s.portMode p = 0 || (s.port p).trained
    let locked : Bool := s.ftSource = 0 || s.ftu.lock == .locked
    if !(List.range 16).all trained then s
    else if !locked && s.aon < s.boot.stageStart + 1000000000 then s
    else
      { s with boot := { s.boot with ftWaitExpired := !locked } }.pass))

/-! Stage 0x09 (R430, R438). -/

/-- Copy the loader to LOADER_ADDR and measure it (M3). -/
def State.placeLoader (s : State) (bytes : List Byte) : State :=
  ((s.save (fieldAt s.boot.config 68 8) bytes).1).measure 3 (sha384 bytes)

/-- Zero banks 12 to 15 of D0. -/
def State.zeroStage (s : State) : State :=
  { s with
    mem := Sparse.dropKeys (fun a => stageBase ≤ a && a < stageBase + 0x10000000) s.mem
    ecc := Sparse.dropKeys (fun w => stageBase ≤ w * 8 && w * 8 < stageBase + 0x10000000) s.ecc
    clean := Sparse.dropKeys (fun g => wsGranule stageBase ≤ g && g < wsGranule stageBase + 0x10000) s.clean }

/-- The cores leave reset, unless HCX_RESET_N holds them (R429). -/
def State.releaseCores (s : State) : State := s.setHcx (fun h => { h with running := !s.pins.hcxReset })

/-- HOST_RELEASE: stage 0x09 ends and BOOT_DONE rises. Meilamo then burns the fuses (R438), in a time that is open. A loader that cannot be read
fails the stage, with a cause that is open (log 103). -/
def execHostRelease (t : Nat) (s : State) : Host.Outcome State Fault Refusal :=
  .next (s.atStage t 9 (fun s =>
    let (off, n) := s.loaderSpan
    let (s, ok) := s.readStaged off n
    if !ok then let (c, s) := s.free 16; s.fails (c + 1) 0
    else
      let s := ((s.placeLoader (s.staged off n)).zeroStage).releaseCores
      let (k, s) := s.free 0
      { s with boot := { s.boot with
        st := .done, busy := false, time := s.aon - s.boot.started, burnEnd := some (s.aon + k) } }))

/-! Host-complex reset (R343, R380, R381, R429, R443). -/

/-- Every issued tile of a move lands; an update unit stops at its interruption point (R380). -/
def State.settleUnit (s : State) (u : Nat) : State :=
  match s.runningOn u with
  | none => s
  | some r =>
    match r.prog with
    | .moving _ fl _ _ _ =>
      (fl.filter (fun x => x.awaits = 0)).foldl (fun s x =>
        match r.held.pour.action with
        | 1 => s.landLoad u x.tile | 2 => s.landStore u x.tile | _ => s.landAtomic u x.tile) s
    | .sweeping _ => s.stopSweep u
    | _ => s

/-- Every pour of every context ends where it is: no unit issues a further request, and what has been issued completes. -/
def State.stopPours (s : State) : State :=
  let s := (s.units.map Prod.fst).foldl State.settleUnit s
  { s with
    units := s.units.map (fun e => (e.1, { e.2 with queue := [], running := none })), exports := []
    ports := s.ports.map (fun p => { p with tags := p.tags.map (fun r => if r.ctx < 16 then { r with ended := true } else r) }) }

/-- A modified line of the system-level cache is written back, unless one of its words cannot be corrected (R343). -/
def State.writeBack (s : State) (e : Nat × SlcLine) : State :=
  let die := s.lineHome e.1
  match s.meets (fun w => match w with | .slc l _ => l == e.1 | _ => false) with
  | (_, true) => s.count .HCX_ECC_UNCORR die 0 1
  | (n, false) => (s.count .HCX_ECC_CORR die 0 n).putLine e.1 e.2.bytes

/-- The caches at a host-complex reset (R343): modified lines of the system-level caches are written back, engine-side writes that wait reach
memory, everything that cores hold is discarded. -/
def State.dropCaches (s : State) : State :=
  let waits := s.hcx.busy.filterMap (fun o => o.acc.map (fun x => (o.line, x))) ++ s.hcx.engineWait
  let slc := s.hcx.slc
  let s := s.setHcx (fun _ => {})
  let s := slc.foldl (fun s e => if e.2.dirty then s.writeBack e else s) s
  let s := s.mend (fun w => match w with | .slc _ _ => true | _ => false)
  waits.foldl (fun s w => if w.2.writes then s.serveAcc w.1 w.2 else s) s

/-- The commands of a context that had been accepted and not completed: up to 64, and the number beyond. -/
def State.recordCmds (s : State) (c : Nat) : State :=
  let l := (s.ring c).out
  (s.setCtx c (fun x => { x with resetCmds := some (l.take 64, l.length - 64, s.ft) })).setRing c (fun g =>
    { g with out := [] })

/-- Fence and tear down every created context, ascending; CMDP_RESET_CMDS reports what was outstanding. -/
def State.fenceAll (s : State) : State :=
  let s := (List.range 16).foldl (fun s c => s.setReg .CMDP_RESET_CMDS 0 c (if (s.ctx c).created then (s.ring c).out.length else 0)) s
  s.created.foldl (fun s c => ((s.raise stContextFenced noUnit c 2 0 0).recordCmds c).teardown c) s

/-- Registers that a host-complex reset changes: slot 16 of CMDP, its count of lost events among them (R380, log 99), ERR_NOTIFY.EN,
HCX_CORE_CTRL. -/
def State.hcxRegs (s : State) : State :=
  let s := (s.setRing 16 (fun _ => {})).setReg .CMDP_EVT_LOST 0 16 0
  dies.foldl (fun s d =>
    let s := s.setReg .ERR_NOTIFY d 0 (setBits (s.reg .ERR_NOTIFY d 0) 0 0 0)
    (List.range 24).foldl (fun s k => s.setReg .HCX_CORE_CTRL d k 0x10) s) s

/-- A host-complex reset request: ignored before BOOT_DONE, in BOOT_HOLD and while stage 0x0A runs; a package reset once a COMMIT has
started in service, after programming has ended (R442). -/
def State.hcxRequest (s : State) : State :=
  if s.boot.st ≠ .done || s.boot.busy then s
  else if s.sec.committed then
    if s.sec.img = .programming then { s with sec := { s.sec with resetDue := true } } else s.packageReset s.trip
  else
    let s := ((s.dropCaches.stopPours).fenceAll).hcxRegs
    { s with boot := { s.boot with stage := 0x0A, busy := true, stageStart := s.aon } }

/-- HCX_RESET_N_ASSERT: `width` ns; an assertion below 1,000 ns is one the board must not make, with no stated effect. -/
def execHcxResetNAssert (t width : Nat) (s : State) : Host.Outcome State Fault Refusal :=
  let s := s.advanceAon t
  if !s.pinsLive then .next s
  else if width < 1000 then .fault .forbiddenPulse
  else
    let s := { s with pins := { s.pins with hcxReset := true } }
    .next s.hcxRequest

/-- HCX_RESET_N_DEASSERT: cores that only the pin held leave reset. -/
def execHcxResetNDeassert (t : Nat) (s : State) : Host.Outcome State Fault Refusal :=
  let s := s.advanceAon t
  if !s.pinsLive || !s.pins.hcxReset then .next s
  else
    let s := { s with pins := { s.pins with hcxReset := false } }
    if s.boot.st = .done && !s.boot.busy then .next s.releaseCores else .next s

/-- A write to SEC_HCX_RESET. -/
def State.writeHcxReset (s : State) (v : Nat) : State := if bitOf v 0 then s.hcxRequest else s

def execSecHcxReset (t value : Nat) (s : State) : Host.Outcome State Fault Refusal := .next ((s.advance t).writeHcxReset value)

/-- HOST_COMPLEX_RESTART: stage 0x0A ends (R443). -/
def execHostComplexRestart (t : Nat) (flashOk : Bool) (s : State) : Host.Outcome State Fault Refusal :=
  .next (s.atStage t 0x0A (fun s =>
    if !s.flashReads flashOk then s.fails 6 0
    else
      let (off, n) := s.loaderSpan
      let bytes := s.flashBytes (imageFlash + off) n
      let want := match loaderSection s.boot.manifest with | some e => (e.drop 16).take 48 | none => []
      if sha384 bytes ≠ want then s.fails 0x0E 0
      else
        let s := s.placeLoader bytes
        let s := [4, 5, 6, 7].foldl (fun s k => s.measure k (List.replicate 48 0#8)) s
        ({ s with boot := { s.boot with busy := false } }).releaseCores))

/-! Temperature (R423 to R425). -/

/-- A thermal trip: every context, the links and the contents of tier 0 and tier 1 are lost; the blocks on the management rails (SEC,
MDP) and the AON time stay. -/
def State.thermalTrip (s : State) (die sensor temp : Nat) : State :=
  let keep := s.regs.filter (fun e => regBase + 0xF0000 ≤ e.1 && e.1 < regBase + 0x120000)
  let r : State := { State.reset with
    pending := s.pending, ft := s.ft, aon := s.aon, flash := s.flash, svnMin := s.svnMin, revoked := s.revoked, freeCount := s.freeCount
    boot := s.boot, sec := s.sec, mgmt := s.mgmt
    pins := { s.pins with tripped := true, tripUntil := some (s.aon + 1000000000) } }
  let r := { r with regs := keep.foldl (fun (m : Sparse W64) (e : Nat × W64) => Sparse.put 0#64 m e.1 e.2) r.regs }
  r.setReg .PWR_TRIP 0 0 (1 + 2 ^ 4 * die + 2 ^ 8 * sensor + 2 ^ 16 * (temp % 2 ^ 16))

/-- SENSOR_SAMPLE: a second sample in a row at or above the trip temperature trips the package. -/
def execSensorSample (t die sensor temp : Nat) (s : State) : Host.Outcome State Fault Refusal :=
  let s := s.advance t
  if die ≥ 8 || sensor ≥ 24 || s.boot.st = .reset || s.pins.tripped || !s.pins.powered then .next s
  else
    let before := (s.die die).hot.contains sensor
    let s := s.takeSample die sensor temp
    if before && tempVal temp ≥ tripTemp sensor then .next (s.thermalTrip die sensor temp) else .next s

/-- TRIP_HOLDOFF_END: the package may leave reset again; the rails return with it once a package reset has been made. -/
def execTripHoldoffEnd (t : Nat) (s : State) : Host.Outcome State Fault Refusal :=
  let s := s.advanceAon t
  match s.pins.tripUntil with
  | none => .next s
  | some u =>
    if s.aon < u then .next s
    else .next { s with pins := { s.pins with tripUntil := none, railsAt := if s.pins.tripped then s.pins.railsAt else s.aon } }

end Sys2Proof.Machine
end

