-- ==== Sys2Proof/Machine/Serving.lean ====
section
/-!
DEFINITION. Serving (R382 to R385): the rows SEQ_ADMIT, SEQ_RETIRE and SEQ_DECISION.
-/
namespace Sys2Proof.Machine

/-- A committed serving parameter (R383); 0 before it has been committed. -/
def Ctx.serving (x : Ctx) (param : Nat) : Nat := (x.setting (unitId 0 clsCMDP 0) param).getD 0
def Ctx.kvPages (x : Ctx) : Nat := x.serving 0x101
def Ctx.tpp (x : Ctx) : Nat := x.serving 0x102
def Ctx.maxBatch (x : Ctx) : Nat := x.serving 0x103

/-- Pages that a sequence of `tokens` tokens and one more needs. -/
def pagesFor (tokens tpp : Nat) : Nat := ceilDiv (tokens + 1) tpp

/-- Pages of the pool in use, held-back pages among them (R384). -/
def Ctx.pagesTaken (x : Ctx) : List Nat := x.seqs.flatMap (fun q => q.pages) ++ x.heldPages

/-- The `n` lowest-numbered free pages: they lie among the first `used + n`. -/
def lowestFree (pages : Nat) (used : List Nat) (n : Nat) : List Nat :=
  ((List.range (min pages (used.length + n))).filter (fun p => !used.contains p)).take n

/-- Free pages of the pool, not counting pages held back (CMDP_SEQ_FREE). -/
def Ctx.freeCount (x : Ctx) : Nat := x.kvPages - (x.pagesTaken.filter (fun p => p < x.kvPages)).length

/-- A slot is bound, to whichever context (R382). -/
def State.slotBound (s : State) (slot : Nat) : Bool := s.ctxs.any (fun x => x.seqs.any (fun q => q.slot = slot))

/-- The entries of a SEQ_ADMIT have the ranges of R383. -/
def admitOk (tpp : Nat) (e : Admit) : Bool :=
  e.slot < 65536 && 1 ≤ e.prompt && e.prompt + 1 ≤ e.maxTokens && e.maxTokens ≤ 1024 * tpp && e.pageList % 4096 == 0

/-- No slot stands twice in the list. -/
def distinct (l : List Nat) : Bool := l.eraseDups.length == l.length

/-- SEQ_ADMIT (R367, R383, R384): checked at acceptance and decided at a heat boundary. -/
def State.doSeqAdmit (s : State) (o : OutCmd) (c : Nat) (entries : List Admit) : State :=
  let x := s.ctx c
  if !x.active then s.complete o stBadState 0 0
  else if entries.isEmpty || entries.length > 16 || !entries.all (admitOk x.tpp) then s.complete o stBadParam 0 0
  else if !distinct (entries.map (fun e => e.slot)) || entries.any (fun e => s.slotBound e.slot) then s.complete o stBadState 0 0
  else
    s.setCtx c (fun x => { x with admits := x.admits ++ [(o, s.ft, entries.map (fun e =>
      { slot := e.slot, tokens := e.prompt, maxTokens := e.maxTokens, pageList := e.pageList, pages := []
        grow := e.prompt + 1, isNew := true, due := true }))] })

def execSeqAdmit (t : Nat) (c : Cmd) (entries : List Admit) (s : State) : Host.Outcome State Fault Refusal :=
  .next ((s.advance t).command c 0x09 (fun o s => s.doSeqAdmit o (cmdTarget c) entries))

/-- SEQ_RETIRE (R367, R383, R384). -/
def State.doSeqRetire (s : State) (o : OutCmd) (c : Nat) (slots : List Nat) : State :=
  let x := s.ctx c
  if !x.active then s.complete o stBadState 0 0
  else if slots.isEmpty || slots.length > 64 || slots.any (fun k => k ≥ 65536) then s.complete o stBadParam 0 0
  else if !distinct slots || !slots.all (fun k => x.seqs.any (fun q => q.slot = k && !q.retiring)) then s.complete o stBadState 0 0
  else
    s.setCtx c (fun x => { x with
      retires := x.retires ++ [(o, s.ft, slots)]
      seqs := x.seqs.map (fun q => if slots.contains q.slot then { q with retiring := true } else q) })

def execSeqRetire (t : Nat) (c : Cmd) (slots : List Nat) (s : State) : Host.Outcome State Fault Refusal :=
  .next ((s.advance t).command c 0x0A (fun o s => s.doSeqRetire o (cmdTarget c) slots))

/-- Write indices into a page list, behind the `old` entries it holds (R384). -/
def State.putPages (s : State) (c : Nat) (q : SeqSt) (new : List Nat) : State × Option XErr :=
  if new.isEmpty then (s, none)
  else s.saveVa (s.ctx c).home c (q.pageList + 4 * q.pages.length) (new.flatMap (leBytes 4))

/-- A write of the command processor failed (R385). -/
def State.cmdpFault (s : State) (c va : Nat) (e : XErr) : State :=
  s.faultCtx c e.code (unitId (s.ctx c).home clsCMDP 0) va e.detail 0

/-- Hand out the lowest free pages to a sequence; `ok` stays true while every write succeeds. -/
def State.grant (s : State) (c : Nat) (q : SeqSt) (need : Nat) : State × SeqSt × Bool :=
  let x := s.ctx c
  let new := lowestFree x.kvPages x.pagesTaken need
  match s.putPages c q new with
  | (s, some e) => (s.cmdpFault c (q.pageList + 4 * q.pages.length) e, q, false)
  | (s, none) => (s, { q with pages := q.pages ++ new }, true)

/-- Store a sequence of a context back, in ascending slot order. -/
def State.putSeq (s : State) (c : Nat) (q : SeqSt) : State :=
  s.setCtx c (fun x => { x with seqs := insertBy (fun q => q.slot) q (x.seqs.filter (fun y => y.slot ≠ q.slot)) })

/-- Growth over the heat that ends: token counts take the growth decided for it (R382). A heat that was decided and never ran, since a HALT
took effect at its start, credits nothing. -/
def SeqSt.grown (q : SeqSt) : SeqSt :=
  if q.due then { q with stalled := false }
  else { q with tokens := q.tokens + (if q.isNew then 1 else q.grow), grow := 0, isNew := false, stalled := false }

/-- One running sequence is served (R384). -/
def State.serveSeq (c : Nat) (acc : State × Bool × Bool) (q : SeqSt) : State × Bool × Bool :=
  let (s, stalled, ok) := acc
  if !ok then acc
  else
    let x := s.ctx c
    let need := pagesFor q.tokens x.tpp - q.pages.length
    if need ≤ x.freeCount then
      let (s, q, ok) := s.grant c q need
      (s.putSeq c { q with grow := if q.isNew then q.tokens + 1 else 1, stalled := false, due := true }, stalled, ok)
    else ((s.putSeq c { q with grow := 0, stalled := true, due := true }).count .CMDP_SEQ_STALLS 0 c 1, true, true)

/-- One SEQ_ADMIT is decided for heat `n` (R384). -/
def State.decideAdmit (c n : Nat) (stalled : Bool) (acc : State × Bool) (a : OutCmd × Nat × List SeqSt) : State × Bool :=
  let (s, ok) := acc
  let (o, _, entries) := a
  if !ok then acc
  else
    let x := s.ctx c
    let want := entries.foldl (fun w q => w + pagesFor q.tokens x.tpp) 0
    if entries.any (fun q => s.slotBound q.slot) then
      (s.setCtx c (fun x => { x with seqReplies := x.seqReplies ++ [(o, stBadState, 0)] }), true)
    else if stalled || want > x.freeCount || x.seqs.length + entries.length > x.maxBatch then
      ((s.setCtx c (fun x => { x with seqReplies := x.seqReplies ++ [(o, stRefusedAdmission, 0)] })).count
        .CMDP_SEQ_REFUSED 0 c 1, true)
    else
      let (s, ok) := entries.foldl (fun (acc : State × Bool) q =>
        if !acc.2 then acc
        else
          let (s, q, ok) := acc.1.grant c q (pagesFor q.tokens (acc.1.ctx c).tpp)
          (s.putSeq c q, ok)) (s, true)
      (s.setCtx c (fun x => { x with seqReplies := x.seqReplies ++ [(o, stOk, n)] }), ok)

/-- An entry of the batch table (R385). -/
def batchEntry (q : SeqSt) : List Byte :=
  leBytes 2 q.slot ++ leBytes 1 (b2n q.isNew + 2 * b2n q.stalled) ++ leBytes 1 0 ++ leBytes 4 (if q.isNew then 0 else q.tokens) ++
  leBytes 4 q.grow ++ leBytes 4 0 ++ leBytes 8 q.pageList ++ leBytes 8 0

/-- Write the batch table of heat `n` (R385). -/
def State.writeBatch (s : State) (c n : Nat) : State :=
  let x := s.ctx c
  let va := x.serving 0x104 + 0x21000 * (n % 2)
  let bytes := leBytes 8 n ++ leBytes 4 x.seqs.length ++ leBytes 4 x.freeCount ++ List.replicate 48 0#8 ++ x.seqs.flatMap batchEntry
  match s.saveVa x.home c va bytes with
  | (s, some e) => s.cmdpFault c va e
  | (s, none) => s

/-- The decision for heat `n`, which starts at `start` (R382, R384). -/
def State.decide (s : State) (c n start : Nat) : State :=
  let x := s.ctx c
  let due (ft : Nat) : Bool := ft + 20480 ≤ start
  let cmds := x.retires.filter (fun r => due r.2.1)
  let joins := x.admits.filter (fun a => due a.2.1)
  let seqs := x.seqs.map SeqSt.grown
  let named := cmds.flatMap (fun r => r.2.2)
  let (gone, stay) := seqs.partition (fun q => named.contains q.slot || q.tokens ≥ q.maxTokens)
  let full := gone.filter (fun q => !named.contains q.slot)
  let s := s.setCtx c (fun x => { x with
    seqs := stay, heldPages := gone.flatMap (fun q => q.pages), decided := some n
    retires := x.retires.filter (fun r => !due r.2.1), admits := x.admits.filter (fun a => !due a.2.1)
    seqReplies := x.seqReplies ++ cmds.map (fun r => (r.1, stOk, n))
    seqEvents := x.seqEvents ++ full.map (fun q => (q.slot, n - 1)) })
  let (s, stalled, ok) := stay.foldl (State.serveSeq c) (s, false, true)
  let (s, ok) := joins.foldl (State.decideAdmit c n stalled) (s, ok)
  if ok then s.writeBatch c n else s

/-- The context serves: its pool and batch have been set (R383). -/
def Ctx.isServing (x : Ctx) : Bool := x.kvPages ≠ 0 && x.tpp != 0 && x.maxBatch != 0

/-- Heat `n` has been decided: a resume inside a heat finds its own decision made, and the one after it too when the pre-emption came late
(R377). -/
def Ctx.decidedFor (x : Ctx) (n : Nat) : Bool := match x.decided with | some d => n ≤ d | none => false

/-- SEQ_DECISION: between S(n) − 20,480 and S(n) − 4,096, once per heat (R384). -/
def execSeqDecision (t ctx : Nat) (s : State) : Host.Outcome State Fault Refusal :=
  let s := s.advance t
  let x := s.ctx ctx
  let (n, start) := x.nextHeat
  if !x.active || !x.isServing || x.decidedFor n || s.ft + 20480 < start || s.ft + 4096 > start then .next s
  else .next (s.decide ctx n start)

/-- At S(n) the replies of the commands decided for heat n are posted (R384), and the event of each sequence that reached its limit. -/
def State.postSeqReplies (s : State) (c : Nat) : State :=
  let x := s.ctx c
  let s := s.setCtx c (fun x => { x with seqReplies := [], seqEvents := [] })
  let s := x.seqReplies.foldl (fun s (o, st, p) => s.complete o st p 0) s
  x.seqEvents.foldl (fun s (slot, last) => s.event c ⟨stOk, 0x0A, true, 0, slot, last⟩) s

end Sys2Proof.Machine
end

