-- ==== Sys2Proof/Machine/Command.lean ====
section
/-!
DEFINITION. Command packets and rings (R358 to R364, R367, R368, R477): the packet's fields, the rings in memory, the doorbell and the
rows CMDP_RING_TAIL_WRITE, CMDP_CPL_HEAD_WRITE, CMDP_RING_SIZE_WRITE and FENCE.
-/
namespace Sys2Proof.Machine

/-! Packets (R364, R367). -/

/-- Bytes from 16 on of the header that an opcode uses, as ranges; every other byte of PARAMS is reserved. -/
def paramBytes (op : Nat) : List (Nat × Nat) :=
  match op with
  | 0x01 => [(16, 8)] | 0x02 => [(16, 17)] | 0x04 => [(16, 2)] | 0x05 => [(16, 9)]
  | 0x06 => [(16, 22)] | 0x07 => [(16, 8), (32, 5)] | 0x08 => [(16, 8), (32, 6)]
  | 0x09 => [(16, 2)] | 0x0A => [(16, 2)] | 0x0B => [(16, 4), (24, 16)] | 0x0C => [(16, 4)]
  | 0x0D => [(16, 2), (20, 4)] | 0x0E => [(16, 2)] | 0x0F => [(16, 9)] | 0x12 => [(16, 9)] | 0x20 => [(16, 32)]
  | _ => []

/-- Length of the payload of a packet, and the reserved fields inside parameters and payload. -/
def bodyOk (b : List Byte) (op len : Nat) : Bool :=
  let n := fieldAt b 16 2
  match op with
  | 0x02 => len == 0 && fieldAt b 32 1 < 2
  | 0x04 => 1 ≤ n && n ≤ 28 && len == 16 * n && (List.range n).all (fun i => zeroAt b (64 + 16 * i + 4) 4)
  | 0x05 => len == 0 && fieldAt b 24 1 < 2
  | 0x06 => len == 0 && fieldAt b 24 8 < 2 ^ 58 && fieldAt b 36 1 < 2 && fieldAt b 37 1 < 16
  | 0x07 => len == 0 && fieldAt b 36 1 < 2
  | 0x08 => len == 0 && fieldAt b 36 1 < 2 && fieldAt b 37 1 < 2
  | 0x09 => 1 ≤ n && n ≤ 16 && len == 24 * n &&
    (List.range n).all (fun i => zeroAt b (64 + 24 * i + 2) 2 && zeroAt b (64 + 24 * i + 12) 4)
  | 0x0A => 1 ≤ n && n ≤ 64 && len == ceilDiv (4 * n) 8 * 8 && (List.range n).all (fun i => zeroAt b (64 + 4 * i + 2) 2) &&
    zeroAt b (64 + 4 * n) (len - 4 * n)
  | 0x12 => len == 0 && fieldAt b 24 1 < 2 && (fieldAt b 24 1 == 1 || zeroAt b 16 8)
  | 0x20 => len == 224 && fieldAt b 47 1 < 2
  | 0x21 => len == 224
  | _ => len == 0

/-- PAYLOAD_LEN of a packet. -/
def packetLen (b : List Byte) : Nat := fieldAt b 2 2

/-- No reserved field of a packet is set and its lengths are in range. -/
def packetOk (b : List Byte) : Bool :=
  let op := fieldAt b 0 1
  let used := paramBytes op
  fieldAt b 1 1 < 2 && packetLen b ≤ 448 && packetLen b % 8 == 0 && fieldAt b 8 1 < 16 && zeroAt b 9 7 &&
  (List.range 48).all (fun i => used.any (fun r => r.1 ≤ 16 + i && 16 + i < r.1 + r.2) || zeroAt b (16 + i) 1) &&
  bodyOk b op (packetLen b)

/-- The header of a packet that came through a ring. -/
def packetCmd (ring : Nat) (b : List Byte) : Cmd :=
  { ring := ring, seq := fieldAt b 4 4, ctx := fieldAt b 8 1 % 16, ordered := bitOf (fieldAt b 1 1) 0 }

/-- The effect of an accepted packet. -/
def State.runPacket (s : State) (o : OutCmd) (op c : Nat) (b : List Byte) : State :=
  let f (at' n : Nat) : Nat := fieldAt b at' n
  let n := f 16 2
  let pay := (b.drop 64).take (packetLen b)
  match op with
  | 0x01 => s.doLoadMould o c (f 16 8)
  | 0x02 => s.doArmAt o c (f 16 8) (f 24 8) (f 32 1 == 1)
  | 0x03 => s.doHalt o c
  | 0x04 => s.doStage o c ((List.range n).map (fun i => ⟨fieldAt pay (16 * i) 2, fieldAt pay (16 * i + 2) 2, fieldAt pay (16 * i + 8) 8⟩))
  | 0x05 => if f 24 1 = 1 then s.doCommitCancel o c else s.doCommitAt o c (f 16 8)
  | 0x06 => s.doMap o c (f 16 8) (f 24 8) (f 32 4) (f 36 1) (f 37 1)
  | 0x07 => s.doUnmap o c (f 16 8) (f 32 4) (f 36 1)
  | 0x08 => s.doInval o c (f 16 8) (f 32 4) (f 36 1) (f 37 1 == 1)
  | 0x09 => s.doSeqAdmit o c ((List.range n).map (fun i =>
      ⟨fieldAt pay (24 * i) 2, fieldAt pay (24 * i + 4) 4, fieldAt pay (24 * i + 8) 4, fieldAt pay (24 * i + 16) 8⟩))
  | 0x0A => s.doSeqRetire o c ((List.range n).map (fun i => fieldAt pay (4 * i) 2))
  | 0x0B => s.doExport o c (f 16 2) (f 18 2) (f 24 8) (f 32 8) true
  | 0x0C => s.doDigest o c (f 16 2) (f 18 2)
  | 0x0D => s.doDisable o (f 16 2) (f 20 4)
  | 0x0E => s.doEnable o (f 16 2)
  | 0x0F => s.doSetLtv o (f 24 1) (f 16 8)
  | 0x10 => s.doEnergyQuery o c
  | 0x11 => s.fences
  | 0x12 => if f 24 1 = 1 then s.doResume o c (f 16 8) else s.doPreempt o c
  | 0x20 => s.doCreate o c
      { ringVa := f 16 8, cplVa := f 24 8, table := f 32 8, tableBytes := f 40 4, n := f 44 1, m := f 45 1, home := f 46 1
        recover := f 47 1 == 1 } pay
  | 0x21 => s.doPartition o c pay
  | 0x22 => s.doDestroy o c
  | _ => s

/-- Accept a packet: its opcode and ring first, then its fields, then the state of its target (R364). -/
def State.acceptPacket (s : State) (ring : Nat) (b : List Byte) : State :=
  let c := packetCmd ring b
  let op := fieldAt b 0 1
  let st := s.headerStatus c op
  if (st = stOk || st == stBadState) && s.boot.st != .hold && !packetOk b then
    let (o, s) := s.enroll c op
    s.finish o stBadParam 0 0
  else s.accept c op (fun o s => if packetOk b then s.runPacket o op (cmdTarget c) b else s.complete o stBadParam 0 0)

/-! Rings in memory. -/

/-- Bytes of a ring's slot at HEAD: through the context's tables, or package-local for the control ring (R362). -/
def State.slotBytes (s : State) (r : Nat) (n : Nat) : State × Except (Nat × Nat) (List Byte) :=
  let g := s.ring r
  let va := g.base + 512 * g.head
  let (s, x) := if r < 16 then s.translateLocal (s.ctx r).home r va .rd
    else (s, if isTier1 va || isWs va then .ok va else .error ⟨stTranslationFault, 0⟩)
  match x with
  | .error e => (s, .error (e.code, va))
  | .ok a =>
    match s.load a n with
    | (s, none) => (s, .error (stMemUncorrectable, va))
    | (s, some bs) => (s, .ok bs)

/-- Serve a ring in order while its commands can be accepted (R363); each pass takes one slot. -/
def State.serveRing (r : Nat) : Nat → State → State
  | 0, s => s
  | k + 1, s =>
    let g := s.ring r
    if g.head = g.tail || !s.canAccept { ring := r, seq := 0, ctx := 0, ordered := false } then s
    else
      match s.slotBytes r 64 with
      | (s, .error (code, va)) => s.ringFault State.lineLost r code va
      | (s, .ok h) =>
        let c := packetCmd r h
        if !s.canAccept c || s.xlateBusy c (fieldAt h 0 1) then s
        else
          match s.slotBytes r (64 + min (packetLen h) 448) with
          | (s, .error (code, va)) => s.ringFault State.lineLost r code va
          | (s, .ok b) => State.serveRing r k (s.acceptPacket r b)

/-- Serve a ring: what RECOVER owes first, then the commands that wait. -/
def State.serve (s : State) (r : Nat) : State :=
  let s := if r < 16 then s.recovered r else s
  let g := s.ring r
  State.serveRing r ((g.tail + 2 ^ g.cmdLog - g.head) % 2 ^ g.cmdLog) s

/-- Accept the packets that came over I3C, in order, while they can be accepted (R363, R477). -/
def State.serveI3c : Nat → State → State
  | 0, s => s
  | k + 1, s =>
    match s.mgmt.waiting with
    | [] => s
    | b :: rest =>
      let c := packetCmd 17 b
      if !s.canAccept c || s.xlateBusy c (fieldAt b 0 1) then s
      else State.serveI3c k ({ s with mgmt := { s.mgmt with waiting := rest } }.acceptPacket 17 b)

def State.serveBoard (s : State) : State := State.serveI3c s.mgmt.waiting.length s

/-- The doorbell (R359). -/
def State.ringTail (s : State) (r v : Nat) : State :=
  let g := s.ring r
  if g.cmdLog = 0 || v ≥ 2 ^ g.cmdLog then s else (s.setRing r (fun g => { g with tail := v })).serve r

/-- CMDP_CPL_HEAD (R360). -/
def State.cplHead (s : State) (r v : Nat) : State :=
  let g := s.ring r
  if g.cplLog = 0 || v ≥ 2 ^ g.cplLog || (v + 2 ^ g.cplLog - g.cplHead) % 2 ^ g.cplLog > g.used then s
  else (s.setRing r (fun g => { g with cplHead := v })).serve r

/-- The control ring's base and size registers take a write only while it is idle. -/
def State.controlIdle (s : State) : Bool := (s.ring 16).head == (s.ring 16).tail && (s.ring 16).out.isEmpty

/-- CMDP_RING_SIZE of slot 16. -/
def State.ringSize (s : State) (v : Nat) : State :=
  if !s.controlIdle then s
  else s.setRing 16 (fun g => { g with
    cmdLog := bitsOf v 4 0, cplLog := bitsOf v 12 8, tail := 0, head := 0, cplHead := 0, cplTail := 0, phase := true })

def execCmdpRingTailWrite (t slot value : Nat) (s : State) : Host.Outcome State Fault Refusal :=
  .next ((s.advance t).ringTail slot (value % 65536))

def execCmdpCplHeadWrite (t slot value : Nat) (s : State) : Host.Outcome State Fault Refusal :=
  .next ((s.advance t).cplHead slot (value % 65536))

def execCmdpRingSizeWrite (t value : Nat) (s : State) : Host.Outcome State Fault Refusal := .next ((s.advance t).ringSize value)

/-- FENCE (R368): it ends when it is the oldest command of its ring. -/
def execFence (t : Nat) (c : Cmd) (s : State) : Host.Outcome State Fault Refusal :=
  .next ((s.advance t).command c 0x11 (fun _ s => s.fences))

end Sys2Proof.Machine
end

