-- ==== Sys2Proof/Machine/Heat.lean ====
section
/-!
DEFINITION. Heat starts (R64 to R66, R374, R384, R467): the row HEAT_START.
-/
namespace Sys2Proof.Machine

/-- The dies a mould uses (R48). -/
def Mould.usedDies (m : Mould) : List Nat := dies.filter (fun d => !(m.pours.getD d []).isEmpty)

/-- The first heat start after arming faults a context whose mould does not fit a direction that lost groups (R467); which of the
retired groups the record names is open (log 6). -/
def State.checkFit (s : State) (c : Nat) : State :=
  let x := s.ctx c
  match (List.range 20).find? (fun i => (s.dir (dirOf i)).retired ≠ 0 && x.misfits i (s.dir (dirOf i)).lost) with
  | none => s
  | some i =>
    let b := s.dir (dirOf i)
    let (n, s) := s.free b.lost
    let group := (onesOf 64 b.retired).getD n 0
    let (rd, rs) := receiver (dirOf i)
    s.faultCtx c stBridgeDegraded (unitId rd clsBRG rs) i
      (retireDetail b.inService b.lost group + 2 ^ 24 * (x.mould.map (fun m => m.margin i)).getD 0) 0

/-- A heat starts: its number, its FT and length, the heat epoch, and the step flag word, which a resume inside a heat keeps. The sequences
that were decided for it take part in it. -/
def Ctx.started (x : Ctx) : Ctx :=
  let (n, start) := x.nextHeat
  let inside : Bool := x.st = .armed && x.skipBelow != 0
  { x with
    st := .running, heat := n % 2 ^ 64, heatStart := start, span := x.heatLen
    skipBelow := if x.st = .armed then x.skipBelow else 0
    seqs := if x.decidedFor (n + 1) then x.seqs else x.seqs.map (fun q => { q with due := false })
    stepFlags := if inside then x.stepFlags else 0
    stepAtStart := if inside then x.stepAtStart else x.stepCount
    handed := x.handed.filter (fun h => n ≤ h.1) }

/-- The pours already handed over of the heat that starts take its epoch (R194). -/
def State.giveEpoch (s : State) (c : Nat) : State :=
  let x := s.ctx c
  { s with units := s.units.map (fun p : Nat × UnitSt => (p.1, { p.2 with
      queue := p.2.queue.map (fun h => if h.ctx = c && h.heat == x.heat then { h with epoch := x.stepAtStart } else h) })) }

/-- The FT that the foremost die has reached (R47): a heat starts when the first die reaches its FT. -/
def State.frontFt (s : State) : Nat := dies.foldl (fun m d => max m (s.dieFt d)) s.ft

/-- HEAT_START: the next heat of an ARMED or RUNNING context starts, unless a HALT or a pre-emption takes effect there. -/
def execHeatStart (t ctx : Nat) (s : State) : Host.Outcome State Fault Refusal :=
  let s := s.advance t
  let s := s.applyBy ctx s.frontFt
  let x := s.ctx ctx
  if !x.created || x.destroying || x.preemptTaken || s.frontFt < x.nextHeat.2 then .next s
  else if x.st = .faulted then .next (s.postSeqReplies ctx)
  else if !x.active then .next s
  else if x.haltPending || x.diverged then .next ((s.haltTakes ctx (x.heat + 1) (x.heat + 1)).postSeqReplies ctx)
  else
    match x.preempt with
    | some b => if x.boundaryFt b ≤ x.nextHeat.2 then .next ((s.takePreempt ctx (x.boundaryFt b)).postSeqReplies ctx) else .next (go s x)
    | none => .next (go s x)
where
  go (s : State) (x : Ctx) : State :=
    let first := x.st = .armed
    let s := (s.setCtx ctx Ctx.started).giveEpoch ctx
    let s := (match x.mould with | some m => m.usedDies | none => []).foldl State.bridgeBoundary s
    let s := if x.decidedFor (x.nextHeat.1 + 1) then s else s.postSeqReplies ctx
    if first then s.checkFit ctx else s

end Sys2Proof.Machine
end

