-- ==== Sys2Proof/Machine/Transc.lean ====
section
/-!
DEFINITION. The transcendental functions of the vector engine (R161): each is computed as an enclosure of the exact
result in fixed point, at rising precision until both ends round to the same element, so that the result is correctly
rounded. Exact cases and special inputs follow the table of defined results after R171.
-/
namespace Sys2Proof.Machine

/-- Sum of the alternating series atan(1/x) · 2^p over `n` terms; `t` is 2^p / x^(2k+1). -/
def atanInvLoop (x2 : Nat) : Nat → Nat → Int → Int → Int → Int
  | 0, _, _, _, acc => acc
  | n + 1, k, t, sg, acc => atanInvLoop x2 n (k + 1) (t / x2) (-sg) (acc + sg * (t / (2 * k + 1)))

/-- atan(1/x) · 2^p, within `p` units. -/
def atanInv (p x : Nat) : Int := atanInvLoop (x * x) (p / 4 + 10) 0 ((2 ^ p / x : Nat) : Int) 1 0

/-- π · 2^p by Machin's formula, within 2^12 units for the precisions used here. -/
def piFix (p : Nat) : Int := 16 * atanInv p 5 - 4 * atanInv p 239

/-- Sum of z^(2k+1)/(2k+1) over `n` terms, in units of 2^-p; `t` is z^(2k+1). -/
def atanhLoop (p : Nat) (z2 : Int) : Nat → Nat → Int → Int → Int
  | 0, _, _, acc => acc
  | n + 1, k, t, acc => atanhLoop p z2 n (k + 1) (t * z2 / 2 ^ p) (acc + t / (2 * k + 1))

/-- atanh(z) for z in units of 2^-p with |z| at most 1/3. -/
def atanhFix (p : Nat) (z : Int) : Int := atanhLoop p (z * z / 2 ^ p) (p / 3 + 10) 0 z 0

/-- ln 2 in units of 2^-p. -/
def ln2Fix (p : Nat) : Int := 2 * atanhFix p ((2 ^ p / 3 : Nat) : Int)

/-- Sum of r^k/k! over `n` terms. -/
def expLoop (p : Nat) (r : Int) : Nat → Nat → Int → Int → Int
  | 0, _, _, acc => acc
  | n + 1, k, t, acc => expLoop p r n (k + 1) (t * r / 2 ^ p / ((k : Int) + 1)) (acc + t)

/-- e^r for r in units of 2^-p, 0 ≤ r < 1. -/
def expFix (p : Nat) (r : Int) : Int := expLoop p r (p / 3 + 40) 0 (2 ^ p) 0

/-- The alternating series from term `t`, whose next term divides by (k+1)(k+2). -/
def trigLoop (p : Nat) (r2 : Int) : Nat → Nat → Int → Int → Int
  | 0, _, _, acc => acc
  | n + 1, k, t, acc =>
    trigLoop p r2 n (k + 2) (-(t * r2 / 2 ^ p / (((k : Int) + 1) * (k + 2)))) (acc + t)

/-- Sine of r in units of 2^-p, 0 ≤ r < 2. -/
def sinFix (p : Nat) (r : Int) : Int := trigLoop p (r * r / 2 ^ p) (p / 4 + 40) 1 r 0

/-- Cosine of r in units of 2^-p. -/
def cosFix (p : Nat) (r : Int) : Int := trigLoop p (r * r / 2 ^ p) (p / 4 + 40) 0 (2 ^ p) 0

/-- The value m·2^e in units of 2^-p, rounded down. -/
def toFix (p : Nat) (neg : Bool) (m : Nat) (e : Int) : Int :=
  let k := e + p
  let s := sgnNum neg m
  if 0 ≤ k then s * 2 ^ k.toNat else s / 2 ^ (-k).toNat

/-- Half-width of every enclosure, in units of its last place. -/
def margin : Int := 2 ^ 24

/-- An enclosure of a real: two exact values. -/
abbrev Encl := Val × Val

/-- An enclosure around `v` units of 2^e. -/
def around (v e : Int) : Encl := (vOfDyadic (v - margin) e, vOfDyadic (v + margin) e)

/-- A value just beside `v` (a non-zero finite value), nearer to zero when `inward` holds. -/
def beside (inward : Bool) : Val → Val
  | .fin n m e => .fin n (if inward then (m <<< 190) - 1 else (m <<< 190) + 1) (e - 190)
  | v => v

/-- The degenerate enclosure. -/
def exactly (v : Val) : Encl := (v, v)

/-- e^(x·2^-q) scaled by 2^k, for the reduced argument. -/
def expEncl (p : Nat) (k : Int) (r : Int) : Encl := around (expFix p r) (k - p)

/-- Enclosure of e^x or, with `two`, of 2^x, for a finite non-zero x. -/
def expAt (two : Bool) (prec : Nat) (neg : Bool) (m : Nat) (e : Int) : Encl :=
  let p := prec + 128
  let mag := magExp m e
  if mag ≥ 12 then
    exactly (if neg then .fin false 1 (-8000) else .fin false 1 8000)
  else if mag < -200 then exactly (beside neg vOne)
  else if two then
    let x := toFix p neg m e
    let k := x / 2 ^ p
    let f := x - k * 2 ^ p
    if f = 0 then exactly (.fin false 1 k) else expEncl p k (f * ln2Fix p / 2 ^ p)
  else
    let x := toFix p neg m e
    let l := ln2Fix p
    let k := x / l
    expEncl p k (x - k * l)

/-- Enclosure of ln x or, with `two`, of log2 x, for a finite positive x. -/
def logAt (two : Bool) (prec : Nat) (m : Nat) (e : Int) : Encl :=
  let p := prec + 160
  let lg := Nat.log2 m
  -- y = m / 2^(lg) lies in [1, 2); above 1.5 it is halved
  let up : Nat := if 2 * m > 3 * 2 ^ lg then 1 else 0
  let k : Int := (lg : Int) + e + up
  let d : Nat := 2 ^ (lg + up)
  if m = 2 ^ lg && two then exactly (vInt ((lg : Int) + e))
  else if m = d && k = 0 then exactly vZero
  else
    let z : Int := ((m : Int) - d) * 2 ^ p / ((m : Int) + d)
    let ly := 2 * atanhFix p z
    let l := ln2Fix p
    if two then around (ly * 2 ^ p / l + k * 2 ^ p) (-p) else around (ly + k * l) (-p)

/-- Enclosure of sin x or, with `cosine`, of cos x, for a finite non-zero x. -/
def trigAt (cosine : Bool) (prec : Nat) (neg : Bool) (m : Nat) (e : Int) : Encl :=
  let p := prec + 192
  let mag := magExp m e
  if mag < -100 then exactly (beside true (if cosine then vOne else .fin neg m e))
  else
    let extra := if mag < 0 then 4 else mag.toNat + 4
    let q := p + extra
    let x := toFix q false m e
    let half := piFix (q + 16) / 2 ^ 17
    let k := x / half
    let r := (x - k * half) / 2 ^ extra
    let quad := (k + (if cosine then 1 else 0)) % 4
    let v := if quad = 0 then sinFix p r else if quad = 1 then cosFix p r
      else if quad = 2 then -sinFix p r else -cosFix p r
    around (if neg && !cosine then -v else v) (-p)

/-- Enclosure of tanh x for a finite non-zero x. -/
def tanhAt (prec : Nat) (neg : Bool) (m : Nat) (e : Int) : Encl :=
  let mag := magExp m e
  let sg (v : Val) : Val := if neg then vNeg v else v
  if mag < -100 then exactly (beside true (.fin neg m e))
  else if mag ≥ 6 then exactly (sg (beside true vOne))
  else
    -- e^(2x) = s · 2^(k − p): tanh = (s·2^k − 2^p) / (s·2^k + 2^p)
    let p := prec + 256
    let x := toFix p false m (e + 1)
    let l := ln2Fix p
    let k := x / l
    let s := expFix p (x - k * l) * 2 ^ k.toNat
    let t := (s - 2 ^ p) * 2 ^ p / (s + 2 ^ p)
    let (a, b) := around t (-p)
    (sg a, sg b)

/-- The functions of the transcendental class that need an enclosure. -/
inductive TFun where
  | exp2 | exp | log2 | log | sin | cos | tanh
  deriving DecidableEq, Repr

/-- The result on special inputs, where no enclosure is needed (table of defined results). -/
def transSpecial : TFun → Val → Option Val
  | _, .nan => some .nan
  | .exp2, .inf n => some (if n then vZero else .inf false)
  | .exp, .inf n => some (if n then vZero else .inf false)
  | .log2, .inf n => some (if n then .nan else .inf false)
  | .log, .inf n => some (if n then .nan else .inf false)
  | .sin, .inf _ => some .nan
  | .cos, .inf _ => some .nan
  | .tanh, .inf n => some (.fin n 1 0)
  | f, .fin n m _ =>
    if m = 0 then
      match f with
      | .exp2 => some vOne | .exp => some vOne | .cos => some vOne
      | .log2 => some (.inf true) | .log => some (.inf true)
      | .sin => some (.fin n 0 0) | .tanh => some (.fin n 0 0)
    else
      match f with
      | .log2 => if n then some .nan else none
      | .log => if n then some .nan else none
      | _ => none

/-- The enclosure of a function at a precision. -/
def transEncl (f : TFun) (prec : Nat) (neg : Bool) (m : Nat) (e : Int) : Encl :=
  match f with
  | .exp2 => expAt true prec neg m e
  | .exp => expAt false prec neg m e
  | .log2 => logAt true prec m e
  | .log => logAt false prec m e
  | .sin => trigAt false prec neg m e
  | .cos => trigAt true prec neg m e
  | .tanh => tanhAt prec neg m e

/-- Round at rising precision until both ends of the enclosure agree. -/
def transLoop (dst : Fmt) (mode : RMode) (f : TFun) (neg : Bool) (m : Nat) (e : Int) : List Nat → Rounded
  | [] => roundTo dst mode (transEncl f 2048 neg m e).1
  | p :: ps =>
    let (a, b) := transEncl f p neg m e
    let ra := roundTo dst mode a
    if ra = roundTo dst mode b then ra else transLoop dst mode f neg m e ps

/-- A transcendental result, rounded once to a format (R161). -/
def transc (dst : Fmt) (mode : RMode) (f : TFun) (v : Val) : Rounded :=
  match transSpecial f v with
  | some r => roundTo dst mode r
  | none =>
    match v with
    | .fin neg m e => transLoop dst mode f neg m e [128, 256, 512, 1024]
    | _ => roundTo dst mode .nan

end Sys2Proof.Machine
end

