-- ==== Sys2Proof/Machine/Kernel.lean ====
section
/-!
DEFINITION. Vector engine instructions (R152 to R160): the instruction word, the checks of R147 and R153, elements, operations, and
reductions over a list of elements.
-/
namespace Sys2Proof.Machine

/-- An instruction word (R152). -/
structure Ins where
  op : Nat
  mode : Nat
  rnd : Nat
  wt : Nat
  mask : Nat
  dst : Nat
  s0 : Nat
  s1 : Nat
  s2 : Nat
  mfmt : Nat
  rsv : Nat
  imm : Nat
  cnt : Nat
  deriving DecidableEq, Repr

def parseIns (w : Nat) : Ins :=
  { op := bitsOf w 127 120, mode := bitsOf w 119 118, rnd := bitsOf w 117 116, wt := bitsOf w 115 112, mask := bitsOf w 111 109
    dst := bitsOf w 108 103, s0 := bitsOf w 102 97, s1 := bitsOf w 96 91, s2 := bitsOf w 90 85, mfmt := bitsOf w 84 81
    rsv := bitsOf w 80 64, imm := bitsOf w 63 32, cnt := bitsOf w 31 0 }

/-- An operand selector. -/
inductive Sel where
  | v (n : Nat) | k (n : Nat) | w (n : Nat) | imm | tq | acc | t (n : Nat)
  deriving DecidableEq, Repr

def selOf (x : Nat) : Option Sel :=
  if x < 0x10 then some (.v x)
  else if x < 0x18 then some (.k (x - 0x10))
  else if x < 0x20 then some (.w (x - 0x18))
  else if x = 0x20 then some .imm
  else if x = 0x21 then some .tq
  else if x = 0x22 then some .acc
  else if 0x30 ≤ x && x < 0x34 then some (.t (x - 0x30))
  else none

/-- Classes of operations. -/
inductive OpCls where
  | arith | move | cmp | sel | trans | red | ctl
  deriving DecidableEq, Repr

/-- Class and number of sources of an opcode; the condition of SEL is its third. -/
def opInfo (op : Nat) : Option (OpCls × Nat) :=
  match op with
  | 0x01 => some (.arith, 2) | 0x02 => some (.arith, 2) | 0x03 => some (.arith, 2) | 0x04 => some (.arith, 3)
  | 0x05 => some (.arith, 2) | 0x06 => some (.arith, 2) | 0x07 => some (.arith, 1) | 0x08 => some (.arith, 1)
  | 0x09 => some (.move, 1)
  | 0x10 => some (.cmp, 2) | 0x11 => some (.cmp, 2) | 0x12 => some (.cmp, 2) | 0x13 => some (.cmp, 2)
  | 0x14 => some (.sel, 2)
  | 0x20 => some (.trans, 1) | 0x21 => some (.trans, 1) | 0x22 => some (.trans, 1) | 0x23 => some (.trans, 1)
  | 0x24 => some (.trans, 1) | 0x25 => some (.trans, 1) | 0x26 => some (.trans, 1) | 0x27 => some (.trans, 2)
  | 0x28 => some (.trans, 1) | 0x29 => some (.trans, 1) | 0x2A => some (.trans, 1)
  | 0x30 => some (.red, 1) | 0x31 => some (.red, 1) | 0x32 => some (.red, 1) | 0x33 => some (.red, 1)
  | 0x34 => some (.red, 1) | 0x35 => some (.red, 1)
  | 0x40 => some (.ctl, 0) | 0x41 => some (.ctl, 0) | 0x42 => some (.ctl, 0) | 0x43 => some (.ctl, 0) | 0x44 => some (.ctl, 0)
  | 0x45 => some (.ctl, 0) | 0x46 => some (.ctl, 0) | 0x47 => some (.ctl, 0) | 0x48 => some (.ctl, 0) | 0x4F => some (.ctl, 0)
  | _ => none

/-- The working type (R152). -/
def Ins.wfmt (i : Ins) : Option Fmt :=
  match i.wt with | 0 => some .fp64 | 1 => some .fp32 | 2 => some .bf16 | 0xA => some .int32 | _ => none

/-- The source selectors that the opcode uses; the condition of SEL apart. -/
def Ins.sources (i : Ins) : List Nat :=
  match opInfo i.op with
  | some (_, n) => [i.s0, i.s1, i.s2].take n
  | none => []

/-- A format that a W operand may have (R153). -/
def mfmtOk (m : Nat) : Bool := match fmtOf m with | some f => !fmtAlwaysScaled f | none => false

def srcOk (tensor : Bool) (x : Nat) : Bool :=
  match selOf x with
  | some (.v _) => !tensor | some (.w _) => !tensor | some .tq => !tensor | some .acc => !tensor
  | some .imm => true | some (.t _) => tensor | _ => false

def dstOk (tensor cmp : Bool) (x : Nat) : Bool :=
  match selOf x with
  | some (.k n) => cmp && n != 0
  | some (.t _) => tensor
  | some (.v _) => !tensor && !cmp | some (.w _) => !tensor && !cmp | some .acc => !tensor && !cmp
  | _ => false

def condOk (tensor : Bool) (x : Nat) : Bool :=
  match selOf x with | some (.k _) => true | some (.t _) => tensor | _ => false

def usesW (x : Nat) : Bool := match selOf x with | some (.w _) => true | _ => false

/-- SETACC's fields (R169): SEG, SHAPE, ACC_FMT, PART, DEFINE. -/
def accSeg (imm : Nat) : Nat := bitsOf imm 5 0
def accShape (imm : Nat) : Nat := bitsOf imm 9 8
def accCode (imm : Nat) : Nat := bitsOf imm 11 10
def accPart (imm : Nat) : Nat := bitsOf imm 13 12

/-- The fields of one word, alone (R147, R152, R153): a source selector that the opcode does not use is no reserved value either, and stochastic
rounding is for a MOV and the reductions alone. DESIGN CHOICE (log 107) on the bits that no table names: IMM[31:6] and COUNT[31:12] of a LOOP,
IMM[7:6], IMM[31:15] and COUNT[31:16] of a SETACC and bits 31:30 of DESC must be 0; an MFMT without a format is refused only where an operand is a
W operand. -/
def insOk (w : Nat) : Bool :=
  let i := parseIns w
  match opInfo i.op, i.wfmt with
  | some (cls, _), some wf =>
    i.rnd < 3 && i.rsv == 0 && [i.s0, i.s1, i.s2].all (fun x => (selOf x).isSome) && (i.rnd != 2 || cls == .move || cls == .red) &&
    (if cls = .ctl then
      i.mode == 2 &&
      (match i.op with
       | 0x42 => i.imm < 64 && i.cnt < 4096
       | 0x43 => i.imm < 0x8000 && bitsOf i.imm 7 6 == 0 && accCode i.imm < 3 && accPart i.imm < 3 && i.cnt < 65536 &&
           (accCode i.imm != 2 || accPart i.imm == 0)
       | _ => true)
     else
      let tensor := i.mode == 1
      i.mode < 2 && i.sources.all (srcOk tensor) && dstOk tensor (cls == .cmp) i.dst && (cls != .sel || condOk tensor i.s2) &&
      (wf != .int32 || cls != .trans || i.op == 0x27) &&
      (if tensor then i.cnt < 2 ^ 30 && i.cnt % 64 == 0
       else 1 ≤ i.cnt && i.cnt ≤ 4096 && (mfmtOk i.mfmt || !((i.dst :: i.sources).any usesW))))
  | _, _ => false

/-- Depth of the LOOP nest around each word, and bodies that reach past END (R163). -/
def loopsOk (ws : List Nat) : Bool :=
  let n := ws.length
  let body (p : Nat) : Nat := p + bitsOf (ws.getD p 0) 37 32 + 1
  let isLoop (p : Nat) : Bool := bitsOf (ws.getD p 0) 127 120 = 0x42
  let isEnd (p : Nat) : Bool := bitsOf (ws.getD p 0) 127 120 = 0x4F
  (List.range n).all (fun p => !isLoop p ||
    (body p < n && (countFrom (p + 1) (body p - p - 1)).all (fun q => !isEnd q) &&
     ((List.range p).filter (fun q => isLoop q && p ≤ body q)).length < 4))

/-- A kernel decodes (R147). -/
def kernelOk (ws : List Nat) : Bool :=
  ws.all insOk && loopsOk ws && (parseIns (ws.getLastD 0)).op == 0x4F

/-! Elements. -/

/-- An element as an instruction reads it: its format and bits when it is one unscaled encoding, its exact value, and what reading it
counts (R80, R152). -/
structure SElem where
  fmt : Option Fmt
  bits : Nat
  val : Val
  sat : Bool := false
  nonfin : Bool := false
  deriving DecidableEq, Repr

/-- An element in a format without a block scale. -/
def plainElem (f : Fmt) (bits : Nat) : SElem := ⟨some f, bits, valOf f bits, false, false⟩

/-- An exact value. -/
def exactElem (v : Val) : SElem := ⟨none, 0, v, false, false⟩

/-- An element under a block scale (R81). DESIGN CHOICE (log 76): a tensor MOV between slots of one element format, of which one or both are
scaled, converts each element (R160); it is no copy of bits. -/
def scaledElem (f : Fmt) (x bits : Nat) : SElem := ⟨none, 0, scaledBy x (valOf f bits), gq8Bad f bits, false⟩

/-- An immediate in the working type (R152): an integer for INT32; else an FP32 pattern, copied for FP32 (R79) and converted once for the
other types. -/
def immIn (f : Fmt) (mode : RMode) (imm : Nat) : SElem :=
  if f = .int32 || f == .fp32 then plainElem f imm
  else
    let r := roundTo f mode (valOf .fp32 imm)
    { plainElem f r.bits with sat := r.sat, nonfin := r.nonfin }

/-- Conversion of an element to a format (R88, R155): the same format is a copy of bits (R79). -/
def SElem.to (e : SElem) (f : Fmt) (mode : RMode) : Rounded :=
  if e.fmt = some f then ⟨e.bits, false, false⟩ else roundTo f mode e.val

/-- Saturations and non-finite results counted so far (R172). -/
structure Tally where
  sat : Nat := 0
  nonfin : Nat := 0
  deriving DecidableEq, Repr

def Tally.add (c : Tally) (r : Rounded) : Tally := ⟨c.sat + b2n r.sat, c.nonfin + b2n r.nonfin⟩
/-- What reading an element counts. -/
def Tally.bad (c : Tally) (e : SElem) : Tally := ⟨c.sat + b2n e.sat, c.nonfin + b2n e.nonfin⟩
def Tally.join (a b : Tally) : Tally := ⟨a.sat + b.sat, a.nonfin + b.nonfin⟩

/-! Operations (R161, table of defined results). -/

/-- INT32 division. -/
def intDiv (a b : Int) : Rounded :=
  if b = 0 then
    (if a > 0 then ⟨0x7FFFFFFF, true, false⟩ else if a < 0 then ⟨0x80000000, true, false⟩ else ⟨0, false, false⟩)
  else roundTo .int32 .rne (vInt (Int.tdiv a b))

/-- The function of an opcode of the transcendental class that needs an enclosure. -/
def tfunOf (op : Nat) : Option TFun :=
  match op with
  | 0x20 => some .exp2 | 0x21 => some .exp | 0x22 => some .log2 | 0x23 => some .log
  | 0x28 => some .sin | 0x29 => some .cos | 0x2A => some .tanh | _ => none

/-- The exact value of an operation lies above the largest finite magnitude of a float format in round toward zero: the result is ±max and
counts one saturation (R172), also where the value lies below the next step of the grid. -/
def overMax (f : Fmt) (mode : RMode) (v : Val) : Bool :=
  !fmtIsInt f && mode == .rtz &&
  (match v, valOf f (fmtMaxBits f) with | .fin _ m e, .fin _ mm me => magLt mm me m e | _, _ => false)

/-- An exact result rounded once to the working type, with what it counts (R161, R172). -/
def roundOp (f : Fmt) (mode : RMode) (v : Val) : Rounded :=
  let r := roundTo f mode v
  { r with sat := r.sat || overMax f mode v }

/-- The same for a function known by enclosures: its values are never the largest finite one, so a result of ±max in round toward zero
stands for a value above it (R172). -/
def transOp (f : Fmt) (mode : RMode) (g : TFun) (v : Val) : Rounded :=
  let r := transc f mode g v
  { r with sat := r.sat || (mode == .rtz && r.bits % 2 ^ (fmtWidth f - 1) == fmtMaxBits f) }

/-- The result of an arithmetic or transcendental operation, rounded once to the working type. -/
def vop (op : Nat) (f : Fmt) (mode : RMode) (a b c : Val) : Rounded :=
  match op with
  | 0x01 => roundOp f mode (vAdd a b)
  | 0x02 => roundOp f mode (vSub a b)
  | 0x03 => roundOp f mode (vMul a b)
  | 0x04 => roundOp f mode (vAdd (vMul a b) c)
  | 0x05 => roundOp f mode (vMin a b)
  | 0x06 => roundOp f mode (vMax a b)
  | 0x07 => roundOp f mode (vAbs a)
  | 0x08 => roundOp f mode (vNeg a)
  | 0x24 => roundOp f mode (vDiv vOne a)
  | 0x25 => roundOp f mode (vSqrt a)
  | 0x26 => roundOp f mode (vRsqrt a)
  | 0x27 => if f = .int32 then intDiv (intOf a) (intOf b) else roundOp f mode (vDiv a b)
  | _ => match tfunOf op with | some g => transOp f mode g a | none => ⟨0, false, false⟩

/-- A comparison (R160): NaN makes only CMPNE true. -/
def vcmp (op : Nat) (a b : Val) : Bool :=
  match op with
  | 0x10 => vEq a b
  | 0x11 => !vEq a b
  | 0x12 => vLt a b
  | _ => vLt a b || vEq a b

/-! Reductions (R135 to R137, R141 to R144). -/

/-- The form in which elements of a format are reduced (R135). -/
def formOf (f : Fmt) : Fmt := match f with | .fp64 => .fp64 | .int8 => .int32 | .int32 => .int32 | _ => .fp32

/-- The product node (R136), with the INT32 saturations so far. -/
def nodeProd (f : Fmt) (a b : Val × Nat) : Val × Nat :=
  if f = .int32 then let (i, sat) := satInt32 (intOf a.1 * intOf b.1); (vInt i, a.2 + b.2 + b2n sat)
  else (rneVal f (vMul a.1 b.1), 0)

/-- Reduce the elements of a line, in index order, each with its index; a masked one is an empty leaf (R144). The value, the index of an
argmax or argmin, and saturations; none when nothing is active. DESIGN CHOICE (log 73): the chunks of 32 of a sum are cut by index. -/
def reduce (op : Nat) (f : Fmt) (l : List (Option (Val × Nat))) : Option (Val × Nat × Nat) :=
  let vals : List (Option Val) := l.map (fun x => x.map Prod.fst)
  if l.all Option.isNone then none
  else
    match op with
    | 0x30 => let (a, n) := accumulateIn f (chunksOf 32 vals); some (a.exact, 0, n)
    | 0x31 => (tree (nodeProd f) (vals.map (fun x => x.map (fun v => (v, 0))))).map (fun x => (x.1, 0, x.2))
    | 0x32 => (tree vMax vals).map (fun v => (v, 0, 0))
    | 0x33 => (tree vMin vals).map (fun v => (v, 0, 0))
    | 0x34 => (tree (nodeArg true) l).map (fun x => (x.1, x.2, 0))
    | _ => (tree (nodeArg false) l).map (fun x => (x.1, x.2, 0))

def isArg (op : Nat) : Bool := op == 0x34 || op == 0x35

/-- The identity of a reduction in a format (R141); index 0xFFFF_FFFF of an argmax or argmin is written apart. -/
def identityBits (op : Nat) (f : Fmt) : Nat :=
  match op with
  | 0x30 => 0
  | 0x31 => oneBits f
  | 0x32 => extreme f true
  | 0x34 => extreme f true
  | _ => extreme f false

/-- The result status word (R143): for each result in order, whether it is empty, and whether it is infinite or NaN. -/
def statusWord (rs : List (Bool × Bool)) : Nat :=
  let first := rs.findIdx (fun r => r.1)
  b2n (rs.any (fun r => r.1)) + 2 * b2n (rs.any (fun r => r.2 && !r.1)) + 4 * b2n (rs.all (fun r => r.1)) +
  2 ^ 32 * (if first < rs.length then first else 0xFFFFFFFF)

/-- Elements per cycle (R162). -/
def lanes (cls : OpCls) (f : Fmt) : Nat :=
  match cls, f with
  | .trans, .fp64 => 128 | .trans, .bf16 => 512 | .trans, _ => 256
  | .move, .fp64 => 512 | .move, _ => 1024
  | _, .fp64 => 512 | _, .bf16 => 2048 | _, _ => 1024

end Sys2Proof.Machine
end

