-- ==== Sys2Proof/Machine/Lanes.lean ====
section
/-!
DEFINITION. What one vector instruction does: count mode (R154, R155, R162), tensor mode (R156 to R160), the accumulator file (R169 to
R171) and the tile queue as a source (R166).
-/
namespace Sys2Proof.Machine

/-- Why an instruction does not complete: it waits, or ends with a status code (R147 to R151, R154, R171). -/
inductive Stop where
  | wait (w : VWait)
  | fail (code : Nat)
  deriving DecidableEq, Repr

/-- A vector engine at work: its engine, context, heat and instruction. -/
structure Lane where
  e : Nat
  ctx : Nat
  heat : Nat
  i : Ins
  f : Fmt
  deriving DecidableEq, Repr

def Lane.die (l : Lane) : Nat := l.e / 48
def Lane.vreg (s : State) (l : Lane) (n k : Nat) : Nat := Sparse.at? 0 (s.eng l.e).v (4096 * n + k) % 2 ^ fmtWidth l.f
/-- K0 reads as all ones (R150). -/
def EngSt.mask (x : EngSt) (n k : Nat) : Bool := n = 0 || bitOf (x.k.getD (n - 1) 0) k
def EngSt.setMask (x : EngSt) (n k : Nat) (b : Bool) : EngSt :=
  { x with k := modAt (fun v => setBits v k k (b2n b)) x.k (n - 1) }

/-- Rounding mode for an element with a tensor id and index (R91, R93, R94). DESIGN CHOICE (log 107): the index of a count-mode element, SETSR's base
plus k, wraps modulo 2⁴⁰; a tensor slot whose indices do not fit is refused (R95). -/
def Lane.mode (s : State) (l : Lane) (tid idx : Nat) : RMode :=
  modeOf l.i.rnd (if l.i.rnd = 2 then srHash (s.ctx l.ctx).seed tid (idx % 2 ^ 40) l.heat else 0)

/-- Mode of element k of a count-mode instruction: the rounding source of SETSR (R163). -/
def Lane.kmode (s : State) (l : Lane) (k : Nat) : RMode :=
  let x := s.eng l.e
  l.mode s x.srcTid (x.srcBase + k)

/-! The accumulator file. -/

/-- The tile the accumulator pointer names, when it is live (R169). -/
def EngSt.accTile (x : EngSt) : Option Tile :=
  x.tiles.find? (fun t => t.live && t.seg == accSeg x.accImm && t.shape == accShape x.accImm && t.fmt == accCode x.accImm)

/-- Segments reserved to the matrix engine (R171). -/
def State.reserved (s : State) (e seg n : Nat) : Bool :=
  match s.runningOn (meUnit e) with
  | some r =>
    let d := parseProd r.held.pour.action r.held.bytes
    let m := tileSegs d.shape d.acc
    r.prog != .ended && (r.held.pour.action == 1 || r.held.pour.action == 2) && d.seg < seg + n && seg < d.seg + m
  | none => false

/-- An access to the pointer's tile may start: `n` elements from `pos` on (R169 to R171). DESIGN CHOICE (log 107): where the pointer names no
live tile any more the access faults with BAD_STATE, as SETACC does. -/
def State.accCheck (s : State) (l : Lane) (pos n : Nat) : Option Stop :=
  let x := s.eng l.e
  let sh := accShape x.accImm
  let c := accCode x.accImm
  if s.reserved l.e (accSeg x.accImm) (tileSegs sh c) then some (.wait .segment)
  else if x.accTile.isNone then some (.fail stBadState)
  else if pos + n > shapeM sh * shapeN sh then some (.fail stBadParam)
  else if c = 2 && l.f != .int32 then some (.fail stBadParam)
  else none

/-- Element of the accumulator tile (R170). -/
def EngSt.accElem (x : EngSt) (p : Nat) : SElem :=
  match x.accTile with
  | none => exactElem vZero
  | some t =>
    let f := accFmt t.fmt
    let b := t.elems.getD p (0, 0)
    if f = .int32 then plainElem f b.1
    else match accPart x.accImm with
      | 1 => plainElem f b.1
      | 2 => plainElem f b.2
      | _ => exactElem (accOf f b).exact

/-- Write elements of the accumulator tile, by position (R170). -/
def EngSt.putAcc (x : EngSt) (ws : List (Nat × Nat)) : EngSt :=
  match x.accTile with
  | none => x
  | some t =>
    let put (es : List (Nat × Nat)) (w : Nat × Nat) : List (Nat × Nat) :=
      modAt (fun b => match accPart x.accImm with | 1 => (w.2, b.2) | 2 => (b.1, w.2) | _ => (w.2, 0)) es w.1
    let t' := { t with elems := ws.foldl put t.elems }
    { x with tiles := x.tiles.map (fun u => if u = t then t' else u) }

/-- 64-bit words of the accumulator store before the one of an element (R109): two for an FP64 element, one for FP32, half for INT32. -/
def accWord (imm p : Nat) : Nat :=
  4096 * accSeg imm + (match accFmt (accCode imm) with | .fp64 => 2 * p | .int32 => p / 2 | _ => p)

/-! Errors in the engine's registers (R151) and in the accumulator words that a kernel reads (R112). -/

/-- The first of the `n` elements of an instruction, or positions in tensor mode, that reads a stored word of its engine: a slot of a source
register, a word of the mask or condition register, an address register, an accumulator word. -/
def State.meetsAt (s : State) (l : Lane) (n : Nat) : StoredWord → Option Nat
  | .vreg e w =>
    let i := l.i
    let x := s.eng l.e
    let cls := ((opInfo i.op).getD (.ctl, 0)).1
    if e ≠ l.e then none
    else if w < 65536 then
      if i.mode = 0 && i.sources.any (fun y => selOf y == some (.v (w / 4096))) && w % 4096 < i.cnt && x.mask i.mask (w % 4096) then
        some (w % 4096) else none
    else if w < 66048 then
      let r := (w - 65536) / 64 + 1
      let k := 64 * ((w - 65536) % 64)
      if cls != .ctl && (i.mask == r || (cls == .sel && selOf i.s2 == some (.k r))) && k < n then some k else none
    else
      let r := w - 66048
      if (i.mode = 0 && ((i.dst :: i.sources).any (fun y => selOf y == some (.w r)) || (cls == .red && r == 7))) ||
         (i.op == 0x41 && i.dst % 8 == r) then some 0 else none
  | .acc e w =>
    let x := s.eng l.e
    let i := l.i
    if e = l.e && i.mode == 0 && i.sources.any (fun y => selOf y == some .acc) then
      (List.range i.cnt).find? (fun k => x.mask i.mask k && accWord x.accImm (x.accPos + k) == w ||
        (accFmt (accCode x.accImm) == .fp64 && x.mask i.mask k && accWord x.accImm (x.accPos + k) + 1 == w))
    else none
  | _ => none

/-- What an instruction meets of the stored errors: corrected words count; the first element or position that meets an uncorrectable one. -/
def State.laneErrors (s : State) (l : Lane) (n : Nat) : State × Option Nat :=
  let hits := s.upsets.filterMap (fun u => (s.meetsAt l n u.1).map (fun k => (k, u.1, u.2)))
  let bad := (hits.filter (fun h => popCount 64 h.2.2 ≥ 2)).foldl (fun (a : Option Nat) h => some (min h.1 (a.getD h.1))) none
  let corr := hits.filter (fun h => popCount 64 h.2.2 = 1 && (match bad with | some b => h.1 ≤ b | none => true))
  let isAcc (h : Nat × StoredWord × Nat) : Bool := match h.2.1 with | .acc _ _ => true | _ => false
  ((s.count .VE_ECC_CORR l.die (l.e % 48) (corr.filter (fun h => !isAcc h)).length).count .ME_ECC_CORR l.die (l.e % 48)
    (corr.filter isAcc).length, bad)

/-- Register words of an engine are written. -/
def State.mendRegs (s : State) (e : Nat) (p : Nat → Bool) : State :=
  s.mend (fun w => match w with | .vreg e' w => e' = e && p w | _ => false)

/-- Accumulator words of the pointer's tile are written, by element. -/
def State.mendAcc (s : State) (e : Nat) (ps : List Nat) : State :=
  let imm := (s.eng e).accImm
  s.mend (fun w => match w with | .acc e' w => e' = e && ps.any (fun p => accWord imm p == w) | _ => false)

/-! The tile queue. -/

/-- Fields of the current tile's header (R123). -/
structure TqTile where
  f : Fmt
  scaled : Bool
  rows : Nat
  cols : Nat
  rowEntries : Nat
  deriving DecidableEq, Repr

def parseTq (h : List Byte) : Option TqTile :=
  let fc := fieldAt h 6 1
  (fmtOf (fc % 16)).map (fun f => ⟨f, fmtScaled f (bitOf fc 4), fieldAt h 12 2, fieldAt h 14 2, fieldAt h 28 2 / 64⟩)

def EngSt.tile (x : EngSt) : Option TqTile := match x.header with | some h => parseTq h | none => none

/-- A read of whole rows may start (R166). -/
def State.tqCheck (s : State) (l : Lane) (n : Nat) : Option Stop :=
  match (s.eng l.e).tile with
  | none => some (.fail stBadParam)
  | some t =>
    if t.cols = 0 || n % t.cols != 0 || (s.eng l.e).rowsRead + n / t.cols > t.rows then some (.fail stBadParam)
    else
      let q := s.queue (.tileData l.e)
      let need := n / t.cols * t.rowEntries
      if q.wrSeen < q.rd + need then some (.wait .queue)
      else if ((countFrom q.rd need).filterMap q.at?).any QEntry.bad then some (.fail stMemUncorrectable)
      else none

/-- The elements of whole rows, and the read position past them. -/
def State.tqRead (s : State) (l : Lane) (n : Nat) : State × List SElem :=
  match (s.eng l.e).tile with
  | none => (s, [])
  | some t =>
    let q := s.queue (.tileData l.e)
    let rows := n / t.cols
    let es := (countFrom q.rd (rows * t.rowEntries)).filterMap q.at?
    let s := s.queueEcc (.tileData l.e) (es.foldl (fun n x => n + x.corr) 0)
    let pad := if t.scaled || fmtWidth t.f < 8 then ceilDiv t.cols 32 * 32 else t.cols
    let row (r : Nat) : List SElem :=
      let bs := ((es.drop (r * t.rowEntries)).take t.rowEntries).flatMap QEntry.bytes
      (List.range t.cols).map (fun c =>
        let b := leNat bs >>> (c * fmtWidth t.f) % 2 ^ fmtWidth t.f
        if t.scaled then scaledElem t.f (fieldAt bs (elemBytes t.f pad + c / 32) 1) b else plainElem t.f b)
    let s := s.setQueue (.tileData l.e) (fun q => q.readN (rows * t.rowEntries))
    (s.setEng l.e (fun x => { x with rowsRead := x.rowsRead + rows }), (List.range rows).flatMap row)

/-! Count mode. -/

def Lane.mf (l : Lane) : Fmt := (fmtOf l.i.mfmt).getD .fp32
/-- The byte offset of a W operand: its address register. -/
def Lane.wAddr (s : State) (l : Lane) (n : Nat) : Nat := (s.eng l.e).a.getD n 0
/-- Bytes of `n` elements of a W operand. -/
def Lane.wLen (l : Lane) (n : Nat) : Nat := n * fmtWidth l.mf / 8

/-- Format of the elements of a count-mode operand. -/
def State.opFmt (s : State) (l : Lane) (x : Nat) : Fmt :=
  match selOf x with
  | some (.w _) => l.mf
  | some .acc => accFmt (accCode (s.eng l.e).accImm)
  | some .tq => match (s.eng l.e).tile with | some t => t.f | none => l.f
  | _ => l.f

def Lane.cls (l : Lane) : OpCls := ((opInfo l.i.op).getD (.ctl, 0)).1

/-- Elements that an instruction writes to a count-mode destination: a reduction writes one, an argmax or argmin two (R154, R162). -/
def Lane.written (l : Lane) : Nat := if l.cls = .red then (if isArg l.i.op then 2 else 1) else l.i.cnt

/-- A range of working store of the lane's die lies in the context's banks. -/
def State.laneBanks (s : State) (l : Lane) (off n : Nat) : Bool := inBanks (s.ctx l.ctx).part l.die off n

/-- The checks that a count-mode operand of `n` elements makes when the instruction starts (R154, R166, R169). -/
def State.operandCheck (s : State) (l : Lane) (x n : Nat) : Option Stop :=
  match selOf x with
  | some (.w r) =>
    let a := l.wAddr s r
    if a % (fmtWidth l.mf / 8) ≠ 0 then some (.fail stBadParam)
    else if !s.laneBanks l a (l.wLen n) then some (.fail stTranslationFault)
    else none
  | some .acc => s.accCheck l (s.eng l.e).accPos (max n l.i.cnt)
  | some .tq => s.tqCheck l l.i.cnt
  | _ => none

/-- The IMM element in the working type (R152). -/
def Lane.immElem (s : State) (l : Lane) (k : Nat) : SElem := immIn l.f (l.kmode s k) l.i.imm

/-- The elements of a count-mode source. -/
def State.countSource (s : State) (l : Lane) (x : Nat) (tq : List SElem) : State × Option (List SElem) :=
  let ks := List.range l.i.cnt
  match selOf x with
  | some (.v n) => (s, some (ks.map (fun k => plainElem l.f (Lane.vreg s l n k))))
  | some (.w n) =>
    match s.load (wsAt l.die (l.wAddr s n)) (l.wLen l.i.cnt) with
    | (s, none) => (s, none)
    | (s, some bs) => (s, some ((unpackElems l.mf bs l.i.cnt).map (plainElem l.mf)))
  | some .imm => (s, some (ks.map (fun k => l.immElem s k)))
  | some .tq => (s, some tq)
  | some .acc => let y := s.eng l.e; (s, some (ks.map (fun k => y.accElem (y.accPos + k))))
  | _ => (s, some [])

/-- Runs of written elements: addresses and bytes (`w` bytes an element; none keeps the old value). -/
def runsOf (w : Nat) : Nat → List (Option Nat) → List (Nat × List Byte)
  | _, [] => []
  | p, none :: l => runsOf w (p + w) l
  | p, some b :: l =>
    match runsOf w (p + w) l with
    | (q, bs) :: rest => if q = p + w then (p, leBytes w b ++ bs) :: rest else (p, leBytes w b) :: (q, bs) :: rest
    | [] => [(p, leBytes w b)]

/-- The format a count-mode destination takes. -/
def Lane.dstFmt (s : State) (l : Lane) : Fmt := s.opFmt l l.i.dst

/-- Rounding of a write to the destination: an accumulator write is always to nearest-even (R170). -/
def Lane.dstMode (s : State) (l : Lane) (k : Nat) : RMode :=
  match selOf l.i.dst with | some .acc => .rne | _ => l.kmode s k

/-- Write the elements of a count-mode destination: encodings in its format, none where nothing is written. -/
def State.countWrite (s : State) (l : Lane) (rs : List (Option Nat)) : State × Bool :=
  let ks := (rs.zip (List.range rs.length)).filterMap (fun (r, k) => r.map (fun b => (k, b)))
  match selOf l.i.dst with
  | some (.v n) =>
    ((s.setEng l.e (fun x => { x with v := ks.foldl (fun v (k, b) => Sparse.put 0 v (4096 * n + k) b) x.v })).mendRegs l.e
      (fun w => w / 4096 == n && ks.any (fun q => q.1 == w % 4096)), true)
  | some (.k n) =>
    ((s.setEng l.e (fun x => ks.foldl (fun x (k, b) => x.setMask n k (b = 1)) x)).mendRegs l.e
      (fun w => ks.any (fun q => w == 65536 + 64 * (n - 1) + q.1 / 64)), true)
  | some (.w n) =>
    (runsOf (fmtWidth l.mf / 8) (wsAt l.die (l.wAddr s n)) rs).foldl (fun (acc : State × Bool) (a, bs) =>
      if acc.2 then acc.1.save a bs else acc) (s, true)
  | some .acc =>
    ((s.setEng l.e (fun x => x.putAcc (ks.map (fun (k, b) => (x.accPos + k, b))))).mendAcc l.e
      (ks.map (fun q => (s.eng l.e).accPos + q.1)), true)
  | _ => (s, true)

/-- Count what an instruction counts (R172). -/
def State.tally (s : State) (l : Lane) (c : Tally) : State :=
  (s.count .VE_SAT l.die (l.e % 48) c.sat).count .VE_NONFINITE l.die (l.e % 48) c.nonfin

/-- One element's result: its encoding in the destination format and what it counts. -/
def elemResult (cls : OpCls) (op : Nat) (f df : Fmt) (mode dmode : RMode) (es : List SElem) (cond : Bool) : Nat × Tally :=
  let get (j : Nat) : SElem := es.getD j (exactElem vZero)
  let c0 := es.foldl Tally.bad {}
  match cls with
  | .move => let r := (get 0).to df dmode; (r.bits, c0.add r)
  | .cmp => (b2n (vcmp op (valOf f ((get 0).to f mode).bits) (valOf f ((get 1).to f mode).bits)), {})
  | .sel =>
    let r := (get (if cond then 0 else 1)).to f mode
    (if df = f then r.bits else (roundTo df dmode (valOf f r.bits)).bits, {})
  | _ =>
    let a := es.map (fun e => e.to f mode)
    let c1 := a.foldl Tally.add c0
    let v (j : Nat) : Val := valOf f (a.getD j ⟨0, false, false⟩).bits
    let r := vop op f mode (v 0) (v 1) (v 2)
    let c2 := c1.add r
    if df = f then (r.bits, c2) else let d := roundTo df dmode (valOf f r.bits); (d.bits, c2.add d)

/-- An element of a reduction as it is reduced: converted to the working type (R155, R160, R170), then accumulated in the form that R135
gives for its own format. DEDUCED (log 73). -/
def redElem (f : Fmt) (mode : RMode) (e : SElem) (k : Nat) : (Val × Nat) × Tally :=
  let r := e.to f mode
  ((valOf f r.bits, k), (({} : Tally).bad e).add r)

/-- The index of an argmax or argmin as it is written: its INT32 pattern, or, where the destination cannot hold that (`raw` is false),
the number converted to the destination's format. DESIGN CHOICE (log 74). -/
def indexIn (f : Fmt) (raw : Bool) (mode : RMode) (i : Nat) : Rounded :=
  if raw then ⟨i % 2 ^ 32, false, false⟩ else roundTo f mode (vInt (toInt 32 i))

/-- Results of a reduction as they are written (for an argmax or argmin the index, then the value), saturations on the way, and whether it
is empty. An identity counts nothing (R141, R172). -/
def reduceResult (op : Nat) (form df vf : Fmt) (raw : Bool) (mode mode1 : RMode) (l : List (Option (Val × Nat))) :
    List Rounded × Nat × Bool :=
  match reduce op form l with
  | none =>
    (if isArg op then [indexIn df raw mode 0xFFFFFFFF, ⟨identityBits op vf, false, false⟩] else [⟨identityBits op df, false, false⟩], 0, true)
  | some (v, i, n) => (if isArg op then [indexIn df raw mode i, roundTo vf mode1 v] else [roundTo df mode v], n, false)

/-- Write a result status word (R143). -/
def State.putStatus (s : State) (l : Lane) (off : Nat) (rs : List (Bool × Bool)) : State × Bool :=
  s.save (wsAt l.die off) (leBytes 8 (statusWord rs))

/-- The sources of a count-mode instruction, read in order. -/
def State.countSources (l : Lane) (tq : List SElem) : List Nat → State → State × Option (List (List SElem))
  | [], s => (s, some [])
  | x :: rest, s =>
    match s.countSource l x tq with
    | (s, none) => (s, none)
    | (s, some es) =>
      match State.countSources l tq rest s with
      | (s, none) => (s, none)
      | (s, some ls) => (s, some (es :: ls))

/-- The index of an argmax or argmin is written as an INT32 pattern: to a register, or to a working-store element that holds 32 bits. -/
def Lane.rawIndex (l : Lane) : Bool :=
  match selOf l.i.dst with | some (.v _) => true | some (.w _) => decide (32 ≤ fmtWidth l.mf) | _ => false

/-- The checks of a count-mode instruction when it starts (R142, R154, R162, R166, R169 to R171): a failing one comes before a wait. -/
def State.countCheck (s : State) (l : Lane) : Option Stop :=
  let i := l.i
  let a7 := (s.eng l.e).a.getD 7 0
  let status := if l.cls ≠ .red then []
    else if a7 % 8 ≠ 0 then [Stop.fail stBadParam]
    else if !s.laneBanks l a7 8 then [Stop.fail stTranslationFault]
    else if i.op = 0x31 && (i.dst :: i.sources).any (fun x => s.opFmt l x == .gq8) then [Stop.fail stBadParam]
    else []
  let all := status ++ (s.operandCheck l i.dst l.written).toList ++ i.sources.filterMap (fun x => s.operandCheck l x i.cnt)
  match all.find? (fun c => match c with | .fail _ => true | .wait _ => false) with
  | some c => some c
  | none => all.head?

/-- A count-mode reduction over source elements (R162): its result, or none on an uncorrectable word. -/
def State.countReduce (s : State) (l : Lane) (es : List SElem) : State × Bool :=
  let x := s.eng l.e
  let df := l.dstFmt s
  let line := (es.zip (List.range es.length)).map (fun (e, k) => if x.mask l.i.mask k then some (redElem l.f (l.kmode s k) e k) else none)
  let (rs, n, empty) := reduceResult l.i.op (formOf (s.opFmt l l.i.s0)) df df l.rawIndex (l.dstMode s 0) (l.dstMode s 1)
    (line.map (fun r => r.map Prod.fst))
  let c := (line.filterMap (fun r => r.map Prod.snd)).foldl Tally.join ⟨n, 0⟩
  match s.countWrite l (rs.map (fun r => some r.bits)) with
  | (s, false) => (s, false)
  | (s, true) =>
    match s.putStatus l ((s.eng l.e).a.getD 7 0) [(empty, rs.any (fun r => r.nonfin))] with
    | (s, false) => (s, false)
    | (s, true) => (s.tally l (rs.foldl Tally.add c), true)

/-- The elements of a count-mode instruction that is no reduction, up to element `lim`: encodings in the destination's format, and what
they count. -/
def State.countResults (s : State) (l : Lane) (srcs : List (List SElem)) (lim : Nat) : List (Option Nat × Tally) :=
  let x := s.eng l.e
  let df := l.dstFmt s
  let cond (k : Nat) : Bool := match selOf l.i.s2 with | some (.k m) => x.mask m k | _ => false
  (List.range l.i.cnt).map (fun k =>
    if x.mask l.i.mask k && k < lim then
      let (b, c) := elemResult l.cls l.i.op l.f df (l.kmode s k) (l.dstMode s k) (srcs.map (fun es => es.getD k (exactElem vZero))) (cond k)
      (some b, c)
    else (none, {}))

/-- A count-mode instruction (R151, R154, R155, R162): the state after it, or why it stops. -/
def State.runCount (s : State) (l : Lane) : State × Option Stop :=
  let i := l.i
  let n := i.cnt
  match s.countCheck l with
  | some c => (s, some c)
  | none =>
    let (s, bad) := s.laneErrors l n
    if bad.isSome && l.cls = .red then (s, some (.fail stMemUncorrectable)) else
    let (s, tq) := if i.sources.any (fun x => selOf x = some .tq) then s.tqRead l n else (s, [])
    match State.countSources l tq i.sources s with
    | (s, none) => (s, some (.fail stMemUncorrectable))
    | (s, some srcs) =>
      let usesAcc := (i.dst :: i.sources).any (fun y => selOf y = some .acc)
      let finish (s : State) : State := if usesAcc then s.setEng l.e (fun x => { x with accPos := x.accPos + n }) else s
      if l.cls = .red then
        match s.countReduce l (srcs.getD 0 []) with
        | (s, true) => (finish s, none)
        | (s, false) => (s, some (.fail stMemUncorrectable))
      else
        let rs := s.countResults l srcs (bad.getD n)
        match s.countWrite l (rs.map Prod.fst) with
        | (s, false) => (s, some (.fail stMemUncorrectable))
        | (s, true) =>
          let s := s.tally l ((rs.map Prod.snd).foldl Tally.join {})
          if bad.isSome then (s, some (.fail stMemUncorrectable)) else (finish s, none)

/-! Tensor mode. -/

/-- A tensor slot (R156). -/
structure Slot where
  off : Nat
  soff : Nat
  f : Fmt
  scaled : Bool
  acc : Bool
  tid : Nat
  sizes : List Nat
  strides : List Nat
  base : Nat
  deriving DecidableEq, Repr

/-- The group of R77 in bytes: the alignment of an element array. -/
def groupBytes (f : Fmt) : Nat := match f with | .e3m2 => 3 | .e2m3 => 3 | _ => 1

/-- Read a slot; none when a field fails R75, R156 or R158. FMT, STRIDE and the offsets of a LOC = 1 slot are ignored (R159). -/
def parseSlot (b : List Byte) : Option Slot :=
  let fc := fieldAt b 8 1
  let acc := fieldAt b 9 1 = 1
  match (if acc then some Fmt.fp32 else fmtOf (fc % 16)) with
  | none => none
  | some f =>
    let sl : Slot := { off := fieldAt b 0 4, soff := fieldAt b 4 4 % 2 ^ 30, f := f, scaled := !acc && fmtScaled f (bitOf fc 4)
                       acc := acc, tid := fieldAt b 12 4, sizes := entriesAt b 16 4 5, strides := entriesAt b 36 4 4
                       base := fieldAt b 52 5 }
    let w := fmtWidth f
    if fieldAt b 9 1 < 2 && zeroAt b 10 2 && sl.tid < 2 ^ 24 && sl.sizes.all (fun n => 1 ≤ n) && zeroAt b 57 7 &&
       (sl.acc || (fc < 32 && fmtFlagOk f (bitOf fc 4) && sl.off < 2 ^ 30 && sl.off % groupBytes f == 0 &&
         sl.strides.all (fun st => st * 8 % w == 0 && (!sl.scaled || st * 8 / w % 32 == 0)))) then some sl else none

/-- Positions of a shape. -/
def volume (sizes : List Nat) : Nat := sizes.foldl (· * ·) 1

/-- The coordinates of position k, dimension 0 innermost (R160). -/
def coords : List Nat → Nat → List Nat
  | [], _ => []
  | n :: l, k => k % n :: coords l (k / n)

/-- Coordinates in a slot: a dimension of size 1 repeats its element (R157). -/
def Slot.at (sl : Slot) (c : List Nat) : List Nat := (sl.sizes.zip c).map (fun (n, x) => if n = 1 then 0 else x)

/-- Element position o of coordinates (R158). -/
def Slot.pos (sl : Slot) (c : List Nat) : Nat :=
  let c := sl.at c
  c.getD 0 0 + ((c.drop 1).zip sl.strides).foldl (fun o (x, st) => o + x * st * 8 / fmtWidth sl.f) 0

/-- Tile position of coordinates in a LOC = 1 slot (R159). -/
def Slot.tilePos (sl : Slot) (c : List Nat) : Nat := let c := sl.at c; c.getD 1 0 * sl.sizes.getD 0 1 + c.getD 0 0

/-- The element index of R94 at coordinates, without BASE_IDX (R158, R159). -/
def Slot.index (sl : Slot) (c : List Nat) : Nat := if sl.acc then sl.tilePos c else sl.pos c

/-- Rounding mode of the element at coordinates of the slot that is written (R95, R158). -/
def Slot.mode (s : State) (l : Lane) (sl : Slot) (c : List Nat) : RMode := l.mode s sl.tid (sl.base + sl.index c)

/-- Every element index of a slot is below 2⁴⁰ (R95). -/
def Slot.indexOk (sl : Slot) : Bool := decide (sl.base + sl.index (sl.sizes.map (fun n => n - 1)) < 2 ^ 40)

/-- Byte offset and bytes that hold the element at position o, and its bit in them. -/
def Slot.bytesAt (sl : Slot) (o : Nat) : Nat × Nat × Nat :=
  let w := fmtWidth sl.f
  let bit := o * w
  (sl.off + bit / 8, ceilDiv (bit % 8 + w) 8, bit % 8)

/-- Every byte of a slot lies in the context's banks (R154, R159); `whole` takes in the pads of a scaled slot's blocks, which a write covers. -/
def State.slotBanks (s : State) (l : Lane) (whole : Bool) (sl : Slot) : Bool :=
  sl.acc ||
  (List.range (volume (sl.sizes.drop 1))).all (fun r =>
    let o := sl.pos (0 :: coords (sl.sizes.drop 1) r)
    let n := let n := sl.sizes.getD 0 1; if whole && sl.scaled then ceilDiv n 32 * 32 else n
    let (a, _, _) := sl.bytesAt o
    let (b, m, _) := sl.bytesAt (o + n - 1)
    s.laneBanks l a (b + m - a) && (!sl.scaled || s.laneBanks l (sl.soff + o / 32) ((o + n - 1) / 32 - o / 32 + 1)))

/-- The element of a slot at coordinates. -/
def State.slotElem (s : State) (l : Lane) (sl : Slot) (c : List Nat) : State × Option SElem :=
  if sl.acc then (s, some ((s.eng l.e).accElem (sl.tilePos c)))
  else
    let o := sl.pos c
    let (a, n, sh) := sl.bytesAt o
    match s.getWs (wsAt l.die a) n with
    | (s, none) => (s, none)
    | (s, some bs) =>
      let b := leNat bs >>> sh % 2 ^ fmtWidth sl.f
      if sl.scaled then
        match s.getWs (wsAt l.die (sl.soff + o / 32)) 1 with
        | (s, none) => (s, none)
        | (s, some x) => (s, some (scaledElem sl.f (leNat x) b))
      else (s, some (plainElem sl.f b))

/-- A tensor descriptor (R156). -/
structure Tensor where
  slots : List (Option Slot)
  rdim : Nat
  maskSlot : Nat
  status : Nat
  deriving DecidableEq, Repr

def parseTensor (b : List Byte) : Option Tensor :=
  let use := fieldAt b 0 1
  let slots := (List.range 4).map (fun k => if bitOf use k then parseSlot ((b.drop (64 + 64 * k)).take 64) else none)
  if use < 16 && zeroAt b 3 1 && zeroAt b 8 56 && fieldAt b 4 4 < 2 ^ 30 && fieldAt b 4 4 % 8 == 0 && fieldAt b 2 1 < 4 &&
     (List.range 4).all (fun k => !bitOf use k || (slots.getD k none).isSome) then
    some ⟨slots, fieldAt b 1 1, fieldAt b 2 1, fieldAt b 4 4⟩
  else none

def Tensor.slot (d : Tensor) (x : Nat) : Option Slot := match selOf x with | some (.t k) => d.slots.getD k none | _ => none
def isSlot (x : Nat) : Bool := match selOf x with | some (.t _) => true | _ => false

/-- Slots that an instruction names: by its selectors, the condition of SEL among them, and as its mask. -/
def Tensor.sources (d : Tensor) (i : Ins) : List Slot :=
  (i.sources ++ (if ((opInfo i.op).map Prod.fst) == some .sel then [i.s2] else [])).filterMap d.slot ++
  (if d.maskSlot = 0 then [] else (d.slots.getD d.maskSlot none).toList)
def Tensor.named (d : Tensor) (i : Ins) : List Slot := (d.slot i.dst).toList ++ d.sources i

/-- Format of a slot's elements: that of the accumulator pointer's tile for a LOC = 1 slot. -/
def State.slotFmt (s : State) (l : Lane) (sl : Slot) : Fmt := if sl.acc then accFmt (accCode (s.eng l.e).accImm) else sl.f

/-- The iteration space (R157): T0, or the source of a reduction. -/
def Tensor.space (d : Tensor) (i : Ins) (red : Bool) : Option (List Nat) :=
  if red then (d.slot i.s0).map (fun s => s.sizes) else (d.slots.getD 0 none).map (fun s => s.sizes)

/-- A source slot fits the space. -/
def Slot.fits (sl : Slot) (space : List Nat) : Bool := (sl.sizes.zip space).all (fun (n, m) => n = m || n == 1)

/-- The sizes a LOC = 1 slot must have (R159). -/
def Slot.tileOk (sl : Slot) (sh : Nat) : Bool := !sl.acc || sl.sizes == [shapeN sh, shapeM sh, 1, 1, 1]

/-- The checks of R157 to R160 that need no state but the accumulator pointer. -/
def Tensor.ok (d : Tensor) (i : Ins) (sh : Nat) : Bool :=
  let info := (opInfo i.op).getD (.ctl, 0)
  let cls := info.1
  let red := cls == .red
  let srcs := i.sources.filter isSlot
  let named := (if isSlot i.dst then [i.dst] else []) ++ srcs ++ (if cls = .sel && isSlot i.s2 then [i.s2] else [])
  match d.space i red with
  | none => false
  | some sp =>
    named.all (fun x => match d.slot x with | some sl => sl.tileOk sh | none => false) &&
    (srcs ++ (if cls = .sel && isSlot i.s2 then [i.s2] else [])).all (fun x => match d.slot x with | some sl => sl.fits sp | none => false) &&
    volume sp ≤ 2 ^ 40 && (i.rnd != 2 || (match d.slot i.dst with | some sl => sl.indexOk | none => true)) &&
    (if red then
      d.rdim < 5 && isSlot i.s0 &&
      (match d.slot i.dst with | some sl => sl.sizes == sp.set d.rdim 1 | none => false) &&
      (i.op != 0x31 || (match d.slot i.s0, d.slot i.dst with | some a, some b => a.f != .gq8 && b.f != .gq8 | _, _ => false)) &&
      (!isArg i.op || sp.getD d.rdim 1 ≤ 4294967294)
     else
      (match d.slot i.dst with
       | some sl => sl.sizes == sp && (cls != .cmp || (sl.f == .int8 && !sl.acc))
       | none => cls == .cmp && volume sp ≤ 4096)) &&
    (cls != .sel || !isSlot i.s2 || (match d.slot i.s2 with | some sl => sl.f == .int8 && !sl.acc | none => false)) &&
    (i.mask == 0 || volume sp ≤ 4096) && (cls != .sel || isSlot i.s2 || volume sp ≤ 4096) &&
    (d.maskSlot == 0 ||
      (!named.contains (0x30 + d.maskSlot) &&
       (match d.slots.getD d.maskSlot none with | some sl => sl.f == .int8 && !sl.acc && sl.fits sp | none => false)))

/-- Position k is active (R160). -/
def State.tensorActive (s : State) (l : Lane) (d : Tensor) (sp : List Nat) (k : Nat) : State × Option Bool :=
  if !(s.eng l.e).mask l.i.mask k then (s, some false)
  else
    match d.maskSlot, d.slots.getD d.maskSlot none with
    | 0, _ => (s, some true)
    | _, none => (s, some true)
    | _, some sl =>
      match s.slotElem l sl (coords sp k) with
      | (s, some e) => (s, some (e.bits % 256 != 0))
      | (s, none) => (s, none)

/-- One source element of a position: a slot's, or the immediate, rounded in the mode of the element that is written. -/
def State.tensorSource (s : State) (l : Lane) (d : Tensor) (sp : List Nat) (mode : RMode) (k x : Nat) : State × Option SElem :=
  match d.slot x with
  | some sl => s.slotElem l sl (coords sp k)
  | none => (s, some (immIn l.f mode l.i.imm))

/-- The sources of position k. -/
def State.tensorSources (s : State) (l : Lane) (d : Tensor) (sp : List Nat) (mode : RMode) (k : Nat) : List Nat → State × Option (List SElem)
  | [] => (s, some [])
  | x :: rest =>
    match s.tensorSource l d sp mode k x with
    | (s, none) => (s, none)
    | (s, some e) =>
      match s.tensorSources l d sp mode k rest with
      | (s, some es) => (s, some (e :: es))
      | (s, none) => (s, none)

/-- Result of an active position before its conversion to a slot: a MOV's source element, or the working-type result (R155, R160). -/
def tensorElem (cls : OpCls) (op : Nat) (f : Fmt) (mode : RMode) (es : List SElem) (cond : Bool) : SElem × Tally :=
  if cls = .move then let e := es.getD 0 (exactElem vZero); (e, ({} : Tally).bad e)
  else
    let (b, c) := elemResult cls op f f mode mode es cond
    (plainElem f b, c)

/-- The condition of a selection: a mask register's bit or a slot's element; false for any other class. -/
def State.tensorCond (s : State) (l : Lane) (d : Tensor) (sp : List Nat) (cls : OpCls) (k : Nat) : State × Option Bool :=
  if cls = .sel then
    match selOf l.i.s2, d.slot l.i.s2 with
    | some (.k m), _ => (s, some ((s.eng l.e).mask m k))
    | _, some sl =>
      match s.slotElem l sl (coords sp k) with
      | (s, some e) => (s, some (e.bits % 256 != 0))
      | (s, none) => (s, none)
    | _, none => (s, some false)
  else (s, some false)

/-- One position: none inside when it is inactive; none outside on an uncorrectable word. -/
def State.tensorAt (s : State) (l : Lane) (d : Tensor) (sp : List Nat) (cls : OpCls) (k : Nat) (mode : RMode) :
    State × Option (Option (SElem × Tally)) :=
  match s.tensorActive l d sp k with
  | (s, none) => (s, none)
  | (s, some false) => (s, some none)
  | (s, some true) =>
    match s.tensorSources l d sp mode k l.i.sources with
    | (s, none) => (s, none)
    | (s, some es) =>
      match s.tensorCond l d sp cls k with
      | (s, none) => (s, none)
      | (s, some b) => (s, some (some (tensorElem cls l.i.op l.f mode es b)))

/-- Write an unscaled element of a slot: the encoding in the slot's format. -/
def State.slotWrite (s : State) (l : Lane) (sl : Slot) (c : List Nat) (bits : Nat) : State × Bool :=
  if sl.acc then ((s.setEng l.e (fun x => x.putAcc [(sl.tilePos c, bits)])).mendAcc l.e [sl.tilePos c], true)
  else
    let (a, n, _) := sl.bytesAt (sl.pos c)
    s.putWs (wsAt l.die a) (leBytes n bits)

/-- Write one block of a scaled slot whole (R160, R493): results by element of the block; the others keep their decoded value, and pad
elements become 0; of a GQ8 block only the active elements and the pads are written (R82). `ids` marks identities, which count nothing (R141). The elements as written come back. -/
def State.blockWrite (s : State) (l : Lane) (sl : Slot) (c0 : List Nat) (rs : List (Option SElem)) (ids : List Bool) :
    State × Bool × Tally × List Rounded :=
  let o := sl.pos c0
  let b := o / 32
  let old := (List.range rs.length).map (fun j => s.slotElem l sl ((c0.getD 0 0 + j) :: c0.drop 1))
  if old.any (fun x => x.2.isNone) then (s, false, {}, [])
  else
    let vals := (rs.zip old).map (fun (r, x) => match r with | some e => e.val | none => (x.2.map (fun e => e.val)).getD vZero)
    let x := if sl.f = .gq8 then ((s.peek (wsAt l.die (sl.soff + b))).toNat) else blockScale sl.f vals
    let es := blockElems sl.f x vals ((List.range rs.length).map (fun j => l.mode s sl.tid (sl.base + o + j)))
    let counted := ((es.zip rs).zip (List.range rs.length)).filter (fun (q, j) => !ids.getD j false && (sl.f != .gq8 || q.2.isSome))
    let c := counted.foldl (fun (c : Tally) q => c.add q.1.1) {}
    let (a, _, _) := sl.bytesAt o
    if sl.f = .gq8 then
      let (s, ok) := ((rs.zip es).zip (List.range rs.length)).foldl (fun (acc : State × Bool) ((r, e), j) =>
        if r.isSome && acc.2 then acc.1.putWs (wsAt l.die (a + j)) (leBytes 1 e.bits) else acc) (s, true)
      let (s, ok') := if ok then s.putWs (wsAt l.die (a + rs.length)) (List.replicate (32 - rs.length) 0#8) else (s, false)
      (s, ok && ok', c, es)
    else
      let (s, ok) := s.putWs (wsAt l.die a) (packElems sl.f (es.map (fun e => e.bits) ++ List.replicate (32 - rs.length) 0))
      let (s, ok') := s.putWs (wsAt l.die (sl.soff + b)) (leBytes 1 x)
      (s, ok && ok', c, es)

/-- Groups of positions that are written together: single positions, or the blocks of a scaled destination. -/
def positionGroups (scaled : Bool) (sp : List Nat) : List (List Nat) :=
  if !scaled then (List.range (volume sp)).map (fun k => [k])
  else
    let n := sp.getD 0 1
    (List.range (volume (sp.drop 1))).flatMap (fun r => (chunksOf 32 (List.range n)).map (fun c => c.map (fun j => r * n + j)))

/-- The results of the positions of a group, read in order (none: a source could not be read). -/
def State.groupSources (l : Lane) (d : Tensor) (sp : List Nat) (cls : OpCls) (modeAt : State → Nat → RMode) :
    List Nat → State → State × Option (List (Option (SElem × Tally)))
  | [], s => (s, some [])
  | k :: rest, s =>
    match s.tensorAt l d sp cls k (modeAt s k) with
    | (s, none) => (s, none)
    | (s, some r) =>
      match State.groupSources l d sp cls modeAt rest s with
      | (s, none) => (s, none)
      | (s, some rs) => (s, some (r :: rs))

/-- Run over the groups in iteration order (R160). The instruction's RND rounds the conversions of sources and the operation; an accumulator is
written to nearest-even (R170). A SEL counts nothing, into a scaled slot either (R172; DESIGN CHOICE, log 106, against R160's count of every
element of a block). -/
def State.tensorGroups (l : Lane) (d : Tensor) (sp : List Nat) (cls : OpCls) : List (List Nat) → State → Tally → State × Tally × Option Stop
  | [], s, c => (s, c, none)
  | g :: rest, s, c =>
    let sl := d.slot l.i.dst
    let modeAt (s : State) (k : Nat) : RMode := match sl with | some sl => Slot.mode s l sl (coords sp k) | none => l.kmode s k
    -- sources of every position of the group, then its writes
    match State.groupSources l d sp cls modeAt g s with
    | (s, none) => (s, c, some (.fail stMemUncorrectable))
    | (s, some rs) =>
      let c := (rs.filterMap (fun r => r.map Prod.snd)).foldl Tally.join c
      if rs.all Option.isNone then State.tensorGroups l d sp cls rest s c
      else
        let k := g.headD 0
        match sl with
        | none =>
          let s := s.setEng l.e (fun x => match selOf l.i.dst, rs.getD 0 none with
            | some (.k n), some (e, _) => x.setMask n k (e.bits = 1)
            | _, _ => x)
          let s := s.mendRegs l.e (fun w => match selOf l.i.dst with | some (.k n) => w == 65536 + 64 * (n - 1) + k / 64 | _ => false)
          State.tensorGroups l d sp cls rest s c
        | some sl =>
          if sl.scaled && !sl.acc then
            let (s, ok, t, _) := s.blockWrite l sl (coords sp k) (rs.map (fun r => r.map Prod.fst)) []
            let c := if cls = .sel then c else c.join t
            if ok then State.tensorGroups l d sp cls rest s c else (s, c, some (.fail stMemUncorrectable))
          else
            match rs.getD 0 none with
            | none => State.tensorGroups l d sp cls rest s c
            | some (e, _) =>
              let df := s.slotFmt l sl
              let r : Rounded := if cls = .cmp then ⟨e.bits, false, false⟩ else e.to df (if sl.acc then .rne else modeAt s k)
              let c := if cls = .sel then c else c.add r
              let (s, ok) := s.slotWrite l sl (coords sp k) r.bits
              if ok then State.tensorGroups l d sp cls rest s c else (s, c, some (.fail stMemUncorrectable))

/-- The elements of one reduced line of the source in index order, none where the mask leaves one out, and what they count (R135, R160). They are converted in the mode of the element that is written (R95). -/
def State.tensorLine (s : State) (l : Lane) (d : Tensor) (sp : List Nat) (mode : RMode) (base : List Nat) :
    List Nat → State × Option (List (Option (Val × Nat)) × Tally)
  | [] => (s, some ([], {}))
  | j :: rest =>
    let c := base.set d.rdim j
    let k := (c.zip (List.range 5)).foldl (fun k (x, m) => k + x * volume (sp.take m)) 0
    match s.tensorActive l d sp k with
    | (s, none) => (s, none)
    | (s, some a) =>
      match s.tensorSources l d sp mode k (if a then [l.i.s0] else []) with
      | (s, none) => (s, none)
      | (s, some es) =>
        match s.tensorLine l d sp mode base rest with
        | (s, none) => (s, none)
        | (s, some (more, t)) =>
          match es.head? with
          | none => (s, some (none :: more, t))
          | some e =>
            let (x, q) := redElem l.f mode e j
            (s, some (some x :: more, q.join t))

/-- The lines reduced into the positions of a group, read in order, and what their elements count. -/
def State.groupLines (l : Lane) (d : Tensor) (sp dsp : List Nat) (dst : Slot) :
    List Nat → State → State × Option (List (List (Option (Val × Nat))) × Tally)
  | [], s => (s, some ([], {}))
  | k :: rest, s =>
    match s.tensorLine l d sp (Slot.mode s l dst (coords dsp k)) (coords dsp k) (List.range (sp.getD d.rdim 1)) with
    | (s, none) => (s, none)
    | (s, some (r, t)) =>
      match State.groupLines l d sp dsp dst rest s with
      | (s, none) => (s, none)
      | (s, some (rs, t')) => (s, some (r :: rs, t.join t'))

/-- The element that a reduced line gives a scaled block: its result, or the value of the identity; and whether it is the identity. -/
def blockResult (op : Nat) (form df : Fmt) (l : List (Option (Val × Nat))) : SElem × Bool × Nat :=
  match reduce op form l with
  | none => (exactElem (if isArg op then vInt (-1) else valOf df (identityBits op df)), true, 0)
  | some (v, i, n) => (exactElem (if isArg op then vInt (toInt 32 i) else v), false, n)

/-- Results of a tensor reduction, in the destination's order, with their empty and non-finite marks (R141, R143). -/
def State.tensorReduce (l : Lane) (d : Tensor) (sp dsp : List Nat) (src dst : Slot) :
    List (List Nat) → State → Tally → List (Bool × Bool) → State × Tally × List (Bool × Bool) × Option Stop
  | [], s, c, marks => (s, c, marks, none)
  | g :: rest, s, c, marks =>
    let form := formOf (s.slotFmt l src)
    let df := s.slotFmt l dst
    match State.groupLines l d sp dsp dst g s with
    | (s, none) => (s, c, marks, some (.fail stMemUncorrectable))
    | (s, some (ls, t)) =>
      let c := c.join t
      let mode (k : Nat) : RMode := if dst.acc then .rne else Slot.mode s l dst (coords dsp k)
      let k := g.headD 0
      if dst.scaled then
        let rs := ls.map (blockResult l.i.op form df)
        let (s, ok, t, es) := s.blockWrite l dst (coords dsp k) (rs.map (fun r => some r.1)) (rs.map (fun r => r.2.1))
        let marks := marks ++ (rs.zip es).map (fun (r, e) => (r.2.1, e.nonfin))
        let c := (c.join t).join ⟨rs.foldl (fun a r => a + r.2.2) 0, 0⟩
        if ok then State.tensorReduce l d sp dsp src dst rest s c marks else (s, c, marks, some (.fail stMemUncorrectable))
      else
        let raw : Bool := !dst.acc && (32 ≤ fmtWidth df : Bool)
        let (rs, n, empty) := reduceResult l.i.op form df l.f raw (mode k) (mode k) (ls.getD 0 [])
        let r := rs.headD ⟨0, false, false⟩
        let (s, ok) := s.slotWrite l dst (coords dsp k) r.bits
        let c := (c.add r).join ⟨n, 0⟩
        let marks := marks ++ [(empty, r.nonfin)]
        if ok then State.tensorReduce l d sp dsp src dst rest s c marks else (s, c, marks, some (.fail stMemUncorrectable))

/-- A GQ8 destination's scale bytes are at most 0xF8 (R493). -/
def State.gqScalesOk (s : State) (l : Lane) (sl : Slot) : Bool :=
  sl.f != .gq8 || sl.acc ||
  (List.range (volume (sl.sizes.drop 1))).all (fun r =>
    let o := sl.pos (0 :: coords (sl.sizes.drop 1) r)
    (countFrom (sl.soff + o / 32) ((o + sl.sizes.getD 0 1 - 1) / 32 - o / 32 + 1)).all (fun a => (s.peek (wsAt l.die a)).toNat ≤ 0xF8))

/-- The descriptor of a tensor-mode instruction, fetched and checked when the instruction starts (R159). -/
def State.tensorFetch (s : State) (l : Lane) : Except Stop Tensor :=
  let i := l.i
  if !s.laneBanks l i.cnt 320 then .error (.fail stTranslationFault)
  else if (s.badWord (wsAt l.die i.cnt) 320).isSome then .error (.fail stMemUncorrectable)
  else
    match parseTensor (s.peekBytes (wsAt l.die i.cnt) 320) with
    | none => .error (.fail stBadParam)
    | some d =>
      let sh := accShape (s.eng l.e).accImm
      if !d.ok i sh then .error (.fail stBadParam)
      else if !(d.sources i).all (s.slotBanks l false) || !(d.slot i.dst).toList.all (s.slotBanks l true) || (l.cls == .red && !s.laneBanks l d.status 8) then .error (.fail stTranslationFault)
      else if (match d.slot i.dst with | some sl => !s.gqScalesOk l sl | none => false) then .error (.fail stBadParam)
      else if (d.named i).any (fun sl => sl.acc) then
        match s.accCheck l 0 (shapeM sh * shapeN sh) with
        | some st => .error st
        | none => .ok d
      else .ok d

/-- A tensor-mode instruction (R151, R156 to R160). -/
def State.runTensor (s : State) (l : Lane) : State × Option Stop :=
  match s.tensorFetch l with
  | .error (.wait w) => (s, some (.wait w))
  | .error (.fail c) => (if c = stMemUncorrectable then (s.load (wsAt l.die l.i.cnt) 320).1 else s, some (.fail c))
  | .ok d =>
    let (s, _) := s.load (wsAt l.die l.i.cnt) 320
    let sp := (d.space l.i (l.cls == .red)).getD []
    let (s, bad) := s.laneErrors l (volume sp)
    let upTo (gs : List (List Nat)) : List (List Nat) := match bad with | some b => gs.takeWhile (fun g => g.all (fun k => k < b)) | none => gs
    let ends (st : Option Stop) : Option Stop := match st with | some st => some st | none => if bad.isSome then some (.fail stMemUncorrectable) else none
    if l.cls = .red then
      match d.slot l.i.s0, d.slot l.i.dst with
      | some src, some dst =>
        if bad.isSome then (s, some (.fail stMemUncorrectable)) else
        let (s, c, marks, st) := State.tensorReduce l d sp dst.sizes src dst (positionGroups dst.scaled dst.sizes) s {} []
        let s := s.tally l c
        match st with
        | some st => (s, some st)
        | none => match s.putStatus l d.status marks with
          | (s, true) => (s, none)
          | (s, false) => (s, some (.fail stMemUncorrectable))
      | _, _ => (s, some (.fail stBadParam))
    else
      let scaled := match d.slot l.i.dst with | some sl => sl.scaled | none => false
      let (s, c, st) := State.tensorGroups l d sp l.cls (upTo (positionGroups scaled sp)) s {}
      (s.tally l c, ends st)

/-- Bytes of a slot in working store. -/
def Slot.size (sl : Slot) : Nat :=
  if sl.acc then 0 else ceilDiv (volume sl.sizes * fmtWidth sl.f) 8 + (if sl.scaled then ceilDiv (volume sl.sizes) 32 else 0)

/-- Bytes that an instruction reads from and writes to working store, for its transfer cycles (R163, R164). DESIGN CHOICE (log 75): every
element of a named operand moves once, masked or not; the fetch of a tensor descriptor moves in the instruction's fixed cycles. -/
def State.laneBytes (s : State) (l : Lane) : Nat × Nat :=
  let i := l.i
  let word := if l.cls = .red then 8 else 0
  if l.cls = .ctl then (0, 0)
  else if i.mode = 0 then
    ((i.sources.filter usesW).length * l.wLen i.cnt, (if usesW i.dst then l.wLen l.written else 0) + word)
  else
    match parseTensor (s.peekBytes (wsAt l.die i.cnt) 320) with
    | none => (0, 0)
    | some d => ((d.sources i).foldl (fun a sl => a + sl.size) 0, (match d.slot i.dst with | some sl => sl.size | none => 0) + word)

/-- Lane passes of an instruction: a move whose source or destination is FP64 takes the FP64 column, any other move the FP32 one
(R162, R163). -/
def State.lanePasses (s : State) (l : Lane) : Nat :=
  let i := l.i
  let rate (wide : Bool) : Nat := lanes l.cls (if l.cls = .move then (if wide then .fp64 else .fp32) else l.f)
  if l.cls = .ctl then 0
  else if i.mode = 0 then ceilDiv i.cnt (rate ((i.dst :: i.sources).any (fun x => s.opFmt l x == .fp64)))
  else
    match parseTensor (s.peekBytes (wsAt l.die i.cnt) 320) with
    | none => 0
    | some d =>
      let sp := (d.space i (l.cls == .red)).getD []
      let imm := i.sources.any (fun x => selOf x == some .imm) && l.f == .fp64
      volume (sp.drop 1) * ceilDiv (sp.getD 0 1) (rate (imm || (d.named i).any (fun sl => s.slotFmt l sl == .fp64)))

end Sys2Proof.Machine
end

