-- ==== Sys2Proof/Machine/Vector.lean ====
section
/-!
DEFINITION. Vector engines (R146 to R151, R163 to R172): the rows RUN, KERNEL_BUDGET_EXPIRY, one row for each instruction, and
VE_WAIT_RESUME. An instruction row carries out the instruction at the kernel's program counter when its opcode is the row's.
-/
namespace Sys2Proof.Machine

/-- Fields of a kernel descriptor (R146). -/
def kProg (d : List Byte) : Nat := fieldAt d 0 4
def kLen (d : List Byte) : Nat := fieldAt d 4 2
def kBudget (d : List Byte) : Nat := fieldAt d 8 4

/-- The check of a fetched kernel descriptor: its fields, and the instruction words inside the context's banks. -/
def kernelCheck (p : Part) (die : Nat) (d : List Byte) : Nat :=
  if !(kProg d < 2 ^ 30 && kProg d % 64 == 0 && 1 ≤ kLen d && kLen d ≤ 4096 && zeroAt d 6 2 && 64 ≤ kBudget d && zeroAt d 12 4) then stBadParam
  else if !inBanks p die (kProg d) (kLen d * 16) then stTranslationFault
  else stOk

/-! Kernels. -/

/-- The lane of a kernel's word. -/
def laneAt (e : Nat) (r : Running) (ws : List Nat) (pc : Nat) : Lane :=
  let i := parseIns (ws.getD pc 0)
  { e := e, ctx := r.held.ctx, heat := r.held.heat, i := i, f := i.wfmt.getD .fp32 }

/-- The checks and waits of an instruction at its start (R154, R159, R165, R166, R169, R171). -/
def State.startCheck (s : State) (l : Lane) : Option Stop :=
  match l.cls with
  | .ctl =>
    if l.i.op = 0x45 then (if (s.queue (.tileHeader l.e)).isEmpty then some (.wait .queue) else none)
    else if l.i.op = 0x43 && bitOf l.i.imm 14 then
      let n := tileSegs (accShape l.i.imm) (accCode l.i.imm)
      if accSeg l.i.imm % n ≠ 0 || accSeg l.i.imm + n > 64 then some (.fail stBadParam)
      else if s.reserved l.e (accSeg l.i.imm) n then some (.wait .segment) else none
    else none
  | _ => if l.i.mode = 0 then s.countCheck l else match s.tensorFetch l with | .error st => some st | .ok _ => none

/-- The kernel of a unit comes to a word, in cycle `used`: a wait begins at once, else the word's transfer (R163 to R166, R171). -/
def State.arriveAt (s : State) (u : Nat) (r : Running) (ws : List Nat) (pc : Nat) (loops : List LoopSt) (used : Nat) : State :=
  let l := laneAt (engineOf u) r ws pc
  let wait : VWait := match s.startCheck l with | some (.wait w) => w | _ => .none
  let (rd, wr) := s.laneBytes l
  s.setProg u (.kernel ws pc loops used wait ⟨rd, wr, used, 0⟩)

/-- RUN (R147): once the instruction words have been copied they are decoded; the kernel starts at word 0 with A0 to A5 loaded. -/
def execRunKernel (t unit : Nat) (s : State) : Host.Outcome State Fault Refusal :=
  let s := s.advance t
  match s.runsAction unit 1 with
  | none => .next s
  | some r =>
    match r.prog with
    | .copying x =>
      let e := engineOf unit
      let die := unitDie unit
      let d := r.held.bytes
      let x := s.moveTo e r (s.ran die r.arith) x
      let copy := 32 + x.upTo
      if !x.over || !s.passed die r.arith copy then .next s
      else
        match s.load (wsAt die (kProg d)) (kLen d * 16) with
        | (s, none) => .next (s.failPour unit stMemUncorrectable 0 0)
        | (s, some bs) =>
          let ws := (List.range (kLen d)).map (fun i => fieldAt bs (16 * i) 16)
          let s := s.mend (fun w => match w with | .ins e' _ => e' = e | _ => false)
          if !kernelOk ws then .next (s.failPour unit stBadParam 0 0)
          else
            let s := (s.setEng e (fun x => { x with a := entriesAt d 16 8 6 ++ x.a.drop 6 })).mendRegs e (fun w => 66048 ≤ w && w < 66054)
            .next ((s.count .VE_BUSY die (e % 48) copy).arriveAt unit r ws 0 [] copy)
    | _ => .next s

/-- KERNEL_BUDGET_EXPIRY (R149): BUDGET cycles after launch a kernel that has not ended stops with LATE_INPUT. The cycles that it spent in
its last instruction count, and those in which that one waited. -/
def execKernelBudgetExpiry (t engine : Nat) (s : State) : Host.Outcome State Fault Refusal :=
  let s := s.advance t
  let u := veUnit engine
  match s.runsAction u 1 with
  | none => .next s
  | some r =>
    let die := engine / 48
    let budget := kBudget r.held.bytes
    let late (s : State) (n : Nat) : State :=
      ((s.count .VE_BUSY die (engine % 48) n).count .PLAN_LATE die r.held.ctx 1).failPour u stLateInput r.held.pour.offset 0
    if !s.passed die r.arith budget then .next s
    else
      match r.prog with
      | .copying _ => .next (late s budget)
      | .kernel _ _ _ used wait x =>
        let n := budget - used
        let s := match wait with
          | .queue => s.count .VE_TQ_WAIT die (engine % 48) n
          | .segment => s.count .VE_ACC_WAIT die (engine % 48) n
          | _ => s.count .VE_SHARE_WAIT die (engine % 48) (s.moveTo engine r budget x).idle
        .next (late s n)
      | _ => .next s

/-- The program counter and loop nest after the word at `pc` (R163). -/
def loopNext : List LoopSt → Nat → Nat × List LoopSt
  | [], pc => (pc + 1, [])
  | l :: rest, pc =>
    if pc = l.last then (if l.left = 0 then loopNext rest pc else (l.first, { l with left := l.left - 1 } :: rest))
    else (pc + 1, l :: rest)

/-- A release of the tile queue's entries before the read position (R167); a mark before it moves up to it (R395). -/
def State.tqRelease (s : State) (e : Nat) : State :=
  let s := s.noteWait e
  let s := (s.setQueue (.tileHeader e) (fun q => q.release true q.rd)).setQueue (.tileData e) (fun q => q.release true q.rd)
  if (s.queue (.tileData e)).mark = (s.queue (.tileData e)).rd then s.setEng e (fun x => { x with rowsMark := x.rowsRead }) else s

/-- TQHDR (R165): the next header, its TQ_SEQ, and the read position and mark at the tile's first data entry. -/
def State.takeHeader (s : State) (e : Nat) : State × Option Stop :=
  let q := s.queue (.tileHeader e)
  match (if q.isEmpty then none else q.at? q.rd) with
  | none => (s, some (.wait .queue))
  | some h =>
    if h.bad then (s, some (.fail stMemUncorrectable))
    else
      let x := s.eng e
      let s := s.queueEcc (.tileHeader e) h.corr
      if fieldAt h.bytes 30 2 ≠ x.nextSeq then (s, some (.fail stBadState))
      else
        let s := s.setQueue (.tileHeader e) (fun q => q.readN 1)
        let s := s.setQueue (.tileData e) (fun q => { q with rd := x.tileBase, mark := x.tileBase })
        (s.setEng e (fun x => { x with
          header := some h.bytes, rowsRead := 0, rowsMark := 0, nextSeq := (x.nextSeq + 1) % 65536
          tileBase := x.tileBase + fieldAt h.bytes 12 2 * (fieldAt h.bytes 28 2 / 64) }), none)

/-- SETACC (R169): the accumulator pointer, and with DEFINE a live tile of zeros. -/
def State.doSetacc (s : State) (e : Nat) (i : Ins) : State × Option Stop :=
  let sh := accShape i.imm
  let c := accCode i.imm
  let seg := accSeg i.imm
  let n := tileSegs sh c
  let set (x : EngSt) : EngSt := { x with accImm := i.imm, accPos := i.cnt }
  if bitOf i.imm 14 then
    if seg % n ≠ 0 || seg + n > 64 then (s, some (.fail stBadParam))
    else if s.reserved e seg n then (s, some (.wait .segment))
    else ((s.writeSegs e seg n).setEng e (fun x => (set x).putTile ⟨seg, sh, c, List.replicate (shapeM sh * shapeN sh) (0, 0), true⟩), none)
  else
    let x := s.eng e
    match x.tiles.filter (fun t => t.live && t.overlaps seg n) with
    | [t] => if t.seg = seg && t.shape == sh && t.fmt == c then (s.setEng e set, none) else (s, some (.fail stBadState))
    | _ => (s, some (.fail stBadState))

/-- A control instruction other than LOOP and END (R163). -/
def State.runControl (s : State) (l : Lane) : State × Option Stop :=
  let i := l.i
  let e := l.e
  let imm64 := 2 ^ 32 * i.imm + i.cnt
  let writeA (s : State) (f : Nat → Nat) : State :=
    (s.setEng e (fun x => { x with a := modAt f x.a (i.dst % 8) })).mendRegs e (fun w => w == 66048 + i.dst % 8)
  match i.op with
  | 0x40 => (writeA s (fun _ => imm64), none)
  | 0x41 =>
    match s.laneErrors l 0 with
    | (s, some _) => (s, some (.fail stMemUncorrectable))
    | (s, none) => (writeA s (fun v => (v + imm64) % 2 ^ 64), none)
  | 0x43 => s.doSetacc e i
  | 0x44 => (s.setEng e (fun x => { x with srcTid := i.imm % 2 ^ 24, srcBase := 2 ^ 32 * (i.imm / 2 ^ 24) + i.cnt }), none)
  | 0x45 => s.takeHeader e
  | 0x46 => ((s.setQueue (.tileData e) RunQ.doMark).setEng e (fun x => { x with rowsMark := x.rowsRead }), none)
  | 0x47 => ((s.setQueue (.tileData e) RunQ.rewind).setEng e (fun x => { x with rowsRead := x.rowsMark }), none)
  | 0x48 => (s.tqRelease e, none)
  | _ => (s, none)

/-- The effect of an instruction. -/
def State.runIns (s : State) (l : Lane) : State × Option Stop :=
  match opInfo l.i.op with
  | some (.ctl, _) => s.runControl l
  | some _ => if l.i.mode = 0 then s.runCount l else s.runTensor l
  | none => (s, some (.fail stBadParam))

/-- Cycles of an instruction whose transfer takes `tr` cycles (R163). -/
def State.laneCycles (s : State) (l : Lane) (tr : Nat) : Nat :=
  match l.cls with
  | .ctl => 1
  | c => (if l.i.mode = 0 then 2 else 8) + max (s.lanePasses l) tr + (if c = .red then 16 else 0)

/-- After an instruction: counters, energy and the next word (R163, R172, R415). DESIGN CHOICE (log 107): a LOOP that is the last word of another
LOOP's body, its own body past it, leaves the outer one's last word behind, so the outer LOOP does not repeat. -/
def State.laneDone (s : State) (u : Nat) (r : Running) (l : Lane) (ws : List Nat) (pc : Nat) (loops : List LoopSt)
    (used cycles idle passes : Nat) : State :=
  let die := l.die
  let i := l.e % 48
  let s := s.count .VE_INSTR die i 1
  let s := s.count .VE_BUSY die i cycles
  let s := s.count .VE_SHARE_WAIT die i idle
  let s := match l.cls with
    | .ctl => s
    | .trans => s.charge die (acctOf (s.engineOwner l.e)) 6 passes
    | _ => s.charge die (acctOf (s.engineOwner l.e)) 5 passes
  if l.i.op = 0x4F then s.ended u
  else
    let (pc', loops') :=
      if l.i.op = 0x42 then (pc + 1, ⟨pc + 1, pc + 1 + l.i.imm % 64, l.i.cnt % 4096⟩ :: loops)
      else loopNext loops pc
    s.arriveAt u r ws pc' loops' (used + cycles)

/-- The instruction at a program counter is read from the instruction buffer: a corrected word counts in VE_ECC_CORR (R151); true when one is
uncorrectable. -/
def State.fetchIns (s : State) (e pc : Nat) : State × Bool :=
  let (corr, bad) := s.meets (fun w => match w with | .ins e' w => e' = e && w / 2 == pc | _ => false)
  (s.count .VE_ECC_CORR (e / 48) (e % 48) corr, bad)

/-- The transfer of an instruction has come to a cycle in which it is allowed 0 bytes (R164). -/
def State.blockedAt (s : State) (e : Nat) (x : Xfer) : Bool :=
  match s.sharesFrom e (s.arithNs (e / 48)) with
  | (_, r, w) :: _ => (x.rd ≠ 0 && r == 0) || (x.wr ≠ 0 && w == 0)
  | [] => false

/-- One instruction row: the word at the program counter has the row's opcode and begins. It ends the kernel with a status code or begins to
wait; once its cycles have passed within the budget it completes. -/
def State.vecRow (s : State) (op t engine : Nat) : State :=
  let s := s.advance t
  let u := veUnit engine
  match s.runsAction u 1 with
  | none => s
  | some r =>
    match r.prog with
    | .kernel ws pc loops used wait x =>
      let l := laneAt engine r ws pc
      if l.i.op ≠ op || wait = .queue || wait = .segment || !s.passed (engine / 48) r.arith used then s
      else
        match s.startCheck l with
        | some (.fail code) => s.failPour u code 0 0
        | some (.wait w) => s.setProg u (.kernel ws pc loops used w x)
        | none =>
          let y := s.moveTo engine r (s.ran (engine / 48) r.arith) x
          let cycles := s.laneCycles l (y.upTo - used)
          if !y.over || used + cycles > kBudget r.held.bytes || !s.passed (engine / 48) r.arith (used + cycles) then
            s.setProg u (.kernel ws pc loops used (if s.blockedAt engine y then .share else .none) y)
          else
            let passes := s.lanePasses l
            match s.fetchIns engine pc with
            | (s, true) => s.failPour u stMemUncorrectable 0 0
            | (s, false) =>
              match s.runIns l with
              | (s, none) => s.laneDone u r l ws pc loops used cycles y.idle passes
              | (s, some (.wait w)) => s.setProg u (.kernel ws pc loops used w x)
              | (s, some (.fail code)) => s.failPour u code 0 0
    | _ => s

/-- The wait of an instruction has ended. -/
def State.waitOver (s : State) (l : Lane) (w : VWait) (x : Xfer) : Bool :=
  match w with
  | .none => false
  | .share => !s.blockedAt l.e x
  | w => s.startCheck l != some (.wait w)

/-- VE_WAIT_RESUME (R165, R166, R171): a wait ends, and its cycles, from the start of the instruction on, count. -/
def execVeWaitResume (t engine : Nat) (s : State) : Host.Outcome State Fault Refusal :=
  let s := s.advance t
  let u := veUnit engine
  match s.runsAction u 1 with
  | none => .next s
  | some r =>
    match r.prog with
    | .kernel ws pc loops used wait x =>
      let l := laneAt engine r ws pc
      if !s.waitOver l wait x then .next s
      else if wait = .share then .next (s.setProg u (.kernel ws pc loops used .none x))
      else
        let n := s.ran (engine / 48) r.arith - used
        let s := s.count (if wait = .segment then .VE_ACC_WAIT else .VE_TQ_WAIT) (engine / 48) (engine % 48) n
        let s := s.count .VE_BUSY (engine / 48) (engine % 48) n
        .next (s.arriveAt u r ws pc loops (used + n))
    | _ => .next s

/-- ADD: opcode 0x01. -/
def execVAdd (t engine : Nat) (s : State) : Host.Outcome State Fault Refusal := .next (s.vecRow 0x01 t engine)

/-- SUB: opcode 0x02. -/
def execVSub (t engine : Nat) (s : State) : Host.Outcome State Fault Refusal := .next (s.vecRow 0x02 t engine)

/-- MUL: opcode 0x03. -/
def execVMul (t engine : Nat) (s : State) : Host.Outcome State Fault Refusal := .next (s.vecRow 0x03 t engine)

/-- FMA: opcode 0x04. -/
def execVFma (t engine : Nat) (s : State) : Host.Outcome State Fault Refusal := .next (s.vecRow 0x04 t engine)

/-- MIN: opcode 0x05. -/
def execVMin (t engine : Nat) (s : State) : Host.Outcome State Fault Refusal := .next (s.vecRow 0x05 t engine)

/-- MAX: opcode 0x06. -/
def execVMax (t engine : Nat) (s : State) : Host.Outcome State Fault Refusal := .next (s.vecRow 0x06 t engine)

/-- ABS: opcode 0x07. -/
def execVAbs (t engine : Nat) (s : State) : Host.Outcome State Fault Refusal := .next (s.vecRow 0x07 t engine)

/-- NEG: opcode 0x08. -/
def execVNeg (t engine : Nat) (s : State) : Host.Outcome State Fault Refusal := .next (s.vecRow 0x08 t engine)

/-- MOV: opcode 0x09. -/
def execVMov (t engine : Nat) (s : State) : Host.Outcome State Fault Refusal := .next (s.vecRow 0x09 t engine)

/-- CMPEQ: opcode 0x10. -/
def execVCmpeq (t engine : Nat) (s : State) : Host.Outcome State Fault Refusal := .next (s.vecRow 0x10 t engine)

/-- CMPNE: opcode 0x11. -/
def execVCmpne (t engine : Nat) (s : State) : Host.Outcome State Fault Refusal := .next (s.vecRow 0x11 t engine)

/-- CMPLT: opcode 0x12. -/
def execVCmplt (t engine : Nat) (s : State) : Host.Outcome State Fault Refusal := .next (s.vecRow 0x12 t engine)

/-- CMPLE: opcode 0x13. -/
def execVCmple (t engine : Nat) (s : State) : Host.Outcome State Fault Refusal := .next (s.vecRow 0x13 t engine)

/-- SEL: opcode 0x14. -/
def execVSel (t engine : Nat) (s : State) : Host.Outcome State Fault Refusal := .next (s.vecRow 0x14 t engine)

/-- EXP2: opcode 0x20. -/
def execVExp2 (t engine : Nat) (s : State) : Host.Outcome State Fault Refusal := .next (s.vecRow 0x20 t engine)

/-- EXP: opcode 0x21. -/
def execVExp (t engine : Nat) (s : State) : Host.Outcome State Fault Refusal := .next (s.vecRow 0x21 t engine)

/-- LOG2: opcode 0x22. -/
def execVLog2 (t engine : Nat) (s : State) : Host.Outcome State Fault Refusal := .next (s.vecRow 0x22 t engine)

/-- LOG: opcode 0x23. -/
def execVLog (t engine : Nat) (s : State) : Host.Outcome State Fault Refusal := .next (s.vecRow 0x23 t engine)

/-- RCP: opcode 0x24. -/
def execVRcp (t engine : Nat) (s : State) : Host.Outcome State Fault Refusal := .next (s.vecRow 0x24 t engine)

/-- SQRT: opcode 0x25. -/
def execVSqrt (t engine : Nat) (s : State) : Host.Outcome State Fault Refusal := .next (s.vecRow 0x25 t engine)

/-- RSQRT: opcode 0x26. -/
def execVRsqrt (t engine : Nat) (s : State) : Host.Outcome State Fault Refusal := .next (s.vecRow 0x26 t engine)

/-- DIV: opcode 0x27. -/
def execVDiv (t engine : Nat) (s : State) : Host.Outcome State Fault Refusal := .next (s.vecRow 0x27 t engine)

/-- SIN: opcode 0x28. -/
def execVSin (t engine : Nat) (s : State) : Host.Outcome State Fault Refusal := .next (s.vecRow 0x28 t engine)

/-- COS: opcode 0x29. -/
def execVCos (t engine : Nat) (s : State) : Host.Outcome State Fault Refusal := .next (s.vecRow 0x29 t engine)

/-- TANH: opcode 0x2A. -/
def execVTanh (t engine : Nat) (s : State) : Host.Outcome State Fault Refusal := .next (s.vecRow 0x2A t engine)

/-- RSUM: opcode 0x30. -/
def execVRsum (t engine : Nat) (s : State) : Host.Outcome State Fault Refusal := .next (s.vecRow 0x30 t engine)

/-- RPROD: opcode 0x31. -/
def execVRprod (t engine : Nat) (s : State) : Host.Outcome State Fault Refusal := .next (s.vecRow 0x31 t engine)

/-- RMAX: opcode 0x32. -/
def execVRmax (t engine : Nat) (s : State) : Host.Outcome State Fault Refusal := .next (s.vecRow 0x32 t engine)

/-- RMIN: opcode 0x33. -/
def execVRmin (t engine : Nat) (s : State) : Host.Outcome State Fault Refusal := .next (s.vecRow 0x33 t engine)

/-- RARGMAX: opcode 0x34. -/
def execVRargmax (t engine : Nat) (s : State) : Host.Outcome State Fault Refusal := .next (s.vecRow 0x34 t engine)

/-- RARGMIN: opcode 0x35. -/
def execVRargmin (t engine : Nat) (s : State) : Host.Outcome State Fault Refusal := .next (s.vecRow 0x35 t engine)

/-- SETA: opcode 0x40. -/
def execVSeta (t engine : Nat) (s : State) : Host.Outcome State Fault Refusal := .next (s.vecRow 0x40 t engine)

/-- ADDA: opcode 0x41. -/
def execVAdda (t engine : Nat) (s : State) : Host.Outcome State Fault Refusal := .next (s.vecRow 0x41 t engine)

/-- LOOP: opcode 0x42. -/
def execVLoop (t engine : Nat) (s : State) : Host.Outcome State Fault Refusal := .next (s.vecRow 0x42 t engine)

/-- SETACC: opcode 0x43. -/
def execVSetacc (t engine : Nat) (s : State) : Host.Outcome State Fault Refusal := .next (s.vecRow 0x43 t engine)

/-- SETSR: opcode 0x44. -/
def execVSetsr (t engine : Nat) (s : State) : Host.Outcome State Fault Refusal := .next (s.vecRow 0x44 t engine)

/-- TQHDR: opcode 0x45. -/
def execVTqhdr (t engine : Nat) (s : State) : Host.Outcome State Fault Refusal := .next (s.vecRow 0x45 t engine)

/-- TQMARK: opcode 0x46. -/
def execVTqmark (t engine : Nat) (s : State) : Host.Outcome State Fault Refusal := .next (s.vecRow 0x46 t engine)

/-- TQREWIND: opcode 0x47. -/
def execVTqrewind (t engine : Nat) (s : State) : Host.Outcome State Fault Refusal := .next (s.vecRow 0x47 t engine)

/-- TQREL: opcode 0x48. -/
def execVTqrel (t engine : Nat) (s : State) : Host.Outcome State Fault Refusal := .next (s.vecRow 0x48 t engine)

/-- END: opcode 0x4F. -/
def execVEnd (t engine : Nat) (s : State) : Host.Outcome State Fault Refusal := .next (s.vecRow 0x4F t engine)

end Sys2Proof.Machine
end

