-- ==== Sys2Proof/Machine/Pour.lean ====
section
/-!
DEFINITION. Pours from the sequencer to their end (R55 to R62, R210, R212, R378, R491): the rows POUR_DISPATCH, DESCRIPTOR_ARRIVE,
POUR_LAUNCH, HOLD_EXPIRY, POUR_SIGNAL and NOP.
-/
namespace Sys2Proof.Machine

/-- Bytes of the descriptor that an action of a unit takes; 0 for NOP, none for an action code the unit's class does not define. -/
def descLen (u action : Nat) : Option Nat :=
  if action = 0 then some 0
  else
    match unitCls u with
    | 0x01 => if action ≤ 2 then some 192 else none
    | 0x02 => if action = 1 then some 64 else none
    | 0x03 => if isMover u && action ≤ 3 then some 64 else none
    | 0x05 => match action with | 1 => some 64 | 2 => some 64 | 3 => some 128 | 4 => some 64 | _ => none
    | 0x08 => match action with
      | 1 => some 64 | 2 => some 64 | 3 => some 64 | 0x10 => some 64 | 0x11 => some 64 | 0x20 => some 128 | 0x21 => some 128 | _ => none
    | _ => none

/-- The check of a fetched descriptor by its unit: OK, BAD_PARAM or TRANSLATION_FAULT. -/
def descCheck (p : Part) (h : Pour) (raw : List Byte) : Nat :=
  let die := unitDie h.unit
  if h.action = 0 then stOk
  else
    match unitCls h.unit with
    | 0x01 => prodCheck p die h.action raw
    | 0x02 => kernelCheck p die raw
    | 0x03 => tmCheck p die h.action raw
    | 0x05 => uuCheck p h raw
    | 0x08 => laddCheck p die h.action h.offset raw
    | _ => stBadParam

/-- The heats whose pours can be handed over: the one in progress and the next. -/
def Ctx.openHeats (x : Ctx) : List Nat := if x.st = .running then [x.heat, x.heat + 1] else [x.heat]

/-- The heat of which a pour is next to hand over: not handed yet, not before a resume point (R377), before a pending pre-emption's
boundary (R374), and OVER_LAST only in the last heat of an over (R62). -/
def Ctx.heatFor (x : Ctx) (die index : Nat) (p : Pour) (late : Bool) (ft : Nat) : Option Nat :=
  x.openHeats.find? (fun n =>
    let due := at64 (x.startOf n) p.offset
    !x.handed.contains (n, die, index) && !(n = x.heat && p.offset < x.skipBelow) &&
    (match x.preempt with | some b => due < x.boundaryFt b | none => true) &&
    (!p.overLast || (n + 1) % x.overN == 0 || x.heat < n) && (late || ft ≤ due))

/-- POUR_DISPATCH (R55): the pour is handed to its unit, behind the pours it already holds. A pour for a unit that DISABLE_UNIT closed
ends with ABORTED_DISABLE at its due time (R378); one with an unknown action faults its context (R491), and so does a SWEEP that is not
GATED (R230). An uncorrectable sequencer entry faults the context that owns it (R453). -/
def execPourDispatch (t ctx die index : Nat) (s : State) : Host.Outcome State Fault Refusal :=
  let s := s.advance t
  let x := s.ctx ctx
  match x.mould.bind (fun m => (m.pours.getD die [])[index]?) with
  | none => .next s
  | some p =>
    let u := p.unit
    let closed : Bool := (s.unit u).disabled || (s.unit u).drainBy.isSome
    if !x.active || x.destroying || x.preemptTaken then .next s
    else
      match x.heatFor die index p closed s.ft with
      | none => .next s
      | some n =>
        let due := at64 (x.startOf n) p.offset
        let e := (x.entries.getD die (0, 0)).1 + index
        if closed && s.ft < due then .next s
        else if (s.meets (fun w => w = .plan die e)).2 then
          .next (s.faultCtx ctx stMemUncorrectable (unitId die clsPLAN 0) e 0 0)
        else
          let s := s.setCtx ctx (fun x => { x with handed := x.handed ++ [(n, die, index)] })
          if closed then
            let s := s.setUnit u (fun y => { y with refused := if y.drainBy.isSome then y.refused + 1 else y.refused })
            .next (s.faultCtx ctx stAbortedDisable u p.offset 0 p.offset)
          else
            match (if unitCls u = clsUU && p.action == 1 && !p.gated then none else descLen u p.action) with
            | none => .next (s.faultCtx ctx stBadParam u p.desc 0 p.offset)
            | some len =>
              let h : Held :=
                { ctx := ctx, heat := n, die := die, pour := p, due := due, desc := if len = 0 then some [] else none
                  go := p.gated && x.verdict == some (n, true), epoch := x.stepAtStart }
              let s := s.count .PLAN_DISPATCHED die 0 1
              .next (s.setUnit u (fun y => { y with queue := y.queue ++ [h] }))

/-- The first pour of a unit that waits for its descriptor takes its bytes. -/
def giveDesc (bs : List Byte) : List Held → List Held
  | [] => []
  | h :: rest => if h.desc.isNone then { h with desc := some bs } :: rest else h :: giveDesc bs rest

/-- ME_LAST_DESC and VE_LAST_DESC: the address of the last descriptor fetched. -/
def State.noteDesc (s : State) (u va : Nat) : State :=
  match unitCls u with
  | 0x01 => s.setReg .ME_LAST_DESC (unitDie u) (unitInst u) va
  | 0x02 => s.setReg .VE_LAST_DESC (unitDie u) (unitInst u) va
  | _ => s

/-- DESCRIPTOR_ARRIVE: the oldest descriptor fetch of a unit ends; its checks pass, or the context is faulted. A pour that names a free
tag binds it (R210). -/
def execDescriptorArrive (t unit : Nat) (s : State) : Host.Outcome State Fault Refusal :=
  let s := s.advance t
  match (s.unit unit).queue.find? (fun h => h.desc.isNone) with
  | none => .next s
  | some h =>
    let p := h.pour
    let ends (s : State) (code address detail : Nat) : State := s.faultCtx h.ctx code unit address detail p.offset
    match s.readVa (unitDie unit) h.ctx p.desc ((descLen unit p.action).getD 0) with
    | (s, .error e) => .next (ends s e.code p.desc e.detail)
    | (s, .ok raw) =>
      let s := s.noteDesc unit p.desc
      let st := descCheck (s.ctx h.ctx).part p raw
      if st ≠ stOk then .next (ends s st p.desc 0)
      else
        match laddTag { h with desc := some raw } with
        | none => .next (s.setUnit unit (fun y => { y with queue := giveDesc raw y.queue }))
        | some tag =>
          match s.bindTag h.ctx tag with
          | (s, .foreign) => .next (ends s stBadState p.desc 0)
          | (s, _) => .next (s.setUnit unit (fun y => { y with queue := giveDesc raw y.queue }))

/-! Launch (R55, R56, R59, R62). -/

/-- The unit's clock is the arithmetic clock. -/
def isArith (u : Nat) : Bool := unitCls u == clsME || unitCls u == clsVE

/-- FT of a unit's die (R55). -/
def State.unitFt (s : State) (u : Nat) : Nat := s.dieFt (unitDie u)

/-- The first launch edge of a pour, in whole nanoseconds: after the slots in which the backstop leaves ARITH without edges (R412). -/
def State.firstEdge (s : State) (h : Held) : Nat :=
  let d := unitDie h.pour.unit
  if isArith h.pour.unit && s.arithStopped d h.due then 1024 * (h.due / 1024) + 64 * (s.die d).level else h.due

/-- There are edges of the unit's clock at this FT: the die runs and has no exit in progress (R421), and the backstop leaves ARITH its
edges (R412). -/
def State.clockRuns (s : State) (u : Nat) : Bool :=
  let d := s.die (unitDie u)
  d.idle == .run && d.exitBy.isNone && (!isArith u || !s.arithStopped (unitDie u) (s.unitFt u))

/-- The tag that a pour names is bound to its context (R212). -/
def State.tagReady (s : State) (h : Held) : Bool :=
  match laddTag h with
  | some tag => s.tagSt tag == some (.bound h.ctx)
  | none => true

/-- A skip verdict holds for the heat of a GATED pour. -/
def State.skips (s : State) (h : Held) : Bool := h.pour.gated && (s.ctx h.ctx).verdict == some (h.heat, false)

/-- Pours of the context may launch: it is RUNNING, or a HALT took effect at a heat start and the pour is one of the ended heat (R66). -/
def Ctx.launches (x : Ctx) : Bool := (x.st == .running || x.st == .halting) && !x.destroying

/-- A pending pre-emption withdraws the pour: it is due at or after the boundary (R374). -/
def Ctx.withdraws (x : Ctx) (h : Held) : Bool := match x.preempt with | some b => x.boundaryFt b ≤ h.due | none => false

/-- The launch condition of the first pour of a unit (R56, R62, R374). -/
def State.ready (s : State) (u : Nat) (h : Held) : Bool :=
  let x := s.ctx h.ctx
  let p := h.pour
  x.launches && !x.withdraws h && h.heat ≤ x.heat && h.desc.isSome && s.tagReady h && (s.unit u).running.isNone &&
  (p.wait == 0xFFFF || p.waitCount ≤ x.flag (unitDie u) p.wait) && (!p.gated || h.go || x.verdict == some (h.heat, true))

/-- The first pour leaves the unit's queue. -/
def State.popHeld (s : State) (u : Nat) : State := s.setUnit u (fun y => { y with queue := y.queue.tail })

/-- What a launched pour starts from: PACK and RENEW take PLAN_STEP_COUNT and the bucket's settings at launch (R189, R207, R224), an update
unit its hyperparameters (R69, R236). -/
def State.startProg (s : State) (h : Held) : Prog :=
  let p := h.pour
  if unitCls p.unit = clsLADD && (p.action == 0x10 || p.action == 3) then
    let x := s.ctx h.ctx
    let tag := (laddTag h).getD 0
    .packing x.stepCount ((x.setting p.unit (0x1000 + tag)).getD 16) ((x.setting p.unit (0x2000 + tag)).getD 1)
  else if unitCls p.unit = clsVE then .copying { rd := 16 * kLen h.bytes }
  else if unitCls p.unit = clsUU && p.action != 3 then .sweeping { hyper := (s.ctx h.ctx).settings.filter (fun g => g.unit = p.unit) }
  else .start

/-- The segment of a matrix engine's pour that the vector instruction in progress accesses (R171). -/
def State.veTouches (s : State) (e seg n : Nat) : Option Nat :=
  match s.runsAction (veUnit e) 1 with
  | none => none
  | some r =>
    match r.prog with
    | .kernel ws pc _ used wait _ =>
      let l := laneAt e r ws pc
      let imm := (s.eng e).accImm
      let seg' := accSeg imm
      let m := tileSegs (accShape imm) (accCode imm)
      let uses : Bool :=
        if l.cls = .ctl then false
        else if l.i.mode = 0 then (l.i.dst :: l.i.sources).any (fun x => selOf x == some Sel.acc)
        else match parseTensor (s.peekBytes (wsAt (e / 48) l.i.cnt) 320) with
          | some d => (d.named l.i).any (fun sl => sl.acc)
          | none => false
      let begun : Bool := s.passed (e / 48) r.arith used && wait != .queue && wait != .segment
      if begun && uses && seg' < seg + n && seg < seg' + m then some (max seg seg') else none
    | _ => none

/-- The pour launches: its WAIT arrivals are taken, it counts, and it runs (R57, R59). -/
def State.launch (s : State) (u : Nat) (h : Held) : State :=
  let p := h.pour
  let s := (s.popHeld u).count .PLAN_LAUNCHES h.die h.ctx 1
  let s := if p.wait = 0xFFFF then s
    else s.setCtx h.ctx (fun x => x.setFlag h.die p.wait (x.flag h.die p.wait - p.waitCount))
  let s :=
    if s.unitFt u ≤ s.firstEdge h + 1 then s
    else
      let s := s.count .PLAN_HOLD_WAITS h.die h.ctx 1
      s.setReg .PLAN_MAX_WAIT h.die h.ctx (max (s.reg .PLAN_MAX_WAIT h.die h.ctx) (s.unitFt u - h.due))
  if p.action = 0 then if p.signal = 0xFFFF then s else s.arrive h.ctx h.die p.signal u
  else
    let s := if unitCls u = clsME then s.followShare (engineOf u) else s
    let s := s.setUnit u (fun y => { y with running := some ⟨h, s.ft, s.arithNs (unitDie u), s.startProg h⟩, paid := 0 })
    if unitCls u = clsME then
      let d := parseProd p.action h.bytes
      match s.veTouches (engineOf u) d.seg (tileSegs d.shape d.acc) with
      | some seg => s.failPour u stBadState 0 seg
      | none => s
    else s

/-- POUR_LAUNCH at the head of a unit's queue, by the FT of its die (R55); a commit whose T that FT has reached applies first (R69). -/
def State.tryLaunch (s : State) (u : Nat) : State :=
  match (s.unit u).queue with
  | [] => s
  | h :: _ =>
    if s.unitFt u < h.due then s
    else
      let s := s.applyBy h.ctx (max s.ft (s.unitFt u))
      let x := s.ctx h.ctx
      if x.passesOver h then s.popHeld u
      else if s.skips h then (s.popHeld u).count .PLAN_SKIPPED_GATED h.die h.ctx 1
      else if s.unitFt u ≤ s.holdEndOf h && s.clockRuns u && s.ready u h then s.launch u h
      else s

def execPourLaunch (t unit : Nat) (s : State) : Host.Outcome State Fault Refusal := .next ((s.advance t).tryLaunch unit)

/-- NOP: the head of the unit's queue is a NOP pour, and it launches. -/
def execNopPour (t unit : Nat) (s : State) : Host.Outcome State Fault Refusal :=
  let s := s.advance t
  match (s.unit unit).queue with
  | [] => .next s
  | h :: _ => if h.pour.action = 0 then .next (s.tryLaunch unit) else .next s

/-- The pours of a unit whose hold window has ended without a launch (R61), in the order they were handed over: behind the first, none can
launch while an earlier one waits (R56). -/
def State.overdue (s : State) (u : Nat) : List Held :=
  match (s.unit u).queue with
  | [] => []
  | h :: rest =>
    (if s.holdEndOf h < s.unitFt u || (s.holdEndOf h = s.unitFt u && !(s.clockRuns u && s.ready u h)) then [h] else []) ++
    rest.filter (fun k => s.holdEndOf k ≤ s.unitFt u)

/-- Of several, the pour whose window ended first. -/
def State.firstOverdue (s : State) : List Held → Option Held
  | [] => none
  | h :: rest => some (rest.foldl (fun b k => if s.holdEndOf k < s.holdEndOf b then k else b) h)

/-- One pour leaves a unit's queue. -/
def State.dropHeldPour (s : State) (u : Nat) (h : Held) : State := s.setUnit u (fun y => { y with queue := y.queue.erase h })

/-- HOLD_EXPIRY (R61): the hold window of a pour of the unit has ended without a launch. -/
def execHoldExpiry (t unit : Nat) (s : State) : Host.Outcome State Fault Refusal :=
  let s := s.advance t
  match s.firstOverdue (s.overdue unit) with
  | none => .next s
  | some h =>
    let x := s.ctx h.ctx
    if !x.launches || x.withdraws h then .next s
    else if x.passesOver h then .next (s.dropHeldPour unit h)
    else if s.skips h then .next ((s.dropHeldPour unit h).count .PLAN_SKIPPED_GATED h.die h.ctx 1)
    else
      let s := s.count .PLAN_LATE h.die h.ctx 1
      .next (s.faultCtx h.ctx stLateInput unit h.pour.offset 0 h.pour.offset)

/-- POUR_SIGNAL: the running pour's writes have reached their home. -/
def execPourSignal (t unit : Nat) (s : State) : Host.Outcome State Fault Refusal :=
  let s := s.advance t
  match s.runningOn unit with
  | none => .next s
  | some r =>
    if r.prog ≠ .ended then .next s
    else
      let s := s.dropRunning unit
      let h := r.held
      .next (if h.pour.signal = 0xFFFF then s else s.arrive h.ctx h.die h.pour.signal unit)

end Sys2Proof.Machine
end

