-- ==== Sys2Proof/Machine/Security.lean ====
section
/-!
DEFINITION. Loading an image (R441, R442), measurements and attestation (R445, R446), stand-alone die test (R448) and debug unlock
(R449): the rows IMAGE_START to DFT_MODE_WRITE.
-/
namespace Sys2Proof.Machine

def State.setSec (s : State) (f : Sec → Sec) : State := { s with sec := f s.sec }

/-! Loading an image. -/

/-- SEC_IMAGE_STATUS goes to FAILED. -/
def State.imageFails (s : State) (cause status : Nat) : State :=
  s.setSec (fun x => { x with img := .failed, imgCause := cause, imgStatus := status })

/-- One of banks 12 to 15 of D0 belongs to a context, or D0's self-test failed. -/
def State.stageTaken (s : State) : Bool :=
  (countFrom 12 4).any (fun b => (s.bankOwner b).isSome) || s.reg .DFT_SELFTEST 0 0 % 4 == 1

/-- START. It is no request while an image is verified or programmed. -/
def State.imageStart (s : State) : State :=
  if s.sec.img = .verifying || s.sec.img == .programming then s
  else if s.stageTaken then s.imageFails 0 stNoResource
  else (s.emptyQueue .dataPort).setSec (fun x => { x with img := .receiving, imgCause := 0, imgStatus := stOk, progress := 0 })

/-- VERIFY: verification begins, unless the address or the length is not allowed. -/
def State.imageVerify (s : State) : State :=
  if s.sec.img = .verifying || s.sec.img == .programming then s
  else if s.reg .SEC_IMAGE_ADDR 0 0 ≠ stageBase || s.reg .SEC_IMAGE_LEN 0 0 > 67108864 then s.imageFails 0 stBadParam
  else s.setSec (fun x => { x with img := .verifying, imgCause := 0, imgStatus := stOk })

/-- COMMIT, in state VERIFIED only: programming begins. -/
def State.imageCommit (s : State) : State :=
  if s.sec.img ≠ .verified then s
  else s.setSec (fun x => { x with img := .programming, progress := 0, committed := x.committed || s.boot.st == .done })

/-- A write to SEC_IMAGE_CTRL: its bits act in the order START, VERIFY, COMMIT. -/
def State.writeImageCtrl (s : State) (v : Nat) : State :=
  let s := if bitOf v 0 then s.imageStart else s
  let s := if bitOf v 1 then s.imageVerify else s
  if bitOf v 2 then s.imageCommit else s

def execImageStart (t value : Nat) (s : State) : Host.Outcome State Fault Refusal := .next ((s.advance t).writeImageCtrl value)
def execImageVerify (t value : Nat) (s : State) : Host.Outcome State Fault Refusal := .next ((s.advance t).writeImageCtrl value)
def execImageCommit (t value : Nat) (s : State) : Host.Outcome State Fault Refusal := .next ((s.advance t).writeImageCtrl value)

/-- IMAGE_VERIFY_DONE: the checks of R437 over the staged image, check 3 recording both results. An image that cannot be read ends FAILED with
MEM_UNCORRECTABLE (log 103). -/
def execImageVerifyDone (t : Nat) (s : State) : Host.Outcome State Fault Refusal :=
  let s := s.advance t
  if s.sec.img ≠ .verifying then .next s
  else
    let (s, ok) := s.readImage
    if !ok then .next (s.imageFails 0 stMemUncorrectable)
    else
      let cause := s.stagedCause
      let s := s.recordChecks
      if cause ≠ 0 then .next (s.imageFails cause (causeStatus cause))
      else .next (s.setSec (fun x => { x with img := .verified }))

/-- One byte of the programmed range reads back wrong: which one, and what it holds, is open. -/
def State.misprogram (s : State) (len : Nat) : State :=
  let (i, s) := s.free (max len 1)
  let (v, s) := s.free 255
  let a := imageFlash + i
  { s with flash := Sparse.put 0#8 s.flash a (Sparse.at? 0#8 s.flash a + BitVec.ofNat 8 (v + 1)) }

/-- IMAGE_PROGRAM_DONE: the flash holds the image and has been read back. A COMMIT in BOOT_HOLD, and a request that waited, end with a
package reset. A flash that does not answer reads back wrong; an image that cannot be read ends FAILED with MEM_UNCORRECTABLE, with the flash
erased (log 103). -/
def execImageProgramDone (t : Nat) (readBackOk : Bool) (s : State) : Host.Outcome State Fault Refusal :=
  let s := s.advance t
  if s.sec.img ≠ .programming then .next s
  else
    let len := s.reg .SEC_IMAGE_LEN 0 0
    let due := s.sec.resetDue
    let (s, ok) := s.readStaged 0 len
    let live := s.pins.vioOk
    let readBackOk := readBackOk && live && ok
    let s := (if live then s.program (if ok then len else 0) len else s).setSec (fun x => { x with
      img := .idle, progress := if ok && live then len else 0, resetDue := false })
    let s := if !ok then s.imageFails 0 stMemUncorrectable
      else if readBackOk then s else (if live then s.misprogram len else s).imageFails 0x06 (causeStatus 0x06)
    if due || (readBackOk && s.boot.st == .hold) then .next (s.packageReset s.trip) else .next s

/-! Measurements and attestation. -/

/-- A write to SEC_EXTEND_CTRL (R445). A value that cannot be read extends nothing. -/
def State.writeExtend (s : State) (v : Nat) : State :=
  let slot := v % 8
  let a := s.reg .SEC_EXTEND_ADDR 0 0
  if slot < 4 || !(isTier1 a || isWs a) then s
  else
    match s.load a 48 with
    | (s, none) => s
    | (s, some bs) => s.measure slot (sha384 (s.sec.meas.getD slot [] ++ bs))

def execSecExtendCtrlWrite (t value : Nat) (s : State) : Host.Outcome State Fault Refusal := .next ((s.advance t).writeExtend value)

/-- The nonce registers as 48 bytes. -/
def State.nonce (s : State) : List Byte := (List.range 6).flatMap (fun i => leBytes 8 (s.reg .SEC_ATTEST_NONCE 0 i))

/-- A destination R446 allows. -/
def attestDest (a : Nat) : Bool := a % 64 == 0 && (isTier1 a || isWs a)

/-- A write to SEC_ATTEST_CTRL: GO latches the nonce; a destination that is not allowed ends the report at once. -/
def State.writeAttest (s : State) (v : Nat) : State :=
  if s.sec.attBusy then s
  else
    let certs := s.sec.attCerts || bitOf v 1
    let dest := s.reg .SEC_ATTEST_DEST 0 0
    if !bitOf v 0 then s.setSec (fun x => { x with attCerts := certs })
    else if !attestDest dest then s.setSec (fun x => { x with attCerts := false, attStatus := stBadParam, attLength := 0 })
    else
      let n := s.nonce
      s.setSec (fun x => { x with attBusy := true, attCerts := certs, attNonce := n, attDest := dest })

def execAttestGo (t value : Nat) (s : State) : Host.Outcome State Fault Refusal := .next ((s.advance t).writeAttest value)

/-- Bytes 0 to 511 of the report. -/
def State.reportBody (s : State) : List Byte :=
  leBytes 4 0x52545441 ++ leBytes 2 1 ++ leBytes 1 s.boot.dbgLevel ++ leBytes 1 Config.stepping.toNat ++ leBytes 2 s.pkgId ++
  leBytes 2 Config.abiLevel ++ leBytes 2 s.boot.svn ++ leBytes 2 0 ++ (List.range 16).map Config.uniqueId ++ s.sec.attNonce ++
  leBytes 8 s.ft ++ s.sec.meas.flatten ++ List.replicate 40 0#8

/-- The seeds of the DeviceID key and of the alias key (R444). -/
def udsBytes : List Byte := (List.range 48).map Config.uds
def deviceSeed : List Byte := hmac384 udsBytes (ascii "DeviceID")
def State.aliasSeed (s : State) : List Byte := hmac384 udsBytes (s.sec.meas.take 3).flatten

/-- The random bytes of a report: the salt of its RSA signature and the randomiser of the other. -/
def State.reportRandom (s : State) : List Byte := (countFrom s.freeCount 72).map Config.random

/-- The report, 17,120 bytes, signed with the alias keys that M0 to M2 make (R444). -/
def State.report (s : State) : List Byte :=
  let b := s.reportBody
  let r := s.reportRandom
  let (n, d) := rsaKeyOf s.aliasSeed
  b ++ beBytes 384 (beNat (pssSign n d b (r.take 48))) ++ slhSign (slhKeyOf s.aliasSeed) (r.drop 48) b

/-- The four certificates, each behind its length: DeviceID before alias, RSA before SLH-DSA (log 103). -/
def State.certs (s : State) : List Byte :=
  (List.range 2).flatMap (fun i => let c := Config.deviceCert i; leBytes 4 c.length ++ c) ++
  (List.range 2).flatMap (fun i => let c := Config.aliasCert i deviceSeed s.aliasSeed; leBytes 4 c.length ++ c)

/-- ATTEST_DONE: the report and any certificates are written; GO and CERTS clear. -/
def execAttestDone (t : Nat) (s : State) : Host.Outcome State Fault Refusal :=
  let s := s.advance t
  if !s.sec.attBusy then .next s
  else
    let bs := s.report ++ (if s.sec.attCerts then s.certs else [])
    let (s, ok) := { s with freeCount := s.freeCount + 72 }.save s.sec.attDest bs
    .next (s.setSec (fun x => { x with
      attBusy := false, attCerts := false, attStatus := if ok then stOk else stMemUncorrectable, attLength := bs.length }))

/-! Debug unlock and die test. -/

/-- The window closes: boot goes on with stage 0x03. -/
def State.debugEnds (s : State) (level status : Nat) (late : Bool) : State :=
  ({ s with boot := { s.boot with dbgSince := none, dbgLevel := level, dbgStatus := status, dbgTimeout := late } }).pass

/-- Bytes of a signed response: level, three zero bytes, both signatures. -/
def responseOk (challenge r : List Byte) : Bool :=
  let level := fieldAt r 0 1
  let msg := challenge ++ (List.range 16).map Config.uniqueId ++ leBytes 1 level
  let rsa := (List.range 384).map Config.debugRsaKey
  let slh := (List.range 48).map Config.debugSlhKey
  let fused (i : Nat) : List Byte := (List.range 48).map (Config.debugKeyHash i)
  sha384 rsa == fused 0 && sha384 slh == fused 1 && r.length == 4 + 384 + 16224 && (level == 1 || level == 2) && zeroAt r 1 3 &&
  pssVerify rsa msg ((r.drop 4).take 384) && slhVerify slh msg (r.drop 388)

/-- UNLOCK: the response arrives over the test port within 10,000,000,000 ns. -/
def execUnlock (t : Nat) (response : List Byte) (s : State) : Host.Outcome State Fault Refusal :=
  let s := s.advanceAon t
  let s := if s.pinsLive then s.setSec (fun x => { x with tapReset := false }) else s
  match s.boot.dbgSince with
  | none => .next s
  | some since =>
    if !s.pinsLive then .next s
    else if s.aon ≥ since + 10000000000 then .next (s.debugEnds 0 0 true)
    else if responseOk s.boot.challenge response then .next (s.debugEnds (fieldAt response 0 1) stOk false)
    else .next (s.debugEnds 0 stSigInvalid false)

/-- DEBUG_UNLOCK_TIMEOUT. -/
def execDebugUnlockTimeout (t : Nat) (s : State) : Host.Outcome State Fault Refusal :=
  let s := s.advanceAon t
  match s.boot.dbgSince with
  | none => .next s
  | some since => if s.aon ≥ since + 10000000000 then .next (s.debugEnds 0 0 true) else .next s

/-! The test port (R447). The table has no row that shifts the port, but for UNLOCK and TRST_N_ASSERT: here is what it gives at a level. -/

/-- The instructions of the test access port and what they reach. -/
inductive TapInstr where
  | bypass | idcode | samplePreload | extest | wrapper | dieSelect | dieTest | debugModule | registerAccess | unlock
  deriving DecidableEq, Repr

/-- The lowest debug level that allows an instruction. -/
def TapInstr.level : TapInstr → Nat
  | .bypass => 0 | .idcode => 0 | .samplePreload => 0 | .unlock => 0
  | .extest => 1 | .wrapper => 1 | .dieSelect => 1 | .dieTest => 1
  | .debugModule => 2 | .registerAccess => 2

def State.tapAllows (s : State) (i : TapInstr) : Bool := s.pinsLive && (i.level ≤ s.boot.dbgLevel : Bool)

/-- The dies whose access ports join the scan chain, in die order. -/
def State.chain (s : State) : List Nat := dies.filter (fun d => bitOf (s.reg .DFT_CHAIN 0 0) d)

/-- What IDCODE gives of a die. -/
def idcode (die : Nat) : Nat := 2 ^ 28 * (Config.stepping.toNat % 16) + 2 ^ 12 * (0x7A10 + die) + Config.manufacturer.toNat * 2 + 1

/-- What the chain gives under IDCODE, one register of 32 bits for each die in it; under BYPASS each of them is one bit. -/
def State.chainIdcodes (s : State) : List Nat := s.chain.map idcode

/-! Stand-alone test mode (R448). -/

/-- The die runs a loop-back of DFT_MODE; the far-end one needs the neighbour in test mode as well. -/
def State.loops (s : State) (die : Nat) : Bool :=
  let m := s.reg .DFT_MODE die 0
  let loop := bitsOf m 3 1
  let far : Bool :=
    match (if die % 4 = 3 && bitsOf m 5 4 == 1 || die % 4 == 0 && bitsOf m 5 4 == 0 then none
      else match bitsOf m 5 4 with | 0 => some (die - 1) | 1 => some (die + 1) | 2 => some ((die + 4) % 8) | _ => none) with
    | some n => bitOf (s.reg .DFT_MODE n 0) 0
    | none => false
  bitOf m 0 && (loop == 1 || loop == 2 || (loop == 3 && far))

/-- Bits compared, and wrong ones among them, since the loop-backs were counted last: how many a nanosecond compares is open (log 6). -/
def State.loopSince (s : State) (die : Nat) : Nat × Nat :=
  if !s.loops die then (0, 0)
  else
    let ts := countFrom (s.mgmt.lbAt + 1) (s.aon - s.mgmt.lbAt)
    ((ts.map (Config.loopBits die)).sum, (ts.map (fun t => Config.loopErrors die t % (Config.loopBits die t + 1))).sum)

/-- The loop-backs of all dies are counted up to now. -/
def State.settleLoops (s : State) : State :=
  let n := dies.map s.loopSince
  let s := dies.foldl (fun s d =>
    (s.count .DFT_LB_BITS d 0 (n.getD d (0, 0)).1).count .DFT_LB_ERRORS d 0 (n.getD d (0, 0)).2) s
  s.setMgmt (fun m => { m with lbAt := s.aon })

/-- A write to DFT_MODE (R448): entering the test mode has its conditions, and only a package reset leaves it. -/
def State.writeDftMode (s : State) (die v : Nat) : State :=
  let s := s.settleLoops
  let old := s.reg .DFT_MODE die 0
  let allowed : Bool := s.boot.dbgLevel ≥ 1 && s.boot.st == .hold && (die == 0 || bitOf (s.reg .DIE_STATUS die 0) 0)
  if bitOf v 0 && !bitOf old 0 && !allowed then s
  else s.setReg .DFT_MODE die 0 (v % 64 / 2 * 2 + b2n (bitOf v 0 || bitOf old 0))

def execDftModeWrite (t die value : Nat) (s : State) : Host.Outcome State Fault Refusal :=
  let s := s.advance t
  if die ≥ 8 then .next s else .next (s.writeDftMode die value)

end Sys2Proof.Machine
end

