-- ==== Sys2Proof/Machine/RegFile.lean ====
section
/-!
DEFINITION. The register file (R7 to R11 and the register tables of every chapter): what each register reads as, what a write does, and
the rows REGISTER_WRITE, REGISTER_READ, COUNTER_CLEAR, ERR_FQ_RELEASE, ERR_INJECT_WRITE and FAULT_RECORD_ARRIVE.
-/
namespace Sys2Proof.Machine

/-! Owners and states of units. -/

/-- CONTEXT[23:20] and OWNED[19]. -/
def ownerBits (o : Option Nat) : Nat := match o with | some c => 2 ^ 20 * c + 2 ^ 19 | none => 0

/-- A bit for each of `n` resources that `own` gives an owner; and the owners, four bits each. -/
def ownedMask (n : Nat) (own : Nat → Option Nat) : Nat := bitsAt ((List.range n).filter (fun i => (own i).isSome))
def ownerNibbles (n : Nat) (own : Nat → Option Nat) : Nat := (List.range n).foldl (fun v i => v + (own i).getD 0 * 2 ^ (4 * i)) 0

/-- Bits of the `n` units of a class on a die that DISABLE_UNIT does not hold. -/
def State.enabledMask (s : State) (die cls n : Nat) : Nat :=
  bitsAt ((List.range n).filter (fun i => !(s.unit (unitId die cls i)).disabled))

/-- ACTION[15:8] and OFFSET of the running pour. -/
def State.actionBits (s : State) (u : Nat) : Nat := match s.runningOn u with | some r => 2 ^ 8 * (r.held.pour.action % 256) | none => 0
def State.curOffset (s : State) (u : Nat) : Nat := match s.runningOn u with | some r => r.held.pour.offset | none => 0

/-- STATE of a matrix engine: a PRODUCT is COMPUTING once its step has begun; before that it is LOADING. -/
def State.meState (s : State) (u : Nat) : Nat :=
  if (s.unit u).disabled then 4
  else match s.runningOn u with
    | none => 0
    | some r =>
      match r.prog with
      | .start => if r.held.pour.action = 1 then 1 else 3
      | .draining _ _ _ => 3
      | _ => if r.held.pour.action = 1 then 2 else 3

/-- STATE of a vector engine. -/
def State.veState (s : State) (u : Nat) : Nat :=
  if (s.unit u).disabled then 4
  else match s.runningOn u with
    | none => 0
    | some r =>
      match r.prog with
      | .copying _ => 1
      | .kernel _ _ _ _ wait _ => if wait = .none then 2 else 3
      | _ => 2

/-- STATE of an adder or a tile mover: IDLE, RUNNING, DISABLED. -/
def State.runState (s : State) (u : Nat) : Nat := if (s.unit u).disabled then 2 else b2n (s.runningOn u).isSome

/-- STATE of an update unit. -/
def State.uuState (s : State) (u : Nat) : Nat :=
  if (s.unit u).disabled then 5 else match s.runningOn u with | some r => r.held.pour.action % 8 | none => 0

/-- The shard in progress. -/
def State.uuShard (s : State) (u : Nat) : Nat :=
  match s.runningOn u with
  | some r =>
    match r.prog with
    | .sweeping w =>
      let rs := s.tableRegions u (fieldAt r.held.bytes 0 4)
      if r.held.pour.action = 4 then (match rs[w.phase]? with | some x => x.shard | none => 0)
      else (match phaseOf rs w.phase with | some (x, _, _) => x.shard | none => 0)
    | _ => 0
  | none => 0

/-- The tile in progress: the oldest in flight, else the last one issued. -/
def State.curTile (s : State) (u : Nat) : Nat :=
  match s.runningOn u with
  | some r =>
    match r.prog with
    | .moving n fl _ _ _ => (fl.map (fun x => x.tile)).foldl min (n - 1)
    | _ => 0
  | none => 0

/-- Segments of live tiles. -/
def State.accLive (s : State) (e : Nat) : Nat :=
  bitsAt (((s.eng e).tiles.filter (fun x => x.live)).flatMap (fun x => countFrom x.seg (tileSegs x.shape x.fmt)))

/-! Queue status words (R400). -/

def queueStatusWord (lost full empty : Bool) (unread held : Nat) : Nat :=
  2 ^ 63 * b2n lost + 2 ^ 49 * b2n full + 2 ^ 48 * b2n empty + 2 ^ 16 * (unread % 2 ^ 16) + held % 2 ^ 16

/-- UNREAD and HELD as the read side takes them: a write shows once WR has crossed (R389). -/
def RunQ.unreadSeen (q : RunQ) : Nat := q.wrSeen - q.rd
def RunQ.heldSeen (q : RunQ) : Nat := q.wrSeen - q.rp

def State.queueWord (s : State) (id : QueueId) : Nat :=
  let q := s.queue id
  queueStatusWord q.overrun (q.full (queueDepth id)) q.isEmpty q.unreadSeen q.heldSeen

/-- The word of a bridge endpoint covers its 64 groups. -/
def State.bridgeWord (s : State) (die slot : Nat) : Nat :=
  let qs := (List.range 64).map (fun g => s.queue (.bridgeRetry die slot g))
  let sum (f : RunQ → Nat) : Nat := qs.foldl (fun a q => a + f q) 0
  queueStatusWord (qs.any (fun q => q.overrun)) (qs.any (fun q => q.full 32)) (qs.all RunQ.isEmpty) (sum RunQ.unreadSeen) (sum RunQ.heldSeen)

/-! Bridges. -/

/-- The direction that arrives at an endpoint. -/
def arriving (die slot : Nat) : Dir := let (d, k) := receiver ⟨die, slot⟩; ⟨d, k⟩

/-- The spares of a group, a byte each. -/
def BridgeSt.spareBytes (b : BridgeSt) (g : Nat) : Nat :=
  (List.range 4).foldl (fun v i =>
    let x := b.spare g i
    v + (if x = 0 || x == failedSpare then 0 else 0x80 + (x - 1) % 64) * 2 ^ (8 * i)) 0

def State.brgView (s : State) (r : Reg) (die slot : Nat) : Nat :=
  let tx := s.dir ⟨die, slot⟩
  let rx := s.dir (arriving die slot)
  if !dirExists ⟨die, slot⟩ then 0
  else match r with
    | .BRG_STATUS =>
      2 ^ 16 + (if !tx.trained then 0
        else 2 ^ 21 * (neighbour die slot).getD 0 + 2 ^ 18 * b2n (!rx.marked.isEmpty) + 2 ^ 17 + 2 ^ 8 * rx.inService + tx.inService)
    | .BRG_RETIRED_TX => tx.retired
    | .BRG_RETIRED_RX => rx.retired
    | .BRG_GROUP_INFO =>
      let g := s.reg .BRG_GROUP_SEL die slot
      tx.spareBytes g + 2 ^ 32 * rx.spareBytes g
    | .BRG_RQ_STATUS => s.bridgeWord die slot
    | _ => s.reg r die slot

/-! Views by block: what a register reads as when it is no plain store. -/

def State.dieView (s : State) (r : Reg) (die : Nat) : Nat :=
  match r with
  | .DIE_ID => 2 ^ 5 * (die % 4) + 2 ^ 4 * (die / 4) + (if die = 0 then 8 else 0) + die
  | .DIE_HOPS => (List.range 8).foldl (fun v k => v + hops die k * 2 ^ (4 * k)) 0
  | .PKG_ABI => Config.abiLevel
  | .PKG_STEPPING => Config.stepping.toNat
  | .PKG_DIES_RELEASED => bitsAt s.releasedDies
  | _ => s.reg r die 0

def lockCode : Lock → Nat
  | .free => 0 | .acquiring => 1 | .locked => 2 | .holdover => 3

def State.ftView (s : State) (r : Reg) (die : Nat) : Nat :=
  let f := s.ftu
  match r with
  | .FT_NOW => s.dieFt die
  | .FT_STATUS =>
    2 ^ 16 * (f.master % 2 ^ 16) + 2 ^ 12 * (f.stratum % 16) + 2 ^ 8 * (f.port % 16) + (if f.lock = .free then 0 else s.ftSource) * 4 + lockCode f.lock
  | .FT_OFFSET => (f.offset % 2 ^ 64).toNat
  | .FT_PATH_DELAY => f.pathDelay
  | .FT_SYNC_EDGE => f.syncEdge
  | .FT_HOLDOVER_NS => if f.lock = .holdover then s.ft - f.holdSince else 0
  | _ => s.reg r die 0

def ctxCode : CtxSt → Nat
  | .empty => 0 | .loaded => 1 | .armed => 2 | .running => 3 | .faulted => 4 | .halting => 5

/-- Free entries of a die's sequencer: all of them, and the largest run (R53). -/
def State.entryRuns (s : State) (die : Nat) : List Nat := (freeRuns (s.heldEntries 16 die)).map Prod.snd

def State.planView (s : State) (r : Reg) (die c : Nat) : Nat :=
  let x := s.ctx c
  match r with
  | .PLAN_CAPACITY => 65536
  | .PLAN_FREE => (s.entryRuns die).foldl (· + ·) 0
  | .PLAN_FREE_MAX => (s.entryRuns die).foldl max 0
  | .PLAN_CTX_STATE =>
    (if x.st = .faulted then 2 ^ 16 * x.lastCode else 0) + b2n x.fabric * 16 + b2n x.commit.isSome * 8 + ctxCode x.st
  | .PLAN_HEAT_LEN => 1024 * x.heatUnits
  | .PLAN_ARM_FT => x.armFt
  | .PLAN_HEAT_NUM => x.heat
  | .PLAN_STEP_COUNT => x.stepCount
  | .PLAN_ENTRIES => let (b, n) := x.entries.getD die (0, 0); b % 2 ^ 16 + 2 ^ 32 * n
  | .PLAN_COMMIT_FT => match x.commit with | some (t, _) => t | none => 0
  | .PLAN_STAGED => x.stage.length
  | .PLAN_HOLD_DEFAULT => 64 * x.holdDefault
  | .PLAN_OVER => x.overN
  | _ => s.reg r die c

def State.engView (s : State) (r : Reg) (die k : Nat) : Nat :=
  let e := die * 48 + k
  let m := unitId die clsME k
  let v := unitId die clsVE k
  match r with
  | .ENG_PRESENT => 2 ^ 48 - 1
  | .ENG_ENABLED => s.enabledMask die clsME 48
  | .ENG_VE_ENABLED => s.enabledMask die clsVE 48
  | .ME_STATUS => ownerBits (s.engineOwner e) + s.actionBits m + s.meState m
  | .ME_ACC_LIVE => s.accLive e
  | .ME_CUR_OFFSET => s.curOffset m
  | .VE_STATUS => ownerBits (s.engineOwner e) + s.veState v
  | .VE_PC => match s.runningOn v with | some r => (match r.prog with | .kernel _ pc _ _ _ _ => pc | _ => 0) | none => 0
  | .VE_CUR_OFFSET => s.curOffset v
  | .VE_TQ_NEXT_SEQ => (s.eng e).nextSeq
  | .VE_TQD_STATUS => s.queueWord (.tileData e)
  | .VE_TQH_STATUS => s.queueWord (.tileHeader e)
  | _ => s.reg r die k

def State.laddView (s : State) (r : Reg) (die k : Nat) : Nat :=
  let tag := s.reg .LADD_TAG_SEL die 0
  match r with
  | .LADD_TAG_INFO =>
    match s.tagSt tag with
    | some (.bound c) => 2 ^ 16 * ((s.ctx c).gen % 256) + 2 ^ 8 * c + 1
    | some (.quarantined _) => 2
    | none => 0
  | .LADD_TAG_QEND => match s.tagSt tag with | some (.quarantined t) => t | _ => 0
  | .LADD_TAGS_FREE => 4096 - (s.tags.filter (fun e => (s.tagSt e.1).isSome)).length
  | .LADD_STATUS => let u := unitId die clsLADD k; ownerBits (s.adderOwner (die * 2 + k)) + s.actionBits u + s.runState u
  | .LADD_REF_FLAGS => (s.ctx k).stepFlags
  | _ => s.reg r die k

def State.uuView (s : State) (r : Reg) (die k : Nat) : Nat :=
  let u := unitId die clsUU k
  match r with
  | .UU_PRESENT => 2 ^ 64 - 1
  | .UU_ENABLED => s.enabledMask die clsUU 64
  | .UU_STATUS => ownerBits (s.channelOwner (64 * die + k)) + s.actionBits u + s.uuState u
  | .UU_CUR_SHARD => s.uuShard u
  | _ => s.reg r die k

def State.wsView (s : State) (r : Reg) (die k : Nat) : Nat :=
  let u := unitId die clsWS (0x10 + k)
  let bank (b : Nat) : Option Nat := s.bankOwner (die * 16 + b)
  match r with
  | .WS_BANK_OWNED => ownedMask 16 bank
  | .WS_BANK_OWNER => ownerNibbles 16 bank
  | .WS_DIRTY_INFO => b2n (!Sparse.at? false s.clean (2 ^ 18 * die + s.reg .WS_DIRTY_SEL die 0))
  | .WS_TM_STATUS => ownerBits (s.moverOwner (die * 16 + k)) + s.actionBits u + s.runState u
  | .WS_TM_CUR_TILE => s.curTile u % 2 ^ 16
  | _ => s.reg r die k

def State.stkView (s : State) (r : Reg) (die k : Nat) : Nat :=
  let ch (base i : Nat) : Option Nat := s.channelOwner (64 * die + base + i)
  match r with
  | .STK_CH_OWNED => ownedMask 64 (ch 0)
  | .STK_CH_OWNER0 => ownerNibbles 16 (ch 0)
  | .STK_CH_OWNER1 => ownerNibbles 16 (ch 16)
  | .STK_CH_OWNER2 => ownerNibbles 16 (ch 32)
  | .STK_CH_OWNER3 => ownerNibbles 16 (ch 48)
  | _ => s.reg r die k

def linkCode : LinkSt → Nat
  | .disabled => 0 | .down => 1 | .training => 2 | .up => 3 | .retrain => 4

def State.portView (s : State) (r : Reg) (die k : Nat) : Nat :=
  let p := die * 2 + k
  let x := s.port p
  match r with
  | .PORT_ROUTE_DATA => Sparse.at? 0 s.routes (s.reg .PORT_ROUTE_SEL 0 0)
  | .PORT_BIAS_DATA => Sparse.at? 0 s.bias (s.reg .PORT_BIAS_SEL 0 0)
  | .PORT_STATUS => 2 ^ 16 * (x.peer.getD 0 % 2 ^ 14) + 2 ^ 8 * b2n x.peer.isSome + linkCode x.link
  | .PORT_LINK_DELAY => x.delay
  | .PORT_RETRAIN_FT => x.retrainFt
  | .PORT_TAGS_FREE => 4096 - x.tags.length
  | .PORT_RQ_STATUS => s.queueWord (.portReplay p)
  | _ => s.reg r die k

def State.hcxView (s : State) (r : Reg) (die k : Nat) : Nat :=
  let way (w : Nat) : Option Nat := s.ownerOf (fun p => bitOf (p.ways.getD die 0) w)
  match r with
  | .HCX_CORE_PRESENT => 2 ^ 24 - 1
  | .HCX_CORE_RUN => if s.coresRun then 2 ^ 24 - 1 else 0
  | .HCX_DOMAIN => match s.hcx.down with | some (cause, _) => 1 + 2 ^ 8 * (cause % 256) | none => 0
  | .HCX_DOWN_FT => match s.hcx.down with | some (_, f) => f | none => 0
  | .HCX_WAY_OWNED => ownedMask 16 way
  | .HCX_WAY_OWNER => ownerNibbles 16 way
  | .HCX_DIR_ENTRIES => (s.hcx.dir.filter (fun e => s.lineHome e.1 = die)).length
  | _ => s.reg r die k

def State.ptuView (s : State) (r : Reg) (die c : Nat) : Nat :=
  match r with
  | .PTU_TC_CAPACITY => 4096
  | .PTU_TC_PINNED => ((s.tc.getD die []).filter (fun e => e.pinned)).length
  | .PTU_CTX_ALLOT => (s.ctx c).part.allot.getD die 0
  | .PTU_CTX_PINNED => s.pinnedOf die c
  | .PTU_CTX_RETIRING =>
    s.invals.foldl (fun a i => if i.ctx = c then a + (((i.retiring.filter (fun x =>
      unitDie x.1 = die && !i.dies.contains die && !s.retired x)).map (fun x => (x.1, x.2.2))).eraseDups).length else a) 0
  | _ => s.reg r die c

def State.cmdpView (s : State) (r : Reg) (die k : Nat) : Nat :=
  let g := s.ring k
  let x := s.ctx k
  match r with
  | .CMDP_SERVES =>
    bitsAt ((List.range 16).filter (fun c => (s.ctx c).created && (s.ctx c).home == die)) + (if die = 0 then 0x10000 else 0)
  | .CMDP_CTX_STATUS =>
    if k ≥ 16 then 0
    else 2 ^ 8 * (x.home % 8) + b2n x.resetCmds.isSome * 16 + b2n g.evtLost * 8 + b2n x.preempt.isSome * 4 + b2n g.fault * 2 + b2n x.created
  | .CMDP_RING_BASE => g.base
  | .CMDP_CPL_BASE => g.cplBase
  | .CMDP_RING_SIZE => 2 ^ 8 * g.cplLog + g.cmdLog
  | .CMDP_RING_TAIL => g.tail
  | .CMDP_RING_HEAD => g.head
  | .CMDP_CPL_HEAD => g.cplHead
  | .CMDP_CPL_TAIL => g.cplTail + 2 ^ 16 * b2n g.phase
  | .CMDP_OUTSTANDING => g.out.length
  | .CMDP_SEQ_RUNNING => if k < 16 then x.seqs.length else 0
  | .CMDP_SEQ_FREE => if k < 16 then x.freeCount else 0
  | .CMDP_PREEMPT_AT => match (if k < 16 then x.resume else none) with | some o => 2 ^ 63 + o % 2 ^ 32 | none => 0
  | _ => s.reg r die k

def State.pwrView (s : State) (r : Reg) (die k : Nat) : Nat :=
  let p := s.die die
  match r with
  | .PWR_STATUS =>
    2 ^ 20 * p.level + 2 ^ 19 * b2n p.thermal + 2 ^ 18 * b2n (p.level ≠ 0) + 2 ^ 17 * b2n (s.asleep.any (fun x => x / 2 = die)) +
    2 ^ 16 * b2n p.exitBy.isSome + idleCode p.idle
  | .PWR_LTV => p.ltv
  | .PWR_BUDGET => p.budget
  | .PWR_POWER => p.power
  | .PWR_TEMP_DATA => p.temps.getD (s.reg .PWR_TEMP_SEL die 0) 0
  | .PWR_COEF_DATA => let c := s.reg .PWR_COEF_SEL die 0; if c < 20 then (Config.energyCoef die c).toNat else 0
  | .PWR_PKG_INPUT => if s.pins.ftHeld then 0 else (Config.pkgInput s.ft).toNat
  | _ => s.reg r die k

def bootCode : BootSt → Nat
  | .reset => 0 | .booting => 1 | .done => 2 | .hold => 3
def imgCode : ImgSt → Nat
  | .idle => 0 | .receiving => 1 | .verifying => 2 | .verified => 3 | .programming => 4 | .failed => 5

def State.secView (s : State) (r : Reg) (k : Nat) : Nat :=
  let b := s.boot
  let x := s.sec
  match r with
  | .SEC_BOOT_STAGE => 2 ^ 48 * b.status + 2 ^ 40 * b.die + 2 ^ 16 * b.cause + 2 ^ 8 * b.stage + bootCode b.st
  | .SEC_BOOT_RESULT =>
    2 ^ 24 * b2n b.ftWaitExpired + 2 ^ 16 * b.svn + 2 ^ 8 * b.slhSlot + 2 ^ 4 * b.rsaSlot + b2n b.slhOk * 2 + b2n b.rsaOk
  | .SEC_BOOT_TIME => if b.st = .booting then s.aon - b.started else b.time
  | .SEC_SVN_MIN => s.fuses.1
  | .SEC_IMAGE_STATUS => 2 ^ 32 * (x.progress % 2 ^ 32) + 2 ^ 16 * x.imgStatus + 2 ^ 8 * x.imgCause + imgCode x.img
  | .SEC_ATTEST_CTRL => b2n x.attBusy + b2n x.attCerts * 2
  | .SEC_ATTEST_STATUS => 2 ^ 32 * (x.attLength % 2 ^ 32) + 2 ^ 16 * x.attStatus + b2n x.attBusy
  | .SEC_DEBUG_STATUS => 2 ^ 16 * b.dbgStatus + b2n b.dbgTimeout * 8 + b2n b.dbgReq * 4 + b.dbgLevel
  | .SEC_DEBUG_CHAL => fieldAt b.challenge (k * 8) 8
  | .SEC_UID => leNat ((countFrom (k * 8) 8).map Config.uniqueId)
  | .SEC_MEAS => fieldAt (x.meas.getD (k / 6) []) (k % 6 * 8) 8
  | _ => s.reg r 0 k

/-- The oldest stored fault record. -/
def State.oldestRec (s : State) (die : Nat) : Option QEntry := (s.queue (.faultQueue die)).entries.head?

def State.errView (s : State) (r : Reg) (die : Nat) : Nat :=
  let q := s.queue (.faultQueue die)
  let word (k : Nat) : Nat := match s.oldestRec die with | some e => fieldAt e.bytes (8 * k) 8 | none => 0
  match r with
  | .ERR_FQ_STATUS => s.queueWord (.faultQueue die)
  | .ERR_FQ_FIRST_LOST => q.firstLost
  | .ERR_FQ_LAST_LOST => q.lastLost
  | .ERR_FQ_REC0 => word 0
  | .ERR_FQ_REC1 => word 1
  | .ERR_FQ_REC2 => word 2
  | .ERR_FQ_REC3 => word 3
  | _ => s.reg r die 0

def State.dftView (s : State) (r : Reg) (die : Nat) : Nat :=
  match r with
  | .DFT_IDCODE => idcode die
  | .DFT_LB_BITS => countUp (s.reg .DFT_LB_BITS die 0) (s.loopSince die).1
  | .DFT_LB_ERRORS => countUp (s.reg .DFT_LB_ERRORS die 0) (s.loopSince die).2
  | _ => s.reg r die 0

/-- The write path holds an entry not yet applied. -/
def State.mdpBusy (s : State) : Bool := !(s.queue .dataPort).entries.isEmpty

/-- The static I3C address: 0x58 plus the straps (R476). -/
def State.staticAddr (s : State) : Nat := 0x58 + s.pins.straps

def State.mdpView (s : State) (r : Reg) : Nat :=
  let m := s.mgmt
  match r with
  | .MDP_STATUS =>
    2 ^ 48 * m.lastErr + 2 ^ 32 * m.errSrc + b2n (s.boot.st == .hold) * 8 + b2n m.underrun * 4 + b2n m.err * 2 + b2n s.mdpBusy
  | .MDP_WQ_STATUS => s.queueWord .dataPort
  | .MDP_I3C_ADDR => (if s.pins.ftHeld then 0 else s.staticAddr) + (match m.dynAddr with | some a => 2 ^ 8 * (a % 128) + 2 ^ 15 | none => 0)
  | _ => s.reg r 0 0

/-- What a register reads as, by the block its offset lies in (R35); SEC and MDP exist on D0 alone. -/
def State.view (s : State) (x : RegRef) : Nat :=
  let i := regInfo x.reg
  if i.access = .wo then 0
  else if i.scope = .blk then s.dieView x.reg x.die
  else
    match i.off / 0x10000 with
    | 0x00 => s.dieView x.reg x.die
    | 0x01 => s.ftView x.reg x.die
    | 0x02 => s.planView x.reg x.die x.slot
    | 0x03 => s.cmdpView x.reg x.die x.slot
    | 0x04 => s.ptuView x.reg x.die x.slot
    | 0x05 => s.wsView x.reg x.die x.slot
    | 0x06 => s.stkView x.reg x.die x.slot
    | 0x07 => s.uuView x.reg x.die x.slot
    | 0x08 => s.brgView x.reg x.die x.slot
    | 0x09 => s.portView x.reg x.die x.slot
    | 0x0A => s.laddView x.reg x.die x.slot
    | 0x0B => s.hcxView x.reg x.die x.slot
    | 0x0C => s.engView x.reg x.die x.slot
    | 0x0D => s.pwrView x.reg x.die x.slot
    | 0x0E => s.errView x.reg x.die
    | 0x0F => s.secView x.reg x.slot
    | 0x10 => s.mdpView x.reg
    | 0x11 => s.dftView x.reg x.die
    | _ => s.reg x.reg x.die x.slot

/-! Reads. -/

/-- Release the oldest `n` records (R457). -/
def State.fqRelease (s : State) (die n : Nat) : State :=
  s.setQueue (.faultQueue die) (fun q =>
    let n := min n q.held
    RunQ.release true (q.rp + n) (q.readTo (q.rp + n)))

/-- A record that cannot be read is released unread and counts as lost; the lost-item words take MEM_UNCORRECTABLE and no unit, and a context
that is open (R394, R399, log 6). -/
def State.recLost (s : State) (die n : Nat) : State :=
  let (ctx, s) := s.free 256
  ((s.fqRelease die n).setQueue (.faultQueue die) (qLost s.ft (lostWord stMemUncorrectable noUnit ctx))).count .ERR_FQ_LOST die 0 1

/-- A read of REC0 meets the stored errors of a record, its tag among them (R398): corrected words count; an uncorrectable one loses the record,
and the read goes on with the next. -/
def State.recCheck (die : Nat) : Nat → State → State
  | 0, s => s
  | k + 1, s =>
    match s.oldestRec die with
    | none => s
    | some e => if e.bad then State.recCheck die k (s.recLost die 1) else s.count .ERR_FQ_ECC_CORR die 0 e.corr

/-- A read of a register other than MDP_H_DATA: RC registers clear (R9), records are checked. -/
def State.readPlain (s : State) (x : RegRef) : State × Nat :=
  let s := if x.reg = .ERR_FQ_REC0 then State.recCheck x.die 256 s else s
  let v := s.view x
  if (regInfo x.reg).access = .rc then (s.setReg x.reg x.die x.slot 0, v) else (s, v)

/-- The window of the management data port that makes an access: 1 QSPI, 2 host (MDP_STATUS.ERR_SRC). -/
def State.mdpError (s : State) (src code : Nat) : State :=
  { s with mgmt := { s.mgmt with err := true, lastErr := code, errSrc := src } }

/-- The addresses that the data port reaches (R480): in BOOT_HOLD banks 12 to 15 of D0, D0's window and the package-wide block. -/
def State.mdpReach (s : State) (a n : Nat) : Nat :=
  if !isAssigned a || !isAssigned (a + (n - 1)) then stTranslationFault
  else if s.boot.st = .hold && !((stageBase ≤ a && a + n ≤ stageBase + 0x10000000) || (regBase ≤ a && a + n ≤ regBase + 0x1000000)
      || (blkBase ≤ a && a + n ≤ blkBase + 0x1000000)) then stBadState
  else if isRegAddr a && !(a % 8 == 0 && n % 8 == 0) then stBadParam
  else stOk

/-- One aligned word, or bytes of memory, read through the data port; `host` is what a read of MDP_H_DATA gives. -/
def State.mdpGet (s : State) (src a n : Nat) (host : State → State × Nat) : State × List Byte :=
  let st := s.mdpReach a n
  let bad (s : State) (code : Nat) : State × List Byte := (s.mdpError src code, List.replicate n 0xFF#8)
  if st ≠ stOk then bad s st
  else if isRegAddr a then
    match regAt a with
    | none => (s, List.replicate n 0#8)
    | some x => let (s, v) := if x.reg = .MDP_H_DATA then host s else s.readPlain x; (s, leBytes n v)
  else
    match s.load a n with
    | (s, none) => bad s stMemUncorrectable
    | (s, some bs) => (s, bs)

/-- An access to MDP_H_DATA moves MDP_H_ADDR on by 8 (R483). -/
def State.hAdvance (s : State) : State := s.setReg .MDP_H_ADDR 0 0 ((s.reg .MDP_H_ADDR 0 0 + 8) % 2 ^ 44)

/-- A read of MDP_H_DATA: 8 bytes at MDP_H_ADDR (R483). One at the address of MDP_H_DATA itself makes no further access; its value is open. -/
def State.hRead (s : State) : State × Nat :=
  let a := s.reg .MDP_H_ADDR 0 0
  let (s, bs) := if a % 8 = 0 || !isRegAddr a then s.mdpGet 2 a 8 (fun s => let (v, s) := s.free (2 ^ 64); (s, v))
    else (s.mdpError 2 stBadParam, List.replicate 8 0xFF#8)
  (s.hAdvance, leNat bs)

/-- A word or bytes read through the QSPI window: MDP_H_DATA is a register like any other there. -/
def State.mdpWord (s : State) (src a n : Nat) : State × List Byte := s.mdpGet src a n State.hRead

/-- The newest entry of the write path goes ahead of the `k` before it. -/
def lastAhead (k : Nat) (l : List QEntry) : List QEntry :=
  match l.getLast? with
  | none => l
  | some e => let old := l.dropLast; old.take (old.length - k) ++ [e] ++ old.drop (old.length - k)

/-- A write to MDP_H_DATA: a whole entry of the write path. What QSPI stores at the same FT comes after it (R483; log 105). -/
def State.hWrite (s : State) (v : Nat) : State :=
  let a := s.reg .MDP_H_ADDR 0 0
  let full := (s.queue .dataPort).held ≥ 1024
  let s := s.queuePut .dataPort { bytes := leBytes 8 v, valid := 255, last := true, addr := a, window := 2 }
  let k := if s.mgmt.qStored.1 = s.ft && !full then s.mgmt.qStored.2 else 0
  let s := if k = 0 then s else s.setQueue .dataPort (fun q => { q with entries := lastAhead k q.entries })
  (if full then s.mdpError 2 stNoResource else s).hAdvance

/-- A read of a register. -/
def State.readReg (s : State) (x : RegRef) : State × Nat := if x.reg = .MDP_H_DATA then s.hRead else s.readPlain x

/-! Writes. -/

/-- The queue whose status word a register is. -/
def queueOf (r : Reg) (die slot : Nat) : List QueueId :=
  match r with
  | .VE_TQD_STATUS => [.tileData (die * 48 + slot)]
  | .VE_TQH_STATUS => [.tileHeader (die * 48 + slot)]
  | .BRG_RQ_STATUS => if dirExists ⟨die, slot⟩ then (List.range 64).map (fun g => .bridgeRetry die slot g) else []
  | .PORT_RQ_STATUS => [.portReplay (die * 2 + slot)]
  | .ERR_FQ_STATUS => [.faultQueue die]
  | .MDP_WQ_STATUS => [.dataPort]
  | _ => []

/-- A write to ERR_NOTIFY: EIID 0 and a hart above 191 leave their fields. -/
def State.writeNotify (s : State) (die v : Nat) : State :=
  let old := s.reg .ERR_NOTIFY die 0
  let eiid := if bitsOf v 23 16 = 0 then bitsOf old 23 16 else bitsOf v 23 16
  let hart := if bitsOf v 15 8 > 191 then bitsOf old 15 8 else bitsOf v 15 8
  s.setReg .ERR_NOTIFY die 0 (2 ^ 16 * eiid + 2 ^ 8 * hart + v % 2)

/-- A write to ERR_INJECT: ignored while the debug level is 0. -/
def State.writeInject (s : State) (die v : Nat) : State :=
  if s.boot.dbgLevel = 0 then s else s.setReg .ERR_INJECT die 0 (v &&& 0xFF7F)

/-- A write to MDP_STATUS. -/
def State.writeMdpStatus (s : State) (v : Nat) : State :=
  { s with mgmt := { s.mgmt with err := s.mgmt.err && !bitOf v 1, underrun := s.mgmt.underrun && !bitOf v 2 } }

/-- A write of 1 to a counter's SAT bit clears it (R461); what loop-backs have compared until then is counted first. -/
def State.clearCounter (s : State) (x : RegRef) (v : Nat) : State :=
  if !bitOf v 63 then s
  else
    let s := if x.reg = .DFT_LB_BITS || x.reg = .DFT_LB_ERRORS then s.settleLoops else s
    s.setReg x.reg x.die x.slot 0

/-- Base addresses of the control ring. -/
def State.ringBase (s : State) (r v : Nat) (cpl : Bool) : State :=
  if r ≠ 16 || !s.controlIdle then s
  else s.setRing 16 (fun g => if cpl then { g with cplBase := v } else { g with base := v })

/-- A write to a register, by its rule of its own, else by its access code. -/
def State.writeReg (s : State) (x : RegRef) (v : Nat) : State :=
  let i := regInfo x.reg
  let d := x.die
  let k := x.slot
  match x.reg with
  | .FT_CTRL => s.writeFtCtrl v
  | .STK_ILV => s.writeIlv d v
  | .PORT_PKG_CTRL => s.writeJoined v
  | .PORT_ROUTE_DATA => s.writeRoute v
  | .PORT_BIAS_DATA => s.writeBias v
  | .PORT_WIN_CTRL => s.writeWindow k v
  | .PORT_CTRL => s.writePortCtrl (d * 2 + k) v
  | .PORT_ETH_DOORBELL => s.ethDoorbell (d * 2 + k) v
  | .LADD_REF_CTRL => s.writeRefCtrl k v
  | .HCX_CORE_CTRL => if v % 32 ≤ 16 then s.setReg .HCX_CORE_CTRL d k (v % 32) else s
  | .CMDP_RING_BASE => s.ringBase k v false
  | .CMDP_CPL_BASE => s.ringBase k v true
  | .CMDP_RING_SIZE => if k = 16 then s.ringSize v else s
  | .CMDP_RING_TAIL => s.ringTail k (v % 65536)
  | .CMDP_CPL_HEAD => s.cplHead k (v % 65536)
  | .PWR_TEMP_SEL => if v % 32 < 24 then s.setReg .PWR_TEMP_SEL d 0 (v % 32) else s
  | .PWR_PKG_CAP => s.writeCap v
  | .SEC_HCX_RESET => s.writeHcxReset v
  | .SEC_IMAGE_CTRL => s.writeImageCtrl v
  | .SEC_ATTEST_CTRL => s.writeAttest v
  | .SEC_EXTEND_CTRL => s.writeExtend v
  | .DFT_MODE => s.writeDftMode d v
  | .ERR_FQ_RELEASE => s.fqRelease d (v % 512)
  | .ERR_NOTIFY => s.writeNotify d v
  | .ERR_INJECT => s.writeInject d v
  | .MDP_STATUS => s.writeMdpStatus v
  | .MDP_Q_ADDR => s.setReg .MDP_Q_ADDR 0 0 (v % 2 ^ 44)
  | .MDP_H_ADDR => s.setReg .MDP_H_ADDR 0 0 (v % 2 ^ 44)
  | .MDP_H_DATA => s.hWrite v
  | r =>
    if i.off / 0x10000 = 8 && i.scope != .blk && !dirExists ⟨d, k⟩ then s
    else
      match i.access with
      | .ctr => s.clearCounter x v
      | .st => (queueOf r d k).foldl (fun s q => s.queueStatusWrite q v) s
      | .rw => s.setReg r d k (v &&& i.mask)
      | .w1s => s.setReg r d k (s.reg r d k ||| (v &&& i.mask))
      | _ => s

/-- One nanosecond passes with no command: FT and AON count it, an export that waits is served, Meilamo requests a register of another
package, the rings and the I3C packets are served, and loop-backs run (R37, R254, R302, R363, R448). -/
def State.idle (s : State) : State :=
  (((List.range 17).foldl State.serve (s.advanceAon (s.aon + 1)).loseFound.serveExport.farAsk).serveBoard).settleLoops

/-- An aligned 64-bit access (R7). -/
def regAccess (addr size : Nat) : Bool := addr % 8 == 0 && size == 8

/-- REGISTER_WRITE: an access that is not an aligned 64-bit one faults and has no effect; an unassigned offset ignores the write. -/
def execRegisterWrite (t addr size value : Nat) (s : State) : Host.Outcome State Fault Refusal :=
  let s := s.advance t
  if !isRegAddr addr then .next s
  else if !regAccess addr size then .next { s with resp := .accessFault }
  else
    match regAt addr with
    | none => .next { s with resp := .none }
    | some x => .next ({ s with resp := .none }.writeReg x (value % 2 ^ 64))

/-- REGISTER_READ. -/
def execRegisterRead (t addr size : Nat) (s : State) : Host.Outcome State Fault Refusal :=
  let s := s.advance t
  if !isRegAddr addr then .next s
  else if !regAccess addr size then .next { s with resp := .accessFault }
  else
    match regAt addr with
    | none => .next { s with resp := .value 0 }
    | some x =>
      let (s, v) := s.readReg x
      .next { s with resp := .value v }

/-- COUNTER_CLEAR: the register at `addr` follows the counter rule. -/
def execCounterClear (t addr value : Nat) (s : State) : Host.Outcome State Fault Refusal :=
  let s := s.advance t
  match (if addr % 8 = 0 then regAt addr else none) with
  | some x => if (regInfo x.reg).access = .ctr then .next (s.clearCounter x value) else .next s
  | none => .next s

/-- ERR_FQ_RELEASE. -/
def execErrFqRelease (t die value : Nat) (s : State) : Host.Outcome State Fault Refusal :=
  let s := s.advance t
  if die ≥ 8 then .next s else .next (s.fqRelease die (value % 512))

/-- ERR_INJECT_WRITE. -/
def execErrInjectWrite (t die value : Nat) (s : State) : Host.Outcome State Fault Refusal :=
  let s := s.advance t
  if die ≥ 8 then .next s else .next (s.writeInject die value)

/-- One record reaches its die's fault collector (R456); one against a created context faults it (R455). -/
def State.recordArrives (s : State) (r : FaultIn) : State :=
  if r.severity = 2 && (s.ctx r.ctx).created then s.faultCtx r.ctx r.code r.unit r.address r.detail 0
  else s.happen 8 (.record (faultDie r.unit) r)

/-- FAULT_RECORD_ARRIVE: the records that reach the fault collectors at one MESH edge take their SEQ, and are stored or lost, in ascending
unit id (R393, R456). A code that the table of R369 does not have is reserved: the T8 makes no such record (R12). -/
def execFaultRecordArrive (t : Nat) (rs : List FaultIn) (s : State) : Host.Outcome State Fault Refusal :=
  let s := dies.foldl (fun s d => s.edgeReleases t (.faultQueue d)) (s.advance t)
  .next ((sortBy (fun r => r.unit) (rs.filter (fun r => isStatus r.code))).foldl State.recordArrives s)

end Sys2Proof.Machine
end

