-- ==== Sys2Proof/Machine/Home.lean ====
section
/-!
DEFINITION. Requests of other packages at their home (R269 to R271, R286, R305, R310, R311, R317, R439): the rows READ, WRITE,
WRITE_MASKED, ATOMIC and ARRIVAL.
-/
namespace Sys2Proof.Machine

/-- Refuse a request with ERROR code ADDRESS. -/
def State.refuse (s : State) (port : Nat) (k : Pkt) : State := (s.countPort .PORT_REFUSED port 1).answer port k tError 1 []

/-- A request to SHARED lines waits in the port's buffer while their home is busy (R334). -/
def State.pktWaits (s : State) (write : Bool) (pkt : List Byte) : Bool :=
  match parsePkt pkt with
  | none => false
  | some k => !isRegAddr k.addr && k.len ≤ 4096 && s.homeBusy write k.addr k.len

/-- A request whose body is complete and whose form the table of packet types allows, admitted by a window; else it is refused. -/
def State.serveReq (s : State) (port typ need : Nat) (pkt : List Byte) (form : Pkt → Bool) (body : State → Pkt → State) : State :=
  match s.takePkt port [typ] pkt with
  | (s, none) => s
  | (s, some k) =>
    let need := if isRegAddr k.addr then need ||| permReg else need
    if !form k || k.body.length ≠ payloadLen k || (s.admitting k (max k.len 1) need).isEmpty then s.refuse port k
    else body s k

/-- A register access of 8 bytes, or whole lines of memory up to `most` bytes. -/
def lineForm (most : Nat) (k : Pkt) : Bool :=
  if isRegAddr k.addr then k.len == 8 && k.addr % 8 == 0
  else k.addr % 64 == 0 && k.len % 64 == 0 && 64 ≤ k.len && k.len ≤ most

/-- READ. -/
def State.serveRead (s : State) (port : Nat) (k : Pkt) : State :=
  if isRegAddr k.addr then
    match regAt k.addr with
    | none => s.answer port k tReadData 0 (leBytes 8 0)
    | some x => let (s, v) := s.readReg x; s.answer port k tReadData 0 (leBytes 8 v)
  else if s.fencedIn false k.addr k.len then s
  else
    match (if bitOf k.ops 6 then s.fenceHit k.epoch [(k.addr, k.len)] else none) with
    | some (a, found) =>
      let ch := (s.channelAt a).1
      (s.raise stEpochFence (unitId (ch / 64) clsSTK (ch % 64)) 0xFF 1 a (k.epoch + 2 ^ 32 * found)).answer port k tError 4 []
    | none =>
    match s.load k.addr k.len with
    | (s, none) => s.answer port k tError 2 []
    | (s, some bs) => s.answer port k tReadData 0 bs

def execPktRead (t port : Nat) (pkt : List Byte) (s : State) : Host.Outcome State Fault Refusal :=
  let s := s.advance t
  if s.pktWaits false pkt then .next s else .next (s.serveReq port tRead permRd pkt (lineForm 4096) (fun s k => s.serveRead port k))

/-- WRITE. -/
def State.serveWrite (s : State) (port : Nat) (k : Pkt) : State :=
  if isRegAddr k.addr then
    match regAt k.addr with
    | none => s.answer port k tWriteAck 0 []
    | some x => (s.writeReg x (leNat k.body)).answer port k tWriteAck 0 []
  else if s.fencedIn true k.addr k.len then s
  else (s.save k.addr k.body).1.answer port k tWriteAck 0 []

def execPktWrite (t port : Nat) (pkt : List Byte) (s : State) : Host.Outcome State Fault Refusal :=
  let s := s.advance t
  if s.pktWaits true pkt then .next s else .next (s.serveReq port tWrite permWr pkt (lineForm 4096) (fun s k => s.serveWrite port k))

/-- The runs of set bits of a byte mask, as offset and length; `n` bits from bit `i`, with the run in progress. -/
def maskRuns (mask : Nat) : Nat → Nat → Option Nat → List (Nat × Nat)
  | 0, i, some b => [(b, i - b)]
  | 0, _, none => []
  | n + 1, i, cur =>
    match bitOf mask i, cur with
    | true, none => maskRuns mask n (i + 1) (some i)
    | true, some b => maskRuns mask n (i + 1) (some b)
    | false, some b => (b, i - b) :: maskRuns mask n (i + 1) none
    | false, none => maskRuns mask n (i + 1) none

/-- The pieces of a masked write: addresses and bytes. -/
def maskPieces (k : Pkt) : List (Nat × List Byte) :=
  (List.range (k.len / 64)).flatMap (fun l =>
    let line := (k.body.drop (64 * l)).take 64
    (maskRuns (fieldAt k.body (k.len + 8 * l) 8) 64 0 none).map (fun r => (k.addr + 64 * l + r.1, (line.drop r.1).take r.2)))

/-- A piece can be merged: no word that it covers in part is uncorrectable, and the line's fill has no such word (R451). -/
def State.canMerge (s : State) (a : Nat) (bs : List Byte) : Bool :=
  let whole (w : Nat) : Bool := a ≤ w * 8 && w * 8 + 8 ≤ a + bs.length
  let part := (wordsOf a bs.length).filter (fun w => !whole w)
  if isTier1 a && bs.length < 64 && (s.entry (lineOf a)).isNone then (s.badWord (64 * lineOf a) 64).isNone
  else part.all (fun w => popCount 64 (s.wordErr w) < 2)

/-- WRITE_MASKED: nothing of a request that ends with ERROR is applied. -/
def State.serveMasked (s : State) (port : Nat) (k : Pkt) : State :=
  let ps := maskPieces k
  if s.fencedIn true k.addr k.len then s
  else
    match ps.find? (fun p => !s.canMerge p.1 p.2) with
    | some p => (s.countErr false p.1 1).answer port k tError 2 []
    | none => (ps.foldl (fun s p => (s.save p.1 p.2).1) s).answer port k tWriteAck 0 []

def execPktWriteMasked (t port : Nat) (pkt : List Byte) (s : State) : Host.Outcome State Fault Refusal :=
  let s := s.advance t
  if s.pktWaits true pkt then .next s else .next (s.serveReq port tMasked permWr pkt (fun k => !isRegAddr k.addr && lineForm 2048 k) (fun s k => s.serveMasked port k))

/-- ATOMIC (R269 to R271): lines in ascending order; those before a failing line stay applied (R286). -/
def State.serveAtomic (s : State) (port : Nat) (k : Pkt) : State :=
  if s.fencedIn true k.addr k.len then s
  else
    match State.atomicLines (k.ops % 8) (bitsOf k.ops 4 3) ((countFrom (k.addr / 64) (k.len / 64)).zip (pieces 64 (k.len / 64) k.body)) s with
    | (s, .error _) => s.answer port k tError 2 []
    | (s, .ok old) => if bitOf k.ops 5 then s.answer port k tAtomicData 0 old else s.answer port k tWriteAck 0 []

def execPktAtomic (t port : Nat) (pkt : List Byte) (s : State) : Host.Outcome State Fault Refusal :=
  let s := s.advance t
  if s.pktWaits true pkt then .next s
  else .next (s.serveReq port tAtomic permAtom pkt
    (fun k => isTier1 k.addr && lineForm 4096 k && (atomType (k.ops % 8)).isSome) (fun s k => s.serveAtomic port k))

/-- ARRIVAL (R311); where several windows admit it, which one's owner it is for is open. -/
def State.serveArrival (s : State) (port : Nat) (k : Pkt) : State :=
  let owners := (s.winOwners (s.admitting k 1 permWr)).eraseDups
  if owners.isEmpty then s.refuse port k
  else
    let (i, s) := if owners.length = 1 then (0, s) else s.free owners.length
    (s.arrive (owners.getD i 0) (s.homeDie k.addr) k.flag (unitId (port / 2) clsPORT (port % 2))).answer port k tArrivalAck 0 []

def execPktArrival (t port : Nat) (pkt : List Byte) (s : State) : Host.Outcome State Fault Refusal :=
  .next ((s.advance t).serveReq port tArrival permWr pkt (fun k => isTier1 k.addr || isWs k.addr) (fun s k => s.serveArrival port k))

/-! QUEUE_READ (R395, R397 to R399). -/

/-- An uncorrectable word of a queue ends what the instance table says (R399): the reading instruction, the frame's requests, the port, the
record, or the data port's write. `p` is the position after the entry. -/
def State.entryLost (s : State) (e : QEntry) (p : Nat) : QueueId → State
  | .tileData k => s.failPour (veUnit k) stMemUncorrectable 0 0
  | .tileHeader k => s.failPour (veUnit k) stMemUncorrectable 0 0
  | .bridgeRetry d sl g => (s.setQueue (.bridgeRetry d sl g) (RunQ.readTo p)).emptyFrame
  | .portReplay k => s.goDown k
  | .faultQueue d => s.recLost d (p - (s.queue (.faultQueue d)).rp)
  | .dataPort => (s.setQueue .dataPort (fun q => RunQ.release false p (q.readTo p))).mdpError e.window stMemUncorrectable

/-- QUEUE_READ: n entries from RD (R395). The entries go to the reader, and their corrected words count. A read of an entry that has not been
written waits: nothing is delivered, and the row comes again. An uncorrectable word ends the read with nothing delivered, as the instance
table says (R398, R399). -/
def execQueueRead (t : Nat) (id : QueueId) (n : Nat) (s : State) : Host.Outcome State Fault Refusal :=
  let s := s.advance t
  if !queueExists id then .next s
  else
    let q := s.queue id
    if !q.serves id n then .next { s with resp := .waits }
    else
      let got := (countFrom q.rd n).filterMap q.at?
      match ((countFrom q.rd n).zip got).find? (fun e => e.2.bad) with
      | some (p, e) => .next { s.entryLost e (p + 1) id with resp := .failed stMemUncorrectable }
      | none =>
        let s := s.queueEcc id (got.foldl (fun k e => k + e.corr) 0)
        .next { s.setQueue id (fun q => q.readN n) with resp := .bytes (got.flatMap QEntry.bytes) }

end Sys2Proof.Machine
end

