-- ==== Sys2Proof/Machine/Mgmt.lean ====
section
/-!
DEFINITION. The management interfaces of the board (R476 to R483): I3C with its common command codes, and the management data port; the
rows I3C_PRIVATE_WRITE to MDP_WRITE_APPLY.
-/
namespace Sys2Proof.Machine

/-- The management interfaces answer: VIN and VIOREF are there and package reset does not hold Meilamo. -/
def State.boardLive (s : State) : Bool := s.pinsLive && s.boot.st != .reset

/-- What a transfer returned to the board. -/
def State.returns (s : State) (bs : List Byte) : State := s.setMgmt (fun m => { m with returned := some bs })
def State.noAnswer (s : State) : State := s.setMgmt (fun m => { m with returned := none })

/-! I3C (R476 to R478). -/

/-- I3C_PRIVATE_WRITE: a selector byte and a packet. -/
def execI3cPrivateWrite (t : Nat) (bytes : List Byte) (s : State) : Host.Outcome State Fault Refusal :=
  let s := (s.advance t).noAnswer
  if !s.boardLive || s.mgmt.replies.length ≥ 16 then .next s
  else if fieldAt bytes 0 1 = 1 && 65 ≤ bytes.length && bytes.length ≤ 513 && bytes.length == 65 + packetLen (bytes.drop 1) then
    .next ((s.setMgmt (fun m => { m with waiting := m.waiting ++ [bytes.drop 1], returned := some [] })).serveBoard)
  else .next ((s.returns []).count .MDP_I3C_DROPPED 0 0 1)

/-- I3C_PRIVATE_READ: the oldest reply, or no data byte. -/
def execI3cPrivateRead (t : Nat) (s : State) : Host.Outcome State Fault Refusal :=
  let s := (s.advance t).noAnswer
  if !s.boardLive then .next s
  else
    match s.mgmt.replies with
    | [] => .next (s.returns [])
    | r :: rest => .next ((s.setMgmt (fun m => { m with replies := rest, returned := some r })).serveBoard)

/-- A common command code acts on the target. -/
def State.ccc (s : State) (t : Nat) (f : State → State) : State :=
  let s := (s.advance t).noAnswer
  if s.boardLive then f s else s

/-- ENTDAA: a target without a dynamic address takes the one assigned. -/
def execEntdaa (t address : Nat) (s : State) : Host.Outcome State Fault Refusal :=
  .next (s.ccc t (fun s => if s.mgmt.dynAddr.isSome then s else s.setMgmt (fun m => { m with dynAddr := some (address % 128) })))

/-- SETDASA: as ENTDAA, for the target with this static address. -/
def execSetdasa (t static address : Nat) (s : State) : Host.Outcome State Fault Refusal :=
  .next (s.ccc t (fun s => if s.mgmt.dynAddr.isSome || static ≠ s.staticAddr then s
    else s.setMgmt (fun m => { m with dynAddr := some (address % 128) })))

/-- RSTDAA. -/
def execRstdaa (t : Nat) (s : State) : Host.Outcome State Fault Refusal :=
  .next (s.ccc t (fun s => s.setMgmt (fun m => { m with dynAddr := none })))

/-- ENEC and DISEC: bit 0 of the event byte stands for in-band interrupts. -/
def execEnec (t events : Nat) (s : State) : Host.Outcome State Fault Refusal :=
  .next (s.ccc t (fun s => s.setMgmt (fun m => { m with ibiOn := m.ibiOn || bitOf events 0 })))

def execDisec (t events : Nat) (s : State) : Host.Outcome State Fault Refusal :=
  .next (s.ccc t (fun s => s.setMgmt (fun m => { m with ibiOn := m.ibiOn && !bitOf events 0 })))

def execGetpid (t : Nat) (s : State) : Host.Outcome State Fault Refusal :=
  .next (s.ccc t (fun s => s.returns ((List.range 6).map Config.i3cPid)))
def execGetbcr (t : Nat) (s : State) : Host.Outcome State Fault Refusal := .next (s.ccc t (fun s => s.returns [Config.i3cBcr]))
def execGetdcr (t : Nat) (s : State) : Host.Outcome State Fault Refusal := .next (s.ccc t (fun s => s.returns [Config.i3cDcr]))
def execGetstatus (t : Nat) (s : State) : Host.Outcome State Fault Refusal :=
  .next (s.ccc t (fun s => s.returns ((List.range 2).map Config.i3cStatus)))

/-- GETMWL and GETMRL: 513 and 32 bytes, the most significant byte first. -/
def execGetmwl (t : Nat) (s : State) : Host.Outcome State Fault Refusal := .next (s.ccc t (fun s => s.returns (beBytes 2 513)))
def execGetmrl (t : Nat) (s : State) : Host.Outcome State Fault Refusal := .next (s.ccc t (fun s => s.returns (beBytes 2 32)))

/-! The write path (R399, R480, R481). -/

/-- Bytes of an entry that the write carries. -/
def entryBytes (e : QEntry) : List Byte := e.bytes.take (popCount 8 e.valid)

/-- Meilamo applies an entry to its address. -/
def State.applyEntry (s : State) (e : QEntry) : State :=
  let bs := entryBytes e
  let st := s.mdpReach e.addr (max bs.length 1)
  let s := s.count .MDP_WQ_ECC_CORR 0 0 e.corr
  if e.bad then s.mdpError e.window stMemUncorrectable
  else if st ≠ stOk then s.mdpError e.window st
  else if isRegAddr e.addr then
    match regAt e.addr with
    | none => s
    | some x => s.writeReg x (leNat bs)
  else if s.fencedIn true e.addr bs.length then s.mdpError e.window stContextFenced
  else
    match s.save e.addr bs with
    | (s, true) => s
    | (s, false) => s.mdpError e.window stMemUncorrectable

/-- The oldest entry of the write path leaves it and is applied. -/
def State.applyNext (s : State) : State :=
  match (s.queue .dataPort).entries with
  | [] => s
  | e :: _ =>
    (s.setQueue .dataPort (fun q => RunQ.release false (q.rp + 1) (q.readTo (q.rp + 1)))).applyEntry e

/-- MDP_WRITE_APPLY: the next entry, once the read side sees it. -/
def execMdpWriteApply (t : Nat) (s : State) : Host.Outcome State Fault Refusal :=
  let s := s.advance t
  if (s.queue .dataPort).isEmpty then .next s else .next s.applyNext

/-- Apply the entries that are in the write path. -/
def State.applyAll : Nat → State → State
  | 0, s => s
  | k + 1, s => State.applyAll k s.applyNext

/-! QSPI (R479, R482). -/

/-- A transaction on the QSPI lands. -/
def State.qspi (s : State) (t : Nat) (f : State → State) : State :=
  let s := (s.advance t).noAnswer
  if s.boardLive then f (s.count .MDP_Q_TXNS 0 0 1) else s

/-- MDP_Q_ADDR moves on. -/
def State.qAdvance (s : State) (n : Nat) : State := s.setReg .MDP_Q_ADDR 0 0 ((s.reg .MDP_Q_ADDR 0 0 + n) % 2 ^ 44)

/-- MDP_SET_ADDR. -/
def execMdpSetAddr (t : Nat) (bytes : List Byte) (s : State) : Host.Outcome State Fault Refusal :=
  .next (s.qspi t (fun s =>
    if bytes.length = 8 && leNat bytes < 2 ^ 44 then s.setReg .MDP_Q_ADDR 0 0 (leNat bytes) else s.mdpError 1 stBadParam))

/-- An access to registers whose address or length is no multiple of 8 (R7, R480). -/
def mdpSkew (a n : Nat) : Bool := (isRegAddr a || isRegAddr (a + (n - 1))) && !(a % 8 == 0 && n % 8 == 0)

/-- MDP_WRITE_DATA: at most 4,096 bytes enter the write path. -/
def execMdpWriteData (t : Nat) (bytes : List Byte) (s : State) : Host.Outcome State Fault Refusal :=
  .next (s.qspi t (fun s =>
    let bs := bytes.take 4096
    let a := s.reg .MDP_Q_ADDR 0 0
    let n := bs.length
    if n = 0 then s
    else if mdpSkew a n then (s.mdpError 1 stBadParam).qAdvance n
    else
      let held := (s.queue .dataPort).held
      let lost : Bool := held + ceilDiv n 8 > 1024
      let s := s.queuePack .dataPort a 1 (n + 2) bs true
      let s := s.setMgmt (fun m => { m with
        qStored := (s.ft, (s.queue .dataPort).held - held + (if m.qStored.1 = s.ft then m.qStored.2 else 0)) })
      (if lost then s.mdpError 1 stNoResource else s).qAdvance n))

/-- Bytes of one line, or of a register word, read through the port; the words that fail read as 0xFF. -/
def State.mdpPiece (s : State) (a n : Nat) : State × List Byte :=
  if s.mdpReach a n ≠ stOk || isRegAddr a then s.mdpWord 1 a n
  else if s.fencedIn false a n then (s.mdpError 1 stContextFenced, List.replicate n 0xFF#8)
  else
    match s.load a n with
    | (s, some bs) => (s, bs)
    | (s, none) =>
      let bs := (countFrom a n).map (fun x => if popCount 64 (s.wordErr (x / 8)) ≥ 2 then 0xFF#8 else s.peek x)
      (s.mdpError 1 stMemUncorrectable, bs)

/-- The pieces of a read: register words, or what it takes of each line (R480). -/
def mdpPieces (a n : Nat) : List (Nat × Nat) :=
  (linesOf a n).flatMap (fun ln =>
    let lo := max a (64 * ln)
    let k := min (a + n) (64 * ln + 64) - lo
    if isRegAddr lo then (List.range (k / 8)).map (fun i => (lo + 8 * i, 8)) else [(lo, k)])

/-- A read keeps pace with the clock (R482): no write waits, and no line of it is held in E or M, waits at its home or lies in a stack asleep. -/
def State.keepsPace (s : State) (a n : Nat) : Bool :=
  !s.mdpBusy && (linesOf a n).all (fun ln => !isTier1 (64 * ln) ||
    ((s.homeOp ln).isNone && !s.asleep.contains ((s.channelAt (64 * ln)).1 / 32) &&
     (match s.homeEntry ln with | some (.owned _) => false | _ => true)))

def State.mdpRead : List (Nat × Nat) → State → List Byte → State × List Byte
  | [], s, acc => (s, acc)
  | (a, n) :: rest, s, acc => let (s, bs) := s.mdpPiece a n; State.mdpRead rest s (acc ++ bs)

/-- MDP_READ_DATA of `n` bytes, of which the first `ready` were ready when their clocks came; all are where the read keeps pace. -/
def execMdpReadData (t n ready : Nat) (s : State) : Host.Outcome State Fault Refusal :=
  .next (s.qspi t (fun s =>
    let n := min n 4096
    let ready := if s.keepsPace (s.reg .MDP_Q_ADDR 0 0) n then n else ready
    let s := State.applyAll (s.queue .dataPort).entries.length s
    let a := s.reg .MDP_Q_ADDR 0 0
    if n = 0 then s.returns []
    else
      let (s, bs) := if mdpSkew a n then (s.mdpError 1 stBadParam, List.replicate n 0xFF#8) else State.mdpRead (mdpPieces a n) s []
      let s := if ready < n then s.setMgmt (fun m => { m with underrun := true }) else s
      (s.returns (bs.take ready ++ List.replicate (n - ready) 0xFF#8)).qAdvance n))

/-- MDP_READ_STATUS. -/
def execMdpReadStatus (t : Nat) (s : State) : Host.Outcome State Fault Refusal :=
  .next (s.qspi t (fun s => s.returns (leBytes 8 (s.mdpView .MDP_STATUS))))

/-- A QSPI transaction by its opcode (R479): the four that the port has, and any other, which has no effect but its error. The table has rows of
the four alone (log 62). -/
def execQspi (t opcode : Nat) (bytes : List Byte) (n ready : Nat) (s : State) : Host.Outcome State Fault Refusal :=
  match opcode with
  | 0x31 => execMdpSetAddr t bytes s
  | 0x32 => execMdpWriteData t bytes s
  | 0x33 => execMdpReadData t n ready s
  | 0x35 => execMdpReadStatus t s
  | _ => .next (s.qspi t (fun s => s.mdpError 1 stBadOpcode))

/-- MDP_H_DATA_ACCESS: a read, or a write of 8 bytes (R483). -/
def execMdpHDataAccess (t : Nat) (write : Option Nat) (s : State) : Host.Outcome State Fault Refusal :=
  let s := s.advance t
  match write with
  | some v => .next { s.hWrite (v % 2 ^ 64) with resp := .none }
  | none => let (s, v) := s.hRead; .next { s with resp := .value v }

end Sys2Proof.Machine
end

