-- ==== Sys2Proof/Machine/Dispatch.lean ====
section
/-!
DEFINITION. One arm per command: its meaning.
-/
namespace Sys2Proof.Machine

def exec (i : Instr) (s : State) : Host.Outcome State Fault Refusal :=
  match i with
  | .powerOn t railsAt refclkAt => Sys2Proof.Machine.execPowerOn t railsAt refclkAt s
  | .pkgResetNAssert t width => Sys2Proof.Machine.execPkgResetNAssert t width s
  | .refclkLoss t stopped pllLost => Sys2Proof.Machine.execRefclkLoss t stopped pllLost s
  | .inputOutOfRange t millivolts lasting => Sys2Proof.Machine.execInputOutOfRange t millivolts lasting s
  | .romStart t romOk katOk => Sys2Proof.Machine.execRomStart t romOk katOk s
  | .d0SelfTest t res => Sys2Proof.Machine.execD0SelfTest t res s
  | .fetch t flashOk => Sys2Proof.Machine.execFetch t flashOk s
  | .verification t => Sys2Proof.Machine.execVerification t s
  | .releaseD1D7 t => Sys2Proof.Machine.execReleaseD1D7 t s
  | .dieRelease t => Sys2Proof.Machine.execDieRelease t s
  | .dieSelftestDone t die res => Sys2Proof.Machine.execDieSelftestDone t die res s
  | .bridges t failing => Sys2Proof.Machine.execBridges t failing s
  | .stacks t badLine => Sys2Proof.Machine.execStacks t badLine s
  | .portsAndFt t => Sys2Proof.Machine.execPortsAndFt t s
  | .hostRelease t => Sys2Proof.Machine.execHostRelease t s
  | .bootStageTimeout t => Sys2Proof.Machine.execBootStageTimeout t s
  | .hcxResetNAssert t width => Sys2Proof.Machine.execHcxResetNAssert t width s
  | .secHcxReset t value => Sys2Proof.Machine.execSecHcxReset t value s
  | .hostComplexRestart t flashOk => Sys2Proof.Machine.execHostComplexRestart t flashOk s
  | .sensorSample t die sensor temp => Sys2Proof.Machine.execSensorSample t die sensor temp s
  | .tripHoldoffEnd t => Sys2Proof.Machine.execTripHoldoffEnd t s
  | .budgetReport t die => Sys2Proof.Machine.execBudgetReport t die s
  | .budgetMessageRx t die => Sys2Proof.Machine.execBudgetMessageRx t die s
  | .budgetCompute t => Sys2Proof.Machine.execBudgetCompute t s
  | .budgetTakeEffect t missing => Sys2Proof.Machine.execBudgetTakeEffect t missing s
  | .backstopSlot t die => Sys2Proof.Machine.execBackstopSlot t die s
  | .pwrPkgCapWrite t value => Sys2Proof.Machine.execPwrPkgCapWrite t value s
  | .idleEntry t die => Sys2Proof.Machine.execIdleEntry t die s
  | .idleExitDone t die => Sys2Proof.Machine.execIdleExitDone t die s
  | .stackWake t stack => Sys2Proof.Machine.execStackWake t stack s
  | .selfRefreshEntry t stack => Sys2Proof.Machine.execSelfRefreshEntry t stack s
  | .setLtv t c dies ltv => Sys2Proof.Machine.execSetLtv t c dies ltv s
  | .energyQuery t c => Sys2Proof.Machine.execEnergyQuery t c s
  | .beacon t port b => Sys2Proof.Machine.execBeacon t port b s
  | .beaconTimeout t => Sys2Proof.Machine.execBeaconTimeout t s
  | .syncInEdge t => Sys2Proof.Machine.execSyncInEdge t s
  | .syncInTimeout t => Sys2Proof.Machine.execSyncInTimeout t s
  | .holdoverExpiry t => Sys2Proof.Machine.execHoldoverExpiry t s
  | .delayMeasureTimer t => Sys2Proof.Machine.execDelayMeasureTimer t s
  | .delayReq t port b => Sys2Proof.Machine.execDelayReq t port b s
  | .delayResp t port b => Sys2Proof.Machine.execDelayResp t port b s
  | .ftCtrlWrite t value => Sys2Proof.Machine.execFtCtrlWrite t value s
  | .loadMould t c va => Sys2Proof.Machine.execLoadMould t c va s
  | .armAt t c ftStart heatBase localArm => Sys2Proof.Machine.execArmAt t c ftStart heatBase localArm s
  | .halt t c => Sys2Proof.Machine.execHalt t c s
  | .haltComplete t ctx => Sys2Proof.Machine.execHaltComplete t ctx s
  | .stage t c items => Sys2Proof.Machine.execStage t c items s
  | .commitAt t c applyAt => Sys2Proof.Machine.execCommitAt t c applyAt s
  | .commitAtCancel t c => Sys2Proof.Machine.execCommitAtCancel t c s
  | .commitApply t ctx => Sys2Proof.Machine.execCommitApply t ctx s
  | .heatStart t ctx => Sys2Proof.Machine.execHeatStart t ctx s
  | .pourDispatch t ctx die index => Sys2Proof.Machine.execPourDispatch t ctx die index s
  | .descriptorArrive t unit => Sys2Proof.Machine.execDescriptorArrive t unit s
  | .pourLaunch t unit => Sys2Proof.Machine.execPourLaunch t unit s
  | .holdExpiry t unit => Sys2Proof.Machine.execHoldExpiry t unit s
  | .pourSignal t unit => Sys2Proof.Machine.execPourSignal t unit s
  | .nopPour t unit => Sys2Proof.Machine.execNopPour t unit s
  | .product t unit => Sys2Proof.Machine.execProduct t unit s
  | .drain t unit => Sys2Proof.Machine.execDrain t unit s
  | .drainQueueResume t unit => Sys2Proof.Machine.execDrainQueueResume t unit s
  | .runKernel t unit => Sys2Proof.Machine.execRunKernel t unit s
  | .kernelBudgetExpiry t engine => Sys2Proof.Machine.execKernelBudgetExpiry t engine s
  | .vAdd t engine => Sys2Proof.Machine.execVAdd t engine s
  | .vSub t engine => Sys2Proof.Machine.execVSub t engine s
  | .vMul t engine => Sys2Proof.Machine.execVMul t engine s
  | .vFma t engine => Sys2Proof.Machine.execVFma t engine s
  | .vMin t engine => Sys2Proof.Machine.execVMin t engine s
  | .vMax t engine => Sys2Proof.Machine.execVMax t engine s
  | .vAbs t engine => Sys2Proof.Machine.execVAbs t engine s
  | .vNeg t engine => Sys2Proof.Machine.execVNeg t engine s
  | .vMov t engine => Sys2Proof.Machine.execVMov t engine s
  | .vCmpeq t engine => Sys2Proof.Machine.execVCmpeq t engine s
  | .vCmpne t engine => Sys2Proof.Machine.execVCmpne t engine s
  | .vCmplt t engine => Sys2Proof.Machine.execVCmplt t engine s
  | .vCmple t engine => Sys2Proof.Machine.execVCmple t engine s
  | .vSel t engine => Sys2Proof.Machine.execVSel t engine s
  | .vExp2 t engine => Sys2Proof.Machine.execVExp2 t engine s
  | .vExp t engine => Sys2Proof.Machine.execVExp t engine s
  | .vLog2 t engine => Sys2Proof.Machine.execVLog2 t engine s
  | .vLog t engine => Sys2Proof.Machine.execVLog t engine s
  | .vRcp t engine => Sys2Proof.Machine.execVRcp t engine s
  | .vSqrt t engine => Sys2Proof.Machine.execVSqrt t engine s
  | .vRsqrt t engine => Sys2Proof.Machine.execVRsqrt t engine s
  | .vDiv t engine => Sys2Proof.Machine.execVDiv t engine s
  | .vSin t engine => Sys2Proof.Machine.execVSin t engine s
  | .vCos t engine => Sys2Proof.Machine.execVCos t engine s
  | .vTanh t engine => Sys2Proof.Machine.execVTanh t engine s
  | .vRsum t engine => Sys2Proof.Machine.execVRsum t engine s
  | .vRprod t engine => Sys2Proof.Machine.execVRprod t engine s
  | .vRmax t engine => Sys2Proof.Machine.execVRmax t engine s
  | .vRmin t engine => Sys2Proof.Machine.execVRmin t engine s
  | .vRargmax t engine => Sys2Proof.Machine.execVRargmax t engine s
  | .vRargmin t engine => Sys2Proof.Machine.execVRargmin t engine s
  | .vSeta t engine => Sys2Proof.Machine.execVSeta t engine s
  | .vAdda t engine => Sys2Proof.Machine.execVAdda t engine s
  | .vLoop t engine => Sys2Proof.Machine.execVLoop t engine s
  | .vSetacc t engine => Sys2Proof.Machine.execVSetacc t engine s
  | .vSetsr t engine => Sys2Proof.Machine.execVSetsr t engine s
  | .vTqhdr t engine => Sys2Proof.Machine.execVTqhdr t engine s
  | .vTqmark t engine => Sys2Proof.Machine.execVTqmark t engine s
  | .vTqrewind t engine => Sys2Proof.Machine.execVTqrewind t engine s
  | .vTqrel t engine => Sys2Proof.Machine.execVTqrel t engine s
  | .vEnd t engine => Sys2Proof.Machine.execVEnd t engine s
  | .veWaitResume t engine => Sys2Proof.Machine.execVeWaitResume t engine s
  | .pack t unit => Sys2Proof.Machine.execPack t unit s
  | .tie t unit => Sys2Proof.Machine.execTie t unit s
  | .send t unit => Sys2Proof.Machine.execSend t unit s
  | .combine t unit => Sys2Proof.Machine.execCombine t unit s
  | .renew t unit => Sys2Proof.Machine.execRenew t unit s
  | .verdict t unit => Sys2Proof.Machine.execVerdict t unit s
  | .barrier t unit => Sys2Proof.Machine.execBarrier t unit s
  | .segment t port pkt => Sys2Proof.Machine.execSegment t port pkt s
  | .tagQuarantineEnd t tag => Sys2Proof.Machine.execTagQuarantineEnd t tag s
  | .refereeUpAt t ctx unit => Sys2Proof.Machine.execRefereeUpAt t ctx unit s
  | .refereeUpRx t port pkt => Sys2Proof.Machine.execRefereeUpRx t port pkt s
  | .refereeDownRx t port pkt => Sys2Proof.Machine.execRefereeDownRx t port pkt s
  | .verdictApply t ctx => Sys2Proof.Machine.execVerdictApply t ctx s
  | .barrierUpAt t ctx unit => Sys2Proof.Machine.execBarrierUpAt t ctx unit s
  | .barrierUpRx t port pkt => Sys2Proof.Machine.execBarrierUpRx t port pkt s
  | .barrierDownRx t port pkt => Sys2Proof.Machine.execBarrierDownRx t port pkt s
  | .laddRefCtrlWrite t ctx value => Sys2Proof.Machine.execLaddRefCtrlWrite t ctx value s
  | .sweep t unit go => Sys2Proof.Machine.execSweep t unit go s
  | .resume t unit go => Sys2Proof.Machine.execResume t unit go s
  | .compare t unit => Sys2Proof.Machine.execCompare t unit s
  | .repair t unit go => Sys2Proof.Machine.execRepair t unit go s
  | .compareVoteAt t ctx => Sys2Proof.Machine.execCompareVoteAt t ctx s
  | .compareCountAt t ctx => Sys2Proof.Machine.execCompareCountAt t ctx s
  | .compareRecordRx t port pkt => Sys2Proof.Machine.execCompareRecordRx t port pkt s
  | .compareDecideAt t ctx => Sys2Proof.Machine.execCompareDecideAt t ctx s
  | .tmLoad t unit tile => Sys2Proof.Machine.execTmLoad t unit tile s
  | .tmStore t unit tile => Sys2Proof.Machine.execTmStore t unit tile s
  | .tmAtomic t unit tile => Sys2Proof.Machine.execTmAtomic t unit tile s
  | .tileIssue t unit => Sys2Proof.Machine.execTileIssue t unit s
  | .channelLineRead t addr fence => Sys2Proof.Machine.execChannelLineRead t addr fence s
  | .channelLineWrite t addr data => Sys2Proof.Machine.execChannelLineWrite t addr data s
  | .wcbFillDone t line => Sys2Proof.Machine.execWcbFillDone t line s
  | .wcbFlush t line => Sys2Proof.Machine.execWcbFlush t line s
  | .atomicLineApply t line atype aop operands => Sys2Proof.Machine.execAtomicLineApply t line atype aop operands s
  | .stkIlvWrite t die value => Sys2Proof.Machine.execStkIlvWrite t die value s
  | .coreUncachedAccess t core addr size access => Sys2Proof.Machine.execCoreUncachedAccess t core addr size access s
  | .getS t core line => Sys2Proof.Machine.execGetS t core line s
  | .getX t core line => Sys2Proof.Machine.execGetX t core line s
  | .upgrade t core line => Sys2Proof.Machine.execUpgrade t core line s
  | .putM t core line data => Sys2Proof.Machine.execPutM t core line data s
  | .inv t core msg => Sys2Proof.Machine.execInv t core msg s
  | .fwdS t core line did => Sys2Proof.Machine.execFwdS t core line did s
  | .fwdI t core line did => Sys2Proof.Machine.execFwdI t core line did s
  | .dataWb t core line => Sys2Proof.Machine.execDataWb t core line s
  | .dataS t core line => Sys2Proof.Machine.execDataS t core line s
  | .dataE t core line => Sys2Proof.Machine.execDataE t core line s
  | .grant t core line => Sys2Proof.Machine.execGrant t core line s
  | .nackRx t core line => Sys2Proof.Machine.execNackRx t core line s
  | .invAck t core line => Sys2Proof.Machine.execInvAck t core line s
  | .notPresent t core line => Sys2Proof.Machine.execNotPresent t core line s
  | .putAck t core line => Sys2Proof.Machine.execPutAck t core line s
  | .nackBackoffExpiry t core line => Sys2Proof.Machine.execNackBackoffExpiry t core line s
  | .coreHoldEnd t core line => Sys2Proof.Machine.execCoreHoldEnd t core line s
  | .engineSnoopAccess t line write => Sys2Proof.Machine.execEngineSnoopAccess t line write s
  | .domainTimeout t cause line unit => Sys2Proof.Machine.execDomainTimeout t cause line unit s
  | .mapPages t c va ga pages size flags => Sys2Proof.Machine.execMapPages t c va ga pages size flags s
  | .unmap t c va pages size => Sys2Proof.Machine.execUnmap t c va pages size s
  | .invalTc t c va pages size all => Sys2Proof.Machine.execInvalTc t c va pages size all s
  | .tcInvalidation t die ctx => Sys2Proof.Machine.execTcInvalidation t die ctx s
  | .translationRetireDone t ctx => Sys2Proof.Machine.execTranslationRetireDone t ctx s
  | .translationWalk t die ctx va need unit => Sys2Proof.Machine.execTranslationWalk t die ctx va need unit s
  | .cmdpRingTailWrite t slot value => Sys2Proof.Machine.execCmdpRingTailWrite t slot value s
  | .cmdpCplHeadWrite t slot value => Sys2Proof.Machine.execCmdpCplHeadWrite t slot value s
  | .cmdpRingSizeWrite t value => Sys2Proof.Machine.execCmdpRingSizeWrite t value s
  | .fence t c => Sys2Proof.Machine.execFence t c s
  | .seqAdmit t c entries => Sys2Proof.Machine.execSeqAdmit t c entries s
  | .seqRetire t c slots => Sys2Proof.Machine.execSeqRetire t c slots s
  | .seqDecision t ctx => Sys2Proof.Machine.execSeqDecision t ctx s
  | .exportShard t c unit shard dest room => Sys2Proof.Machine.execExportShard t c unit shard dest room s
  | .digestQuery t c unit shard => Sys2Proof.Machine.execDigestQuery t c unit shard s
  | .disableUnit t c unit timeout => Sys2Proof.Machine.execDisableUnit t c unit timeout s
  | .disableTimeout t unit => Sys2Proof.Machine.execDisableTimeout t unit s
  | .enableUnit t c unit => Sys2Proof.Machine.execEnableUnit t c unit s
  | .preempt t c => Sys2Proof.Machine.execPreempt t c s
  | .preemptTakeEffect t ctx => Sys2Proof.Machine.execPreemptTakeEffect t ctx s
  | .preemptComplete t ctx => Sys2Proof.Machine.execPreemptComplete t ctx s
  | .preemptResume t c ftStart => Sys2Proof.Machine.execPreemptResume t c ftStart s
  | .ctxCreate t c p payload => Sys2Proof.Machine.execCtxCreate t c p payload s
  | .ctxPartition t c payload => Sys2Proof.Machine.execCtxPartition t c payload s
  | .ctxDestroy t c => Sys2Proof.Machine.execCtxDestroy t c s
  | .ctxDestroyComplete t ctx => Sys2Proof.Machine.execCtxDestroyComplete t ctx s
  | .linkFrameRx t port frame => Sys2Proof.Machine.execLinkFrameRx t port frame s
  | .linkIdle t port frame => Sys2Proof.Machine.execLinkIdle t port frame s
  | .linkNak t port frame => Sys2Proof.Machine.execLinkNak t port frame s
  | .linkFrameTx t port => Sys2Proof.Machine.execLinkFrameTx t port s
  | .packetRelay t port pkt => Sys2Proof.Machine.execPacketRelay t port pkt s
  | .pktRead t port pkt => Sys2Proof.Machine.execPktRead t port pkt s
  | .pktWrite t port pkt => Sys2Proof.Machine.execPktWrite t port pkt s
  | .pktWriteMasked t port pkt => Sys2Proof.Machine.execPktWriteMasked t port pkt s
  | .pktAtomic t port pkt => Sys2Proof.Machine.execPktAtomic t port pkt s
  | .pktArrival t port pkt => Sys2Proof.Machine.execPktArrival t port pkt s
  | .pktReadData t port pkt => Sys2Proof.Machine.execPktReadData t port pkt s
  | .pktWriteAck t port pkt => Sys2Proof.Machine.execPktWriteAck t port pkt s
  | .pktAtomicData t port pkt => Sys2Proof.Machine.execPktAtomicData t port pkt s
  | .pktArrivalAck t port pkt => Sys2Proof.Machine.execPktArrivalAck t port pkt s
  | .pktError t port pkt => Sys2Proof.Machine.execPktError t port pkt s
  | .requestTimeout t port tag => Sys2Proof.Machine.execRequestTimeout t port tag s
  | .retrainEntry t port lost => Sys2Proof.Machine.execRetrainEntry t port lost s
  | .retrainDone t port peerLast => Sys2Proof.Machine.execRetrainDone t port peerLast s
  | .portDown t port => Sys2Proof.Machine.execPortDown t port s
  | .linkTrained t port up peer => Sys2Proof.Machine.execLinkTrained t port up peer s
  | .portCtrlWrite t port value => Sys2Proof.Machine.execPortCtrlWrite t port value s
  | .portPkgCtrlWrite t value => Sys2Proof.Machine.execPortPkgCtrlWrite t value s
  | .portRouteDataWrite t value => Sys2Proof.Machine.execPortRouteDataWrite t value s
  | .portBiasDataWrite t value => Sys2Proof.Machine.execPortBiasDataWrite t value s
  | .biasFlipDone t page => Sys2Proof.Machine.execBiasFlipDone t page s
  | .portWinCtrlWrite t window value => Sys2Proof.Machine.execPortWinCtrlWrite t window value s
  | .portEthDoorbell t port value => Sys2Proof.Machine.execPortEthDoorbell t port value s
  | .ethFrameTx t port => Sys2Proof.Machine.execEthFrameTx t port s
  | .ethFrameRx t port frame => Sys2Proof.Machine.execEthFrameRx t port frame s
  | .bridgeFrameRx t dir group frame crcOk => Sys2Proof.Machine.execBridgeFrameRx t dir group frame crcOk s
  | .bridgeReplay t dir group => Sys2Proof.Machine.execBridgeReplay t dir group s
  | .laneMarkRepair t lane errors => Sys2Proof.Machine.execLaneMarkRepair t lane errors s
  | .bridgeRepairDone t dir group => Sys2Proof.Machine.execBridgeRepairDone t dir group s
  | .queueWrite t q data last => Sys2Proof.Machine.execQueueWrite t q data last s
  | .queueRead t q n => Sys2Proof.Machine.execQueueRead t q n s
  | .queueMark t q => Sys2Proof.Machine.execQueueMark t q s
  | .queueRewind t q => Sys2Proof.Machine.execQueueRewind t q s
  | .queueRelease t q p => Sys2Proof.Machine.execQueueRelease t q p s
  | .queuePositionSync t q toReader => Sys2Proof.Machine.execQueuePositionSync t q toReader s
  | .overrunClear t q value => Sys2Proof.Machine.execOverrunClear t q value s
  | .faultRecordArrive t rs => Sys2Proof.Machine.execFaultRecordArrive t rs s
  | .errFqRelease t die value => Sys2Proof.Machine.execErrFqRelease t die value s
  | .counterClear t addr value => Sys2Proof.Machine.execCounterClear t addr value s
  | .errInjectWrite t die value => Sys2Proof.Machine.execErrInjectWrite t die value s
  | .registerWrite t addr size value => Sys2Proof.Machine.execRegisterWrite t addr size value s
  | .imageStart t value => Sys2Proof.Machine.execImageStart t value s
  | .imageVerify t value => Sys2Proof.Machine.execImageVerify t value s
  | .imageCommit t value => Sys2Proof.Machine.execImageCommit t value s
  | .imageProgramDone t readBackOk => Sys2Proof.Machine.execImageProgramDone t readBackOk s
  | .attestGo t value => Sys2Proof.Machine.execAttestGo t value s
  | .attestDone t => Sys2Proof.Machine.execAttestDone t s
  | .secExtendCtrlWrite t value => Sys2Proof.Machine.execSecExtendCtrlWrite t value s
  | .unlock t response => Sys2Proof.Machine.execUnlock t response s
  | .debugUnlockTimeout t => Sys2Proof.Machine.execDebugUnlockTimeout t s
  | .dftModeWrite t die value => Sys2Proof.Machine.execDftModeWrite t die value s
  | .i3cPrivateWrite t bytes => Sys2Proof.Machine.execI3cPrivateWrite t bytes s
  | .i3cPrivateRead t => Sys2Proof.Machine.execI3cPrivateRead t s
  | .entdaa t address => Sys2Proof.Machine.execEntdaa t address s
  | .setdasa t static address => Sys2Proof.Machine.execSetdasa t static address s
  | .rstdaa t => Sys2Proof.Machine.execRstdaa t s
  | .enec t events => Sys2Proof.Machine.execEnec t events s
  | .disec t events => Sys2Proof.Machine.execDisec t events s
  | .getpid t => Sys2Proof.Machine.execGetpid t s
  | .getbcr t => Sys2Proof.Machine.execGetbcr t s
  | .getdcr t => Sys2Proof.Machine.execGetdcr t s
  | .getstatus t => Sys2Proof.Machine.execGetstatus t s
  | .getmwl t => Sys2Proof.Machine.execGetmwl t s
  | .getmrl t => Sys2Proof.Machine.execGetmrl t s
  | .mdpSetAddr t bytes => Sys2Proof.Machine.execMdpSetAddr t bytes s
  | .mdpWriteData t bytes => Sys2Proof.Machine.execMdpWriteData t bytes s
  | .mdpReadData t n ready => Sys2Proof.Machine.execMdpReadData t n ready s
  | .mdpReadStatus t => Sys2Proof.Machine.execMdpReadStatus t s
  | .mdpHDataAccess t write => Sys2Proof.Machine.execMdpHDataAccess t write s
  | .mdpWriteApply t => Sys2Proof.Machine.execMdpWriteApply t s
  | .pkgResetNDeassert t dbgReq straps => Sys2Proof.Machine.execPkgResetNDeassert t dbgReq straps s
  | .hcxResetNDeassert t => Sys2Proof.Machine.execHcxResetNDeassert t s
  | .refclkRestored t => Sys2Proof.Machine.execRefclkRestored t s
  | .trstNAssert t => Sys2Proof.Machine.execTrstNAssert t s
  | .idleEntryDone t die => Sys2Proof.Machine.execIdleEntryDone t die s
  | .imageVerifyDone t => Sys2Proof.Machine.execImageVerifyDone t s
  | .registerRead t addr size => Sys2Proof.Machine.execRegisterRead t addr size s
  | .viorefLow t => Sys2Proof.Machine.execViorefLow t s
  | .viorefRestored t => Sys2Proof.Machine.execViorefRestored t s

end Sys2Proof.Machine
end

