-- ==== Sys2Proof/Machine/Step.lean ====
section
/-!
DEFINITION. One step of the block: the command at the front of the queue is carried out; an empty queue lets one nanosecond pass.
-/
namespace Sys2Proof.Machine

/-- Take the command at the front of the queue and carry it out with the rest of the queue in place. With no command waiting, one
nanosecond passes: FT and AON count it (R37), and the block serves on its own what waits in its rings and on its board bus. -/
def step (s : State) : Host.Outcome State Fault Refusal :=
  match s.pending with
  | [] => .next s.idle
  | c :: rest => exec c { s with pending := rest }

/-- The table gives no row any bits: no word spells a command. -/
def State.withFetchWord (s : State) (nbits w : Nat) : State :=
  match decodeTableWord nbits w with
  | some c => { s with pending := c :: s.pending }
  | none => s

end Sys2Proof.Machine
end

