-- ==== Sys2Proof/WellFormed.lean ====
section
/-!
DEFINITION. Well-formed commands: every operand lies in the range that the spec gives the thing it names (R1, R2, R7, R31 and the rules
at each check). `exec` is total on the other commands too; a statement assumes well-formedness only where it says so.
-/
namespace Sys2Proof.WellFormed

/-- A value of a register (R7), an FT or AON time (R37), or a package-local address of a command. -/
def okValue (v : Nat) : Bool := v < 2 ^ 64
def okU32 (v : Nat) : Bool := v < 2 ^ 32
def okU16 (v : Nat) : Bool := v < 2 ^ 16
def okU8 (v : Nat) : Bool := v < 2 ^ 8
def okNibble (v : Nat) : Bool := v < 2 ^ 4

/-- A die (R1). -/
def okDie (d : Nat) : Bool := d < 8

/-- A set of dies as a bit mask (R1). -/
def okDie8 (m : Nat) : Bool := m < 2 ^ 8

/-- A context slot (R358). -/
def okCtx (c : Nat) : Bool := c < 16

/-- A ring slot: a context's, or 16 for the control ring (R358). -/
def okSlot (r : Nat) : Bool := r ≤ 16

/-- A fabric port (R288). -/
def okPort (p : Nat) : Bool := p < 16

/-- A stack: two on each die (R3). -/
def okStack (k : Nat) : Bool := k < 16

/-- A temperature sensor of a die (R423), and its reading: 16 bits of two's complement. -/
def okSensor (i : Nat) : Bool := i < 24
def okTemp (v : Nat) : Bool := v < 2 ^ 16

/-- An engine by global index: 48 on each die (R2). -/
def okEngine (e : Nat) : Bool := e < 384

/-- A core by global index: 24 on each die (R31). -/
def okCore (k : Nat) : Bool := k < 192

/-- A unit id (R31). -/
def okUnit (u : Nat) : Bool := u < 2 ^ 16

/-- An index into the pour table of a die (R53). -/
def okEntry (i : Nat) : Bool := i < 65536

/-- A bucket tag, or a request tag of a port: 4,096 of each (R210, R304). -/
def okTag (g : Nat) : Bool := g < 4096

/-- A line of tier 1 by number, and a 64 MiB page of it (R32, R314). -/
def okLine (l : Nat) : Bool := l < 2 ^ 34
def okPage (p : Nat) : Bool := p < 2 ^ 14

/-- A package-local address (R32). -/
def okAddr (a : Nat) : Bool := a < 2 ^ 44

/-- An inbound window (R311). -/
def okWindow (w : Nat) : Bool := w < 64

/-- The 64 bytes of a line. -/
def okLineData (bs : List Byte) : Bool := bs.length == 64

/-- What a core tells of its copy: a store leaves a whole line. -/
def okDid : CoreDid → Bool
  | .stored bs => okLineData bs
  | _ => true

/-- How far an update unit goes. -/
def okStretch (go : Stretch) : Bool := okValue go.parts && okValue go.lines

/-- A bridge direction that exists (R2, BRG block): a die of the left column has no slot 0, one of the right column no slot 1. -/
def okDir (d : Dir) : Bool :=
  okDie d.die && decide (d.slot < 3) && !(d.slot == 0 && d.die % 4 == 0) && !(d.slot == 1 && d.die % 4 == 3)

/-- A lane group of a bridge direction, and a lane of a group: 64 data lanes and 4 spares (R20). -/
def okGroup (g : Nat) : Bool := g < 64
def okLane (l : Lane) : Bool := okDir l.dir && okGroup l.group && decide (l.lane < 68)
def okLanes (ls : List Lane) : Bool := ls.all okLane
def okFrameNo (f : Nat) : Bool := f < 2 ^ 16

/-- A runner queue that exists (R399). -/
def okQueue : QueueId → Bool
  | .tileData e => okEngine e
  | .tileHeader e => okEngine e
  | .bridgeRetry d k g => okDir ⟨d, k⟩ && okGroup g
  | .portReplay p => okPort p
  | .faultQueue d => okDie d
  | .dataPort => true

/-- A command header (R364): its ring, CMD_SEQ, and its context. -/
def okCmd (c : Cmd) : Bool := decide (c.ring < 18) && okU32 c.seq && okCtx c.ctx

/-- A link frame (R293); one with an uncorrectable FEC codeword brings no bytes (R452). -/
def okLinkFrame (bs : List Byte) : Bool := bs.length == 528 || bs.isEmpty

/-- A packet: a header of 32 bytes and its payload (R301). -/
def okPacket (bs : List Byte) : Bool := decide (32 ≤ bs.length) && decide (bs.length ≤ 4192)

/-- A payload of a command: at most 448 bytes, a multiple of 8 (R364). -/
def okPayload (bs : List Byte) : Bool := decide (bs.length ≤ 448) && bs.length % 8 == 0

/-- A TIME frame's fields (R306). -/
def okBeacon (b : Beacon) : Bool := okValue b.ftTx && okU16 b.master && okU8 b.stratum && okU32 b.seq && okU32 b.turnaround

/-- A fault on its way to a collector (R454). -/
def okCode (c : Nat) : Bool :=
  c ≤ 5 || (0x10 ≤ c && c ≤ 0x16) || (0x20 ≤ c && c ≤ 0x22) || (0x30 ≤ c && c ≤ 0x32) || c == 0x40 || c == 0x41
def okFault (f : FaultIn) : Bool := okCode f.code && okUnit f.unit && okU8 f.ctx && okU8 f.severity && okValue f.address && okValue f.detail

/-- A seven-bit address of the I3C bus (R476). -/
def okI3cAddr (a : Nat) : Bool := a < 128

/-- Settings of STAGE (R67). -/
def okItems (l : List StageItem) : Bool := l.all (fun i => okUnit i.unit && okU16 i.param && okValue i.value)

/-- Entries of SEQ_ADMIT, and slots of SEQ_RETIRE (R383). -/
def okAdmits (l : List Admit) : Bool := l.all (fun a => okU32 a.slot && okU32 a.prompt && okU32 a.maxTokens && okValue a.pageList)
def okSlots (l : List Nat) : Bool := l.all okU32

/-- Parameters of CTX_CREATE (R367). -/
def okCreate (p : Create) : Bool :=
  okValue p.ringVa && okValue p.cplVa && okValue p.table && okValue p.tableBytes && okU8 p.n && okU8 p.m && okDie p.home

/-- The outcome of a self-test names an existing kind of unit by its id (R431). -/
def okSelfTest : SelfTest → Bool
  | .sram u => okUnit u
  | .logic u => okUnit u
  | .pass => true
  | .frazar => true

/-- An operand that may be absent. -/
def okOptValue : Option Nat → Bool
  | some v => okValue v
  | none => true
def okOptLine : Option (List Byte) → Bool
  | some bs => decide (bs.length ≤ 64)
  | none => true

end Sys2Proof.WellFormed

namespace Sys2Proof

open WellFormed in
/-- Every operand of the command is in range. -/
def Instr.wf (i : Instr) : Bool :=
  match i with
  | .powerOn t railsAt refclkAt => okValue t && okValue railsAt && okValue refclkAt
  | .pkgResetNAssert t width => okValue t && okValue width
  | .refclkLoss t stopped _ => okValue t && okValue stopped
  | .inputOutOfRange t millivolts lasting => okValue t && okValue millivolts && okValue lasting
  | .romStart t _ _ => okValue t
  | .d0SelfTest t res => okValue t && okSelfTest res
  | .fetch t _ => okValue t
  | .verification t => okValue t
  | .releaseD1D7 t => okValue t
  | .dieRelease t => okValue t
  | .dieSelftestDone t die res => okValue t && okDie die && okSelfTest res
  | .bridges t failing => okValue t && okLanes failing
  | .stacks t badLine => okValue t && okOptValue badLine
  | .portsAndFt t => okValue t
  | .hostRelease t => okValue t
  | .bootStageTimeout t => okValue t
  | .hcxResetNAssert t width => okValue t && okValue width
  | .secHcxReset t value => okValue t && okValue value
  | .hostComplexRestart t _ => okValue t
  | .sensorSample t die sensor temp => okValue t && okDie die && okSensor sensor && okTemp temp
  | .tripHoldoffEnd t => okValue t
  | .budgetReport t die => okValue t && okDie die
  | .budgetMessageRx t die => okValue t && okDie die
  | .budgetCompute t => okValue t
  | .budgetTakeEffect t missing => okValue t && okDie8 missing
  | .backstopSlot t die => okValue t && okDie die
  | .pwrPkgCapWrite t value => okValue t && okValue value
  | .idleEntry t die => okValue t && okDie die
  | .idleExitDone t die => okValue t && okDie die
  | .stackWake t stack => okValue t && okStack stack
  | .selfRefreshEntry t stack => okValue t && okStack stack
  | .setLtv t c dies ltv => okValue t && okCmd c && okDie8 dies && okU32 ltv
  | .energyQuery t c => okValue t && okCmd c
  | .beacon t port b => okValue t && okPort port && okBeacon b
  | .beaconTimeout t => okValue t
  | .syncInEdge t => okValue t
  | .syncInTimeout t => okValue t
  | .holdoverExpiry t => okValue t
  | .delayMeasureTimer t => okValue t
  | .delayReq t port b => okValue t && okPort port && okBeacon b
  | .delayResp t port b => okValue t && okPort port && okBeacon b
  | .ftCtrlWrite t value => okValue t && okValue value
  | .loadMould t c va => okValue t && okCmd c && okValue va
  | .armAt t c ftStart heatBase _ => okValue t && okCmd c && okValue ftStart && okU32 heatBase
  | .halt t c => okValue t && okCmd c
  | .haltComplete t ctx => okValue t && okCtx ctx
  | .stage t c items => okValue t && okCmd c && okItems items
  | .commitAt t c applyAt => okValue t && okCmd c && okValue applyAt
  | .commitAtCancel t c => okValue t && okCmd c
  | .commitApply t ctx => okValue t && okCtx ctx
  | .heatStart t ctx => okValue t && okCtx ctx
  | .pourDispatch t ctx die index => okValue t && okCtx ctx && okDie die && okEntry index
  | .descriptorArrive t unit => okValue t && okUnit unit
  | .pourLaunch t unit => okValue t && okUnit unit
  | .holdExpiry t unit => okValue t && okUnit unit
  | .pourSignal t unit => okValue t && okUnit unit
  | .nopPour t unit => okValue t && okUnit unit
  | .product t unit => okValue t && okUnit unit
  | .drain t unit => okValue t && okUnit unit
  | .drainQueueResume t unit => okValue t && okUnit unit
  | .runKernel t unit => okValue t && okUnit unit
  | .kernelBudgetExpiry t engine => okValue t && okEngine engine
  | .vAdd t engine => okValue t && okEngine engine
  | .vSub t engine => okValue t && okEngine engine
  | .vMul t engine => okValue t && okEngine engine
  | .vFma t engine => okValue t && okEngine engine
  | .vMin t engine => okValue t && okEngine engine
  | .vMax t engine => okValue t && okEngine engine
  | .vAbs t engine => okValue t && okEngine engine
  | .vNeg t engine => okValue t && okEngine engine
  | .vMov t engine => okValue t && okEngine engine
  | .vCmpeq t engine => okValue t && okEngine engine
  | .vCmpne t engine => okValue t && okEngine engine
  | .vCmplt t engine => okValue t && okEngine engine
  | .vCmple t engine => okValue t && okEngine engine
  | .vSel t engine => okValue t && okEngine engine
  | .vExp2 t engine => okValue t && okEngine engine
  | .vExp t engine => okValue t && okEngine engine
  | .vLog2 t engine => okValue t && okEngine engine
  | .vLog t engine => okValue t && okEngine engine
  | .vRcp t engine => okValue t && okEngine engine
  | .vSqrt t engine => okValue t && okEngine engine
  | .vRsqrt t engine => okValue t && okEngine engine
  | .vDiv t engine => okValue t && okEngine engine
  | .vSin t engine => okValue t && okEngine engine
  | .vCos t engine => okValue t && okEngine engine
  | .vTanh t engine => okValue t && okEngine engine
  | .vRsum t engine => okValue t && okEngine engine
  | .vRprod t engine => okValue t && okEngine engine
  | .vRmax t engine => okValue t && okEngine engine
  | .vRmin t engine => okValue t && okEngine engine
  | .vRargmax t engine => okValue t && okEngine engine
  | .vRargmin t engine => okValue t && okEngine engine
  | .vSeta t engine => okValue t && okEngine engine
  | .vAdda t engine => okValue t && okEngine engine
  | .vLoop t engine => okValue t && okEngine engine
  | .vSetacc t engine => okValue t && okEngine engine
  | .vSetsr t engine => okValue t && okEngine engine
  | .vTqhdr t engine => okValue t && okEngine engine
  | .vTqmark t engine => okValue t && okEngine engine
  | .vTqrewind t engine => okValue t && okEngine engine
  | .vTqrel t engine => okValue t && okEngine engine
  | .vEnd t engine => okValue t && okEngine engine
  | .veWaitResume t engine => okValue t && okEngine engine
  | .pack t unit => okValue t && okUnit unit
  | .tie t unit => okValue t && okUnit unit
  | .send t unit => okValue t && okUnit unit
  | .combine t unit => okValue t && okUnit unit
  | .renew t unit => okValue t && okUnit unit
  | .verdict t unit => okValue t && okUnit unit
  | .barrier t unit => okValue t && okUnit unit
  | .segment t port pkt => okValue t && okPort port && okPacket pkt
  | .tagQuarantineEnd t tag => okValue t && okTag tag
  | .refereeUpAt t ctx unit => okValue t && okCtx ctx && okUnit unit
  | .refereeUpRx t port pkt => okValue t && okPort port && okPacket pkt
  | .refereeDownRx t port pkt => okValue t && okPort port && okPacket pkt
  | .verdictApply t ctx => okValue t && okCtx ctx
  | .barrierUpAt t ctx unit => okValue t && okCtx ctx && okUnit unit
  | .barrierUpRx t port pkt => okValue t && okPort port && okPacket pkt
  | .barrierDownRx t port pkt => okValue t && okPort port && okPacket pkt
  | .laddRefCtrlWrite t ctx value => okValue t && okCtx ctx && okValue value
  | .sweep t unit go => okValue t && okUnit unit && okStretch go
  | .resume t unit go => okValue t && okUnit unit && okStretch go
  | .compare t unit => okValue t && okUnit unit
  | .repair t unit go => okValue t && okUnit unit && okStretch go
  | .compareVoteAt t ctx => okValue t && okCtx ctx
  | .compareCountAt t ctx => okValue t && okCtx ctx
  | .compareRecordRx t port pkt => okValue t && okPort port && okPacket pkt
  | .compareDecideAt t ctx => okValue t && okCtx ctx
  | .tmLoad t unit tile => okValue t && okUnit unit && okU32 tile
  | .tmStore t unit tile => okValue t && okUnit unit && okU32 tile
  | .tmAtomic t unit tile => okValue t && okUnit unit && okU32 tile
  | .tileIssue t unit => okValue t && okUnit unit
  | .channelLineRead t addr epoch => okValue t && okAddr addr && okOptValue epoch
  | .channelLineWrite t addr _ => okValue t && okAddr addr
  | .wcbFillDone t line => okValue t && okLine line
  | .wcbFlush t line => okValue t && okLine line
  | .atomicLineApply t line atype aop _ => okValue t && okLine line && okNibble atype && okNibble aop
  | .stkIlvWrite t die value => okValue t && okDie die && okValue value
  | .coreUncachedAccess t core addr size access => okValue t && okCore core && okAddr addr && okValue size &&
    (match access with | .store v => okValue v | _ => true)
  | .getS t core line => okValue t && okCore core && okLine line
  | .getX t core line => okValue t && okCore core && okLine line
  | .upgrade t core line => okValue t && okCore core && okLine line
  | .putM t core line data => okValue t && okCore core && okLine line && okLineData data
  | .inv t core msg => okValue t && okCore core && okLine msg.line && okDid msg.did
  | .fwdS t core line did => okValue t && okCore core && okLine line && okDid did
  | .fwdI t core line did => okValue t && okCore core && okLine line && okDid did
  | .dataWb t core line => okValue t && okCore core && okLine line
  | .dataS t core line => okValue t && okCore core && okLine line
  | .dataE t core line => okValue t && okCore core && okLine line
  | .grant t core line => okValue t && okCore core && okLine line
  | .nackRx t core line => okValue t && okCore core && okLine line
  | .invAck t core line => okValue t && okCore core && okLine line
  | .notPresent t core line => okValue t && okCore core && okLine line
  | .putAck t core line => okValue t && okCore core && okLine line
  | .nackBackoffExpiry t core line => okValue t && okCore core && okLine line
  | .coreHoldEnd t core line => okValue t && okCore core && okLine line
  | .engineSnoopAccess t line write => okValue t && okLine line && okOptLine write
  | .domainTimeout t cause line unit => okValue t && okU16 cause && okLine line && okUnit unit
  | .mapPages t c va ga pages size flags => okValue t && okCmd c && okValue va && okAddr ga && okU32 pages && okNibble size && okU16 flags
  | .unmap t c va pages size => okValue t && okCmd c && okValue va && okU32 pages && okNibble size
  | .invalTc t c va pages size _ => okValue t && okCmd c && okValue va && okU32 pages && okNibble size
  | .tcInvalidation t die ctx => okValue t && okDie die && okCtx ctx
  | .translationRetireDone t ctx => okValue t && okCtx ctx
  | .translationWalk t die ctx va need unit => okValue t && okDie die && okCtx ctx && okValue va && okNibble need && okUnit unit
  | .cmdpRingTailWrite t slot value => okValue t && okSlot slot && okValue value
  | .cmdpCplHeadWrite t slot value => okValue t && okSlot slot && okValue value
  | .cmdpRingSizeWrite t value => okValue t && okValue value
  | .fence t c => okValue t && okCmd c
  | .seqAdmit t c entries => okValue t && okCmd c && okAdmits entries
  | .seqRetire t c slots => okValue t && okCmd c && okSlots slots
  | .seqDecision t ctx => okValue t && okCtx ctx
  | .exportShard t c unit shard dest room => okValue t && okCmd c && okUnit unit && okU32 shard && okValue dest && okU32 room.limit
  | .digestQuery t c unit shard => okValue t && okCmd c && okUnit unit && okU32 shard
  | .disableUnit t c unit timeout => okValue t && okCmd c && okUnit unit && okValue timeout
  | .disableTimeout t unit => okValue t && okUnit unit
  | .enableUnit t c unit => okValue t && okCmd c && okUnit unit
  | .preempt t c => okValue t && okCmd c
  | .preemptTakeEffect t ctx => okValue t && okCtx ctx
  | .preemptComplete t ctx => okValue t && okCtx ctx
  | .preemptResume t c ftStart => okValue t && okCmd c && okValue ftStart
  | .ctxCreate t c p payload => okValue t && okCmd c && okCreate p && okPayload payload
  | .ctxPartition t c payload => okValue t && okCmd c && okPayload payload
  | .ctxDestroy t c => okValue t && okCmd c
  | .ctxDestroyComplete t ctx => okValue t && okCtx ctx
  | .linkFrameRx t port frame => okValue t && okPort port && okLinkFrame frame
  | .linkIdle t port frame => okValue t && okPort port && okLinkFrame frame
  | .linkNak t port frame => okValue t && okPort port && okLinkFrame frame
  | .linkFrameTx t port => okValue t && okPort port
  | .packetRelay t port pkt => okValue t && okPort port && okPacket pkt
  | .pktRead t port pkt => okValue t && okPort port && okPacket pkt
  | .pktWrite t port pkt => okValue t && okPort port && okPacket pkt
  | .pktWriteMasked t port pkt => okValue t && okPort port && okPacket pkt
  | .pktAtomic t port pkt => okValue t && okPort port && okPacket pkt
  | .pktArrival t port pkt => okValue t && okPort port && okPacket pkt
  | .pktReadData t port pkt => okValue t && okPort port && okPacket pkt
  | .pktWriteAck t port pkt => okValue t && okPort port && okPacket pkt
  | .pktAtomicData t port pkt => okValue t && okPort port && okPacket pkt
  | .pktArrivalAck t port pkt => okValue t && okPort port && okPacket pkt
  | .pktError t port pkt => okValue t && okPort port && okPacket pkt
  | .requestTimeout t port tag => okValue t && okPort port && okTag tag
  | .retrainEntry t port _ => okValue t && okPort port
  | .retrainDone t port peerLast => okValue t && okPort port && okU16 peerLast
  | .portDown t port => okValue t && okPort port
  | .linkTrained t port _ peer => okValue t && okPort port && okU16 peer
  | .portCtrlWrite t port value => okValue t && okPort port && okValue value
  | .portPkgCtrlWrite t value => okValue t && okValue value
  | .portRouteDataWrite t value => okValue t && okValue value
  | .portBiasDataWrite t value => okValue t && okValue value
  | .biasFlipDone t page => okValue t && okPage page
  | .portWinCtrlWrite t window value => okValue t && okWindow window && okValue value
  | .portEthDoorbell t port value => okValue t && okPort port && okValue value
  | .ethFrameTx t port => okValue t && okPort port
  | .ethFrameRx t port _ => okValue t && okPort port
  | .bridgeFrameRx t dir group frame _ => okValue t && okDir dir && okGroup group && okFrameNo frame
  | .bridgeReplay t dir group => okValue t && okDir dir && okGroup group
  | .laneMarkRepair t lane errors => okValue t && okLane lane && okValue errors
  | .bridgeRepairDone t dir group => okValue t && okDir dir && okGroup group
  | .queueWrite t q _ _ => okValue t && okQueue q
  | .queueRead t q n => okValue t && okQueue q && okValue n
  | .queueMark t q => okValue t && okQueue q
  | .queueRewind t q => okValue t && okQueue q
  | .queueRelease t q p => okValue t && okQueue q && okValue p
  | .queuePositionSync t q _ => okValue t && okQueue q
  | .overrunClear t q value => okValue t && okQueue q && okValue value
  | .faultRecordArrive t rs => okValue t && rs.all okFault
  | .errFqRelease t die value => okValue t && okDie die && okValue value
  | .counterClear t addr value => okValue t && okAddr addr && okValue value
  | .errInjectWrite t die value => okValue t && okDie die && okValue value
  | .registerWrite t addr size value => okValue t && okAddr addr && okValue size && okValue value
  | .imageStart t value => okValue t && okValue value
  | .imageVerify t value => okValue t && okValue value
  | .imageCommit t value => okValue t && okValue value
  | .imageProgramDone t _ => okValue t
  | .attestGo t value => okValue t && okValue value
  | .attestDone t => okValue t
  | .secExtendCtrlWrite t value => okValue t && okValue value
  | .unlock t _ => okValue t
  | .debugUnlockTimeout t => okValue t
  | .dftModeWrite t die value => okValue t && okDie die && okValue value
  | .i3cPrivateWrite t _ => okValue t
  | .i3cPrivateRead t => okValue t
  | .entdaa t address => okValue t && okI3cAddr address
  | .setdasa t static address => okValue t && okI3cAddr static && okI3cAddr address
  | .rstdaa t => okValue t
  | .enec t events => okValue t && okU8 events
  | .disec t events => okValue t && okU8 events
  | .getpid t => okValue t
  | .getbcr t => okValue t
  | .getdcr t => okValue t
  | .getstatus t => okValue t
  | .getmwl t => okValue t
  | .getmrl t => okValue t
  | .mdpSetAddr t _ => okValue t
  | .mdpWriteData t _ => okValue t
  | .mdpReadData t n ready => okValue t && okValue n && okValue ready
  | .mdpReadStatus t => okValue t
  | .mdpHDataAccess t write => okValue t && okOptValue write
  | .mdpWriteApply t => okValue t
  | .pkgResetNDeassert t _ straps => okValue t && okNibble straps
  | .hcxResetNDeassert t => okValue t
  | .refclkRestored t => okValue t
  | .trstNAssert t => okValue t
  | .idleEntryDone t die => okValue t && okDie die
  | .imageVerifyDone t => okValue t
  | .registerRead t addr size => okValue t && okAddr addr && okValue size
  | .viorefLow t => okValue t
  | .viorefRestored t => okValue t

end Sys2Proof
end

