-- ==== Sys2Proof/Safety.lean ====
section
/-!
DEFINITION. What a run that goes well means: every command waiting is well-formed, and no step stops the block.
-/
namespace Sys2Proof.Machine

/-- Every command that waits has its operands in range. -/
def State.queued (s : State) : Bool := s.pending.all Instr.wf

/-- The block goes on from `s`: the next step answers a state. -/
def goesOn (s : State) : Prop := ∃ s', step s = .next s'

/-- `n` steps from `s` all answer a state. -/
def goesOnFor : Nat → State → Prop
  | 0, _ => True
  | n + 1, s => ∃ s', step s = .next s' ∧ goesOnFor n s'

/-- The one form of a memory: addresses strictly rising, and no entry equal to what an unlisted address reads as (0, log 4). -/
def Memory.wf (m : Sparse Byte) : Bool := Sparse.wf 0#8 m

/-! The terms of the statements: when a row finds what it needs. -/

/-- The state that a boot row acts on: AON time has moved on to `t`, and boot has begun when its conditions hold (R428). -/
def State.bootAt (s : State) (t : Nat) : State := (s.advanceAon t).bootBegins

/-- Stage `k` of boot is in progress at AON time `t` and within its limit, with no debug window open (R430, R449). -/
def State.stageOpen (s : State) (t k : Nat) : Bool :=
  (s.bootAt t).boot.stage == k && (s.bootAt t).boot.busy && (s.bootAt t).boot.dbgSince.isNone && !(s.bootAt t).stageOver

/-- The command as its ring lists it, and the state with TAIL and HEAD past its slot (R359), before anything of it is carried out. -/
def State.enrolled (s : State) (c : Cmd) (op : Nat) : OutCmd × State :=
  let s := s.recovered c.ring
  (if c.ring = 17 then s else s.setRing c.ring (fun g => { g with tail := (g.tail + 1) % 2 ^ g.cmdLog })).enroll c op

/-- The same once the memory of the serving command processor has been read (R453). -/
def State.entered (s : State) (c : Cmd) (op : Nat) : OutCmd × State :=
  let e := s.enrolled c op
  (e.1, (e.2.serveMemory (e.2.servedBy c.ring)).1)

/-- Serving the command meets an uncorrectable word in the command processor's memory (R453). -/
def State.memoryFails (s : State) (c : Cmd) (op : Nat) : Bool :=
  let e := s.enrolled c op
  (e.2.serveMemory (e.2.servedBy c.ring)).2

/-- A command finds its ring ready (R361 to R363) and passes the checks of its header (R364): what RECOVER owed has been posted, the
ring can accept it, no invalidation of its context is in progress for one that touches translation, no earlier command waits, and the
command processor's memory holds no uncorrectable word (R453). -/
def State.takes (s : State) (c : Cmd) (op : Nat) : Bool :=
  (s.recovered c.ring).canAccept c && !(s.recovered c.ring).xlateBusy c op &&
  (c.ring == 17 || ((s.recovered c.ring).ring c.ring).head == ((s.recovered c.ring).ring c.ring).tail) &&
  (s.recovered c.ring).headerStatus c op == stOk && !s.memoryFails c op

/-- A good beacon of a frame has been taken: its acknowledgement and credits, its count, and what FT remembers of it (R40, R293). -/
def State.heardBeacon (s : State) (port : Nat) (b : Beacon) : State :=
  let s := s.takeTime port b
  (s.count .FT_BEACON_RX 0 0 1).hear port b (b.ftTx + (s.port port).delay)

/-- The offset of FT that a beacon shows: FT less the master's FT now (R39). -/
def State.beaconOffset (s : State) (port : Nat) (b : Beacon) : Int := (s.ft : Int) - (b.ftTx + (s.port port).delay : Nat)

/-- The FT unit disciplines FT by a beacon: that beacon's port and stratum, and the offset that has arrived. -/
def State.offsetTaken (s : State) (h : Heard) (off : Int) : State :=
  s.setFtu (fun u => { u with offset := off, port := h.port, stratum := h.stratum })

/-- The windows that show a register: eight for a register of every die and for one that every window shows, else one. -/
def regWindows (r : Reg) : Nat := if (regInfo r).scope = .die || (regInfo r).scope = .pkg then 8 else 1

/-- The RW registers that hold what is written to them, with no rule of their own. -/
def plainRegs : List Reg :=
  [.DIE_SCRATCH, .LADD_TAG_SEL, .WS_DIRTY_SEL, .PORT_ROUTE_SEL, .PORT_BIAS_SEL, .PORT_WIN_RANGE, .PORT_WIN_SRC, .PORT_ETH_RINGS,
   .PWR_COEF_SEL, .SEC_IMAGE_ADDR, .SEC_IMAGE_LEN, .SEC_ATTEST_DEST, .SEC_ATTEST_NONCE, .SEC_EXTEND_ADDR, .DFT_CHAIN]

/-- A counter's register as R460 lays it out: COUNT below 2^48, no reserved bit, SAT exactly when COUNT is at its largest. -/
def counterWord (v : Nat) : Prop := v < countMax ∨ v = countMax + 2 ^ 63

/-- No row that releases entries of the queue at FT `t` waits (R387, log 100). -/
def State.noRelease (s : State) (t : Nat) (q : QueueId) : Prop := ∀ p, Instr.queueRelease t q p ∉ s.pending

/-- The registers whose Reset column gives a value of the die's own: a count, an address, or a value fixed at test (R11). -/
def dieValued : List Reg :=
  [.BRG_STATUS, .BRG_RQ_STATUS, .DIE_ID, .DIE_HOPS, .PKG_ABI, .PKG_STEPPING, .PLAN_CAPACITY, .ENG_PRESENT, .UU_PRESENT, .HCX_CORE_PRESENT,
   .PTU_TC_CAPACITY, .CMDP_SERVES, .PWR_COEF_DATA, .SEC_SVN_MIN, .SEC_UID, .DFT_IDCODE]

/-- The registers that only read (R9): every write to them is ignored. -/
def readOnly (r : Reg) (slot : Nat) : Bool :=
  (regInfo r).access == .rc ||
  ((regInfo r).access == .ro && !(slot == 16 && [Reg.CMDP_RING_BASE, .CMDP_CPL_BASE, .CMDP_RING_SIZE].contains r))

/-- The four positions of a runner queue of depth `d` in order, each side's view of the other only ever late, and an entry kept for
every position from RP to WR (R386, R389). -/
structure RunQ.Ordered (q : RunQ) (d : Nat) : Prop where
  rp : q.rp ≤ q.mark
  mark : q.mark ≤ q.rd
  rd : q.rd ≤ q.wrSeen
  wr : q.wrSeen ≤ q.wr
  seen : q.rpSeen ≤ q.rp
  length : q.entries.length = q.wr - q.rp
  depth : q.wr - q.rp ≤ d

/-- A stage of boot has passed: the next one starts now (R430). -/
def State.passedFrom (s' s : State) : Prop :=
  s'.boot.st = s.boot.st ∧ s'.boot.stage = s.boot.stage + 1 ∧ s'.boot.busy = s.boot.busy ∧ s'.boot.stageStart = s'.aon ∧ s'.aon = s.aon

/-- A stage of boot has failed: BOOT_HOLD with the stage number, a cause, its status and the die; cores in reset, SEC_BOOT_TIME fixed
(R430, R439). -/
def State.heldFrom (s' s : State) (cause status die : Nat) : Prop :=
  s'.boot.st = .hold ∧ s'.boot.stage = s.boot.stage ∧ s'.boot.busy = false ∧ s'.boot.cause = cause ∧ s'.boot.status = status ∧
  s'.boot.die = die ∧ s'.hcx.running = false ∧ s'.boot.time = s.aon - s.boot.started ∧ s'.aon = s.aon

/-- What a package reset leaves of the fuses: as they are, or, when it ends a burn in progress, a minimum SVN between the old one and the new
and some of the bits to be revoked (R438). -/
def State.fusesKept (s' s : State) : Prop :=
  match s.boot.burnEnd with
  | none => s'.svnMin = s.svnMin ∧ s'.revoked = s.revoked
  | some e =>
    if e ≤ s.aon then s'.svnMin = s.burnt.1 ∧ s'.revoked = s.burnt.2
    else s.svnMin ≤ s'.svnMin ∧ s'.svnMin ≤ s.burnt.1 ∧
      ∀ i < 8, (bitOf s.revoked i = true → bitOf s'.revoked i = true) ∧ (bitOf s'.revoked i = true → bitOf s.burnt.2 i = true)

/-- The hash that the verified manifest gives the host loader (R436, R443). -/
def State.loaderHash (s : State) : List Byte := match loaderSection s.boot.manifest with | some e => (e.drop 16).take 48 | none => []

/-- A package reset of `s` leaves `s'` (R11, R428): everything is as in the reset state but the AON time, the flash, the fuses, what has been
drawn of the free values, the pins, PWR_TRIP and the commands that wait. -/
def State.clearedBy (s' s : State) : Prop :=
  s' = { State.reset with
    pending := s.pending, aon := s.aon, flash := s'.flash, svnMin := s'.svnMin, revoked := s'.revoked, freeCount := s'.freeCount
    pins := s'.pins, regs := (State.reset.setReg .PWR_TRIP 0 0 (s'.reg .PWR_TRIP 0 0)).regs } ∧
  s'.pins.ftHeld = true ∧ s'.pins.resetAt = s.aon ∧ s'.fusesKept s

/-- The command that a command row puts into its ring, with its opcode and its time (R367). -/
def commandOf : Instr → Option (Nat × Cmd × Nat)
  | .loadMould t c _ => some (t, c, 0x01)
  | .armAt t c _ _ _ => some (t, c, 0x02)
  | .halt t c => some (t, c, 0x03)
  | .stage t c _ => some (t, c, 0x04)
  | .commitAt t c _ => some (t, c, 0x05)
  | .commitAtCancel t c => some (t, c, 0x05)
  | .mapPages t c _ _ _ _ _ => some (t, c, 0x06)
  | .unmap t c _ _ _ => some (t, c, 0x07)
  | .invalTc t c _ _ _ _ => some (t, c, 0x08)
  | .seqAdmit t c _ => some (t, c, 0x09)
  | .seqRetire t c _ => some (t, c, 0x0A)
  | .exportShard t c _ _ _ _ => some (t, c, 0x0B)
  | .digestQuery t c _ _ => some (t, c, 0x0C)
  | .disableUnit t c _ _ => some (t, c, 0x0D)
  | .enableUnit t c _ => some (t, c, 0x0E)
  | .setLtv t c _ _ => some (t, c, 0x0F)
  | .energyQuery t c => some (t, c, 0x10)
  | .fence t c => some (t, c, 0x11)
  | .preempt t c => some (t, c, 0x12)
  | .preemptResume t c _ => some (t, c, 0x12)
  | .ctxCreate t c _ _ => some (t, c, 0x20)
  | .ctxPartition t c _ => some (t, c, 0x21)
  | .ctxDestroy t c => some (t, c, 0x22)
  | _ => none

/-- The command's ring accepts it now: what RECOVER owed has gone out, a completion entry is free, an ORDERED command finds none
outstanding, no earlier command waits, and none that touches the same translation is in progress (R357, R361 to R363). -/
def State.ringReady (s : State) (c : Cmd) (op : Nat) : Bool :=
  (s.recovered c.ring).canAccept c && !(s.recovered c.ring).xlateBusy c op &&
  (c.ring == 17 || ((s.recovered c.ring).ring c.ring).head == ((s.recovered c.ring).ring c.ring).tail)

/-- The pour table that an image gives a die (R48, R51). -/
def imagePours (image : List Byte) (d : Nat) : List (List Byte) :=
  (List.range (hdrPourCount image d)).map (fun i => (image.drop (hdrPourOff image d + 32 * i)).take 32)

/-- LOAD_MOULD reads `image` at `va` for a context: the header, the tables and the member lists pass the checks of R54 that come before
those of the pours, and the digest is that of the image. `w` is the state after the reads. -/
def State.readsImage (s : State) (c va : Nat) (image : List Byte) (w : State) : Prop :=
  let home := (s.ctx c).home
  ∃ (h st gt : List Byte) (lists : List (List Byte)) (s1 s2 s3 : State),
    s.readVa home c va 256 = (s1, .ok h) ∧ headerOk h = true ∧
    State.readMany home c [(va + fieldAt h 32 8, 8 * fieldAt h 40 4), (va + fieldAt h 248 8, 16 * fieldAt h 68 4)] s1 = (s2, .ok [st, gt]) ∧
    boundsOk st (fieldAt h 40 4) = true ∧ groupsOk gt (fieldAt h 68 4) (hdrLen h) = true ∧
    State.readMany home c ((List.range (fieldAt h 68 4)).map (fun i =>
      (va + fieldAt gt (16 * i + 8) 8, 2 * fieldAt gt (16 * i + 2) 2))) s2 = (s3, .ok lists) ∧
    ((lists.zip (List.range (fieldAt h 68 4))).all (fun (l, i) =>
      membersOk s3.pkgId (fieldAt gt (16 * i + 4) 2) (fieldAt gt (16 * i + 2) 2) l)) = true ∧
    fieldAt h 4 2 ≤ Config.abiLevel ∧ s3.readVa home c va (hdrLen h) = (w, .ok image) ∧
    sha384 (overlay image 200 (List.replicate 48 0#8)) = (image.drop 200).take 48

/-- No pour of a context waits at a unit. -/
def State.noneHeld (s : State) (c : Nat) : Prop := ∀ e ∈ s.units, ∀ h ∈ e.2.queue, h.ctx ≠ c

/-- An existing unit of a class runs this pour, which names an action. -/
def State.runsPour (s : State) (unit cls action : Nat) (r : Running) : Prop :=
  unitExists unit = true ∧ unitCls unit = cls ∧ (s.unit unit).running = some r ∧ r.held.pour.action = action

/-- The pour that ran on a unit has done its work and waits to signal. -/
def State.endedOn (s' : State) (unit : Nat) (r : Running) : Prop :=
  ∃ r', (s'.unit unit).running = some r' ∧ r'.prog = .ended ∧ r'.held = r.held

/-- The little-endian number of `k` bytes that an access to `a` delivers. -/
def State.numAt (s : State) (k a : Nat) : Nat := leNat (s.peekBytes a k)

/-- Two byte ranges share no byte. -/
def rangesApart (a n b m : Nat) : Prop := a + n ≤ b ∨ b + m ≤ a

/-- No stored word has an error and no injection is armed; memory and the register store are in their canonical form. -/
def State.errorFree (s : State) : Prop :=
  s.ecc = [] ∧ s.upsets = [] ∧ (∀ die < 8, s.reg .ERR_INJECT die 0 = 0) ∧ Memory.wf s.mem = true ∧ Sparse.wf 0#64 s.regs = true

/-- No stored word has an error, and nothing of the coherent domain stands between a reader and memory. -/
def State.readable (s : State) : Prop :=
  s.ecc = [] ∧ (∀ x ∈ s.wcb, x.2.err = []) ∧ s.hcx.dir = [] ∧ s.hcx.msgs = [] ∧ s.hcx.down = none ∧ s.hcx.found = none ∧ s.upsets = []

/-- The blocks of a bucket, of 32 elements each, with an element that `p` holds of. -/
def blocksWith (blocks : Nat) (p : Nat → Bool) : Nat :=
  ((List.range blocks).filter (fun b => (List.range 32).any (fun j => p (32 * b + j)))).length

/-- The word of a child that counts at a node's UP_AT: it has arrived, and its HEAT_TAG is the node's heat (R215). -/
def Node.heard (n : Node) (child : Nat) : Option Nat :=
  ((n.words.find? (fun q => q.1 = child)).map Prod.snd).bind (fun v => if v >>> 48 = n.heat % 65536 then some v else none)

/-- Every READY condition of a referee descriptor holds: on each die with a count, the flag has reached it (R215). -/
def Ctx.meetsReady (x : Ctx) (desc : List Byte) : Prop :=
  ∀ d < 8, fieldAt desc (66 + 4 * d) 2 ≤ x.flag d (fieldAt desc (64 + 4 * d) 2 % 1024)

/-- Memory with nothing in progress: no error, no write-combining entry, nothing that a core or a system-level cache holds or a home
serves, the coherent domain up, and a legal interleave on every stack. -/
def State.memoryQuiet (s : State) : Prop :=
  s.errorFree ∧ s.wcb = [] ∧ s.hcx.slc = [] ∧ s.hcx.dir = [] ∧ s.hcx.msgs = [] ∧ s.hcx.busy = [] ∧ s.hcx.down = none ∧ s.hcx.found = none ∧
  s.hcx.fenced = false ∧ ∀ st < 16, s.stripe st ≤ 5

/-- The number of `k` bytes at a channel offset. -/
def State.chNum (s : State) (ch k off : Nat) : Nat := s.numAt k (s.channelAddr ch off)

/-- A vote record (digest, count) stands for a list of digests: no digest but its own is more frequent than half of what the count
leaves, and its own no more than half of the list and the count together (R249). -/
def standsFor (ds : List Nat) (r : Nat × Nat) : Prop :=
  2 * ds.count r.1 ≤ ds.length + r.2 ∧ ∀ x, x ≠ r.1 → 2 * ds.count x + r.2 ≤ ds.length

/-- The time, the engine and the opcode of a vector instruction's row (R152, R161). -/
def vectorRow : Instr → Option (Nat × Nat × Nat)
  | .vAdd t e => some (t, e, 0x01) | .vSub t e => some (t, e, 0x02) | .vMul t e => some (t, e, 0x03) | .vFma t e => some (t, e, 0x04)
  | .vMin t e => some (t, e, 0x05) | .vMax t e => some (t, e, 0x06) | .vAbs t e => some (t, e, 0x07) | .vNeg t e => some (t, e, 0x08)
  | .vMov t e => some (t, e, 0x09) | .vCmpeq t e => some (t, e, 0x10) | .vCmpne t e => some (t, e, 0x11) | .vCmplt t e => some (t, e, 0x12)
  | .vCmple t e => some (t, e, 0x13) | .vSel t e => some (t, e, 0x14) | .vExp2 t e => some (t, e, 0x20) | .vExp t e => some (t, e, 0x21)
  | .vLog2 t e => some (t, e, 0x22) | .vLog t e => some (t, e, 0x23) | .vRcp t e => some (t, e, 0x24) | .vSqrt t e => some (t, e, 0x25)
  | .vRsqrt t e => some (t, e, 0x26) | .vDiv t e => some (t, e, 0x27) | .vSin t e => some (t, e, 0x28) | .vCos t e => some (t, e, 0x29)
  | .vTanh t e => some (t, e, 0x2A) | .vRsum t e => some (t, e, 0x30) | .vRprod t e => some (t, e, 0x31) | .vRmax t e => some (t, e, 0x32)
  | .vRmin t e => some (t, e, 0x33) | .vRargmax t e => some (t, e, 0x34) | .vRargmin t e => some (t, e, 0x35) | .vSeta t e => some (t, e, 0x40)
  | .vAdda t e => some (t, e, 0x41) | .vLoop t e => some (t, e, 0x42) | .vSetacc t e => some (t, e, 0x43) | .vSetsr t e => some (t, e, 0x44)
  | .vTqhdr t e => some (t, e, 0x45) | .vTqmark t e => some (t, e, 0x46) | .vTqrewind t e => some (t, e, 0x47) | .vTqrel t e => some (t, e, 0x48)
  | .vEnd t e => some (t, e, 0x4F)
  | _ => none

/-- An engine runs a kernel (R147): the running pour, its words and the word it has reached, the loops around it, the cycle since launch in
which that instruction starts, what it waits for, and its transfer. -/
def State.runsKernel (s : State) (engine : Nat) (r : Running) (ws : List Nat) (pc : Nat) (loops : List LoopSt) (used : Nat) (wait : VWait)
    (x : Xfer) : Prop :=
  engine < 384 ∧ (s.unit (veUnit engine)).running = some r ∧ r.held.pour.action = 1 ∧ r.prog = .kernel ws pc loops used wait x

/-- The engine's kernel has come to a word that starts in a cycle: it waits as the start of that instruction asks (R165, R166, R171), or its
transfer begins. -/
def State.kernelAt (s' : State) (engine : Nat) (r : Running) (ws : List Nat) (pc : Nat) (loops : List LoopSt) (used : Nat) : Prop :=
  ∃ r' wait x, (s'.unit (veUnit engine)).running = some r' ∧ r'.held = r.held ∧ r'.launched = r.launched ∧ r'.arith = r.arith ∧
    x.upTo = used ∧ r'.prog = .kernel ws pc loops used wait x

/-- The row of a vector instruction finds that instruction at its kernel's word with its time over: the transfer has moved its bytes, its
cycles lie within the budget and have passed, and no stored word has an error (R149, R151, R163, R164). -/
def State.instrDue (s : State) (i : Instr) (t engine : Nat) (r : Running) (ws : List Nat) (pc : Nat) (loops : List LoopSt) (used cycles : Nat) :
    Prop :=
  let u := s.advance t
  let l := laneAt engine r ws pc
  vectorRow i = some (t, engine, l.i.op) ∧ s.upsets = [] ∧ used + cycles ≤ kBudget r.held.bytes ∧
  u.passed (engine / 48) r.arith (used + cycles) = true ∧
  ∃ wait x, s.runsKernel engine r ws pc loops used wait x ∧ (wait = .none ∨ wait = .share) ∧
    let y := u.moveTo engine r (u.ran (engine / 48) r.arith) x
    y.over = true ∧ cycles = u.laneCycles l (y.upTo - used)

/-- Element `k` that a read of tile rows takes: the rows of the current tile from the read position on, one after another (R123, R166). -/
def State.rowElem (s : State) (e k : Nat) : SElem :=
  match (s.eng e).tile with
  | none => exactElem vZero
  | some q =>
    let dq := s.queue (.tileData e)
    let bs := (countFrom (dq.rd + k / q.cols * q.rowEntries) q.rowEntries).flatMap (fun p => match dq.at? p with | some x => x.bytes | none => [])
    let c := k % q.cols
    let b := leNat bs >>> (c * fmtWidth q.f) % 2 ^ fmtWidth q.f
    let row := if q.scaled || fmtWidth q.f < 8 then ceilDiv q.cols 32 * 32 else q.cols
    if q.scaled then scaledElem q.f (fieldAt bs (elemBytes q.f row + c / 32) 1) b else plainElem q.f b

/-- Element `k` of a count-mode source (R154, R166, R170): a vector register, working store at an address register, the immediate, tile rows,
or the accumulator tile from the pointer's position on. -/
def State.countElem (s : State) (l : Lane) (y k : Nat) : SElem :=
  match selOf y with
  | some (.v n) => plainElem l.f (l.vreg s n k)
  | some (.w n) => plainElem l.mf (s.numAt (fmtWidth l.mf / 8) (wsAt l.die (l.wAddr s n + fmtWidth l.mf / 8 * k)))
  | some .imm => immIn l.f (l.kmode s k) l.i.imm
  | some .tq => s.rowElem l.e k
  | some .acc => (s.eng l.e).accElem ((s.eng l.e).accPos + k)
  | _ => exactElem vZero

/-- The result in the working type of an instruction that is no MOV and no reduction: sources converted first, then the operation, rounded
once, the selection or the comparison (R155, R160, R161). -/
def Lane.outcome (l : Lane) (mode : RMode) (a b c : SElem) (cond : Bool) : Nat :=
  let v (e : SElem) : Val := valOf l.f (e.to l.f mode).bits
  match l.cls with
  | .sel => ((if cond then a else b).to l.f mode).bits
  | .cmp => b2n (vcmp l.i.op (v a) (v b))
  | _ => (vop l.i.op l.f mode (v a) (v b) (v c)).bits

/-- What a count-mode instruction that is no reduction gives element `k` of its destination: a MOV converts once, anything else has its
working type converted to the destination's format (R155); into the accumulator file to nearest-even (R170). -/
def State.countValue (s : State) (l : Lane) (k : Nat) : Nat :=
  let el (y : Nat) : SElem := s.countElem l y k
  let df := s.opFmt l l.i.dst
  let cond : Bool := match selOf l.i.s2 with | some (.k n) => (s.eng l.e).mask n k | _ => false
  let r := l.outcome (l.kmode s k) (el l.i.s0) (el l.i.s1) (el l.i.s2) cond
  if l.cls = .move then ((el l.i.s0).to df (l.dstMode s k)).bits
  else if df = l.f then r
  else (roundTo df (l.dstMode s k) (valOf l.f r)).bits

/-- An element of the accumulator pointer's tile: its two parts (R109). -/
def State.accCell (s : State) (e p : Nat) : Nat × Nat :=
  match (s.eng e).accTile with | some q => q.elems.getD p (0, 0) | none => (0, 0)

/-- The element after a write of `v` through the pointer (R170). -/
def EngSt.accPut (x : EngSt) (old : Nat × Nat) (v : Nat) : Nat × Nat :=
  match accPart x.accImm with | 1 => (v, old.2) | 2 => (old.1, v) | _ => (v, 0)

/-- Every tile of an engine has the elements of its shape, each part within its format. -/
def EngSt.tilesOk (x : EngSt) : Prop :=
  ∀ q ∈ x.tiles, q.elems.length = shapeM q.shape * shapeN q.shape ∧
    ∀ b ∈ q.elems, b.1 < 2 ^ fmtWidth (accFmt q.fmt) ∧ b.2 < 2 ^ fmtWidth (accFmt q.fmt)

/-- The bits of the element at a position of a slot (R156, R158). -/
def State.slotBits (s : State) (l : Lane) (sl : Slot) (o : Nat) : Nat :=
  let bit := o * fmtWidth sl.f
  s.numAt ((bit % 8 + fmtWidth sl.f + 7) / 8) (wsAt l.die (sl.off + bit / 8)) >>> (bit % 8) % 2 ^ fmtWidth sl.f

/-- The element of a slot at coordinates. -/
def State.slotValue (s : State) (l : Lane) (sl : Slot) (c : List Nat) : SElem :=
  if sl.acc then (s.eng l.e).accElem (sl.tilePos c)
  else
    let b := s.slotBits l sl (sl.pos c)
    if sl.scaled then scaledElem sl.f (s.numAt 1 (wsAt l.die (sl.soff + sl.pos c / 32))) b else plainElem sl.f b

/-- A source of a tensor-mode instruction at position `k` of the space (R157). -/
def State.tensorOperand (s : State) (l : Lane) (d : Tensor) (sp : List Nat) (mode : RMode) (k y : Nat) : SElem :=
  match d.slot y with | some sl => s.slotValue l sl (coords sp k) | none => immIn l.f mode l.i.imm

/-- The mask register and the mask slot both let position `k` take part (R160). -/
def State.positionOn (s : State) (l : Lane) (d : Tensor) (sp : List Nat) (k : Nat) : Bool :=
  (s.eng l.e).mask l.i.mask k &&
  (match d.maskSlot, d.slots.getD d.maskSlot none with
   | 0, _ => true
   | _, none => true
   | _, some sl => s.slotBits l sl (sl.pos (coords sp k)) != 0)

/-- What a tensor-mode instruction that is no reduction gives position `k`: a MOV's source itself, or the result in the working type. -/
def State.tensorValue (s : State) (l : Lane) (d : Tensor) (sp : List Nat) (mode : RMode) (k : Nat) : SElem :=
  let el (y : Nat) : SElem := s.tensorOperand l d sp mode k y
  let cond : Bool := match selOf l.i.s2, d.slot l.i.s2 with
    | some (.k m), _ => (s.eng l.e).mask m k
    | _, some sl => s.slotBits l sl (sl.pos (coords sp k)) != 0
    | _, none => false
  if l.cls = .move then el l.i.s0 else plainElem l.f (l.outcome mode (el l.i.s0) (el l.i.s1) (el l.i.s2) cond)

/-- The position of coordinates in a space. -/
def positionOf (sp c : List Nat) : Nat := (c.zip (List.range 5)).foldl (fun k (x, m) => k + x * volume (sp.take m)) 0

/-- The elements of the line that a tensor reduction reduces into the coordinates `c` of its destination, converted to the working type; none
where the masks leave one out (R135, R144, R160). -/
def State.tensorRow (s : State) (l : Lane) (d : Tensor) (sp : List Nat) (mode : RMode) (c : List Nat) : List (Option (Val × Nat)) :=
  (List.range (sp.getD d.rdim 1)).map (fun j =>
    let k := positionOf sp (c.set d.rdim j)
    if s.positionOn l d sp k then some (valOf l.f ((s.tensorOperand l d sp mode k l.i.s0).to l.f mode).bits, j) else none)

/-- The bytes of a slot's element at coordinates, with its scale byte; `whole` takes in its whole block. -/
def Slot.bytesOf (sl : Slot) (l : Lane) (whole : Bool) (c : List Nat) : List (Nat × Nat) :=
  if sl.acc then []
  else
    let o := sl.pos c
    let bit := o * fmtWidth sl.f
    (if whole && sl.scaled then [(wsAt l.die (sl.off + o / 32 * (4 * fmtWidth sl.f)), 4 * fmtWidth sl.f)]
     else [(wsAt l.die (sl.off + bit / 8), (bit % 8 + fmtWidth sl.f + 7) / 8)]) ++
    (if sl.scaled then [(wsAt l.die (sl.soff + o / 32), 1)] else [])

/-- The stores are in their one form, and each part is there in its number. -/
def State.canonical (s : State) : Prop :=
  Memory.wf s.mem = true ∧ Sparse.wf 0#64 s.regs = true ∧ Sparse.wf 0#8 s.flash = true ∧ Sparse.wf 0 s.routes = true ∧
  Sparse.wf 0 s.bias = true ∧ s.ctxs.length = 16 ∧ s.rings.length = 17 ∧ s.tc.length = 8 ∧ s.pwr.length = 8 ∧ s.ports.length = 16

end Sys2Proof.Machine
end

