-- ==== Sys2Proof/Certificates/Slice0/Obligations.lean ====
section
/-!
DEFINITION. The statements about this block, each from the rules of the spec that its entry in OBLIGATIONS.json cites.
-/
open Sys2Proof Sys2Proof.Machine

/-! The queue of commands, and reset. -/

/-- A step takes the command at the front of the queue and carries it out with the rest of the queue in place. -/
def Obligations.StepCarriesOutTheFrontCommand : Prop :=
  ∀ (c : Instr) (rest : List Instr) (s : State),
    step { s with pending := c :: rest } = exec c { s with pending := rest }

/-- With no command waiting a step lets one nanosecond of AON pass, and of FT where FT counts; it leaves the queue empty and the flash
and the fuses as they are. That the block idles so is the model's choice (log 9). -/
def Obligations.EmptyQueueStepLetsTimePass : Prop :=
  ∀ s : State, s.pending = [] → ∃ s', step s = .next s' ∧ s'.pending = [] ∧ s'.aon = s.aon + 1 ∧
    s'.ft = (if s.pins.ftHeld then s.ft else s.ft + 1) ∧ s'.flash = s.flash ∧ s'.svnMin = s.svnMin ∧ s'.revoked = s.revoked

/-- After a package reset every register reads the value of its table's Reset column (R11): in the reset state, and in every state that a
package reset leaves, but for PWR_TRIP, which is kept. Left out are the registers whose row says "fused" or gives a value of the die's own
(`dieValued`). A row that says "boot" reads 0 until its stage loads it, which is the model's choice (log 1); of these PWR_BUDGET
reads C / 8 in mW, as R410 states. -/
def Obligations.ResetGivesEveryRegisterItsValue : Prop :=
  ∀ (r : Reg) (die slot : Nat), die < regWindows r → slot < (regInfo r).slots → r ∉ dieValued →
    let value := if r = .PWR_BUDGET then 525000 else if (regInfo r).access = .wo then 0 else (regInfo r).reset
    State.reset.view ⟨r, die, slot⟩ = value ∧
    ∀ s s' : State, s'.clearedBy s → s'.view ⟨r, die, slot⟩ = if r = .PWR_TRIP then s'.reg .PWR_TRIP 0 0 else value

/-- The reset state: no command waits, boot has not begun, no context exists, no unit runs, nothing is stored, and the stores are in
their canonical form, each part in its number. -/
def Obligations.ResetIsAtRest : Prop :=
  State.reset.pending = [] ∧ State.reset.boot.st = .reset ∧ State.reset.pins.pkgReset = true ∧ State.reset.created = [] ∧
  State.reset.units = [] ∧ State.reset.ft = 0 ∧ State.reset.ftu.lock = .free ∧ State.reset.hcx.running = false ∧
  (∀ p < 16, (State.reset.port p).link = .disabled) ∧ State.reset.mem = [] ∧ State.reset.canonical

/-! Registers (R7 to R9). -/

/-- Every register has an address of its own in every window that shows it, 8-byte aligned (R7): the address names that register, that
window and that slot, and nothing else. -/
def Obligations.RegisterMapIsUnambiguous : Prop :=
  ∀ (r : Reg) (die slot : Nat), die < regWindows r → slot < (regInfo r).slots →
    regAddr r die slot % 8 = 0 ∧ isRegAddr (regAddr r die slot) = true ∧ regAt (regAddr r die slot) = some ⟨r, die, slot⟩

/-- A register access that is not an aligned 64-bit access completes with an access fault and changes nothing else (R7); an aligned one
at an offset that no register has reads 0 and ignores writes, and does not fault (R8).

A write to an RW register with no rule of its own sets its writable bits and nothing else; what the register then reads is what
was written. A write to an RO or an RC register is ignored. A write of 1 to the W1C bit of a counter or of a queue's status word clears
what that bit stands for, and the ERR and UNDERRUN bits of MDP_STATUS clear so; a bit written 0 has no effect. A WO or W1S register
reads as its code says and acts as its row of the table does: the two writes are one (R9). Of the counters, those of the loop-backs are
left out here; no loss of an item lies in the clock of the write (log 100).

A read returns the register's value; one of an RC register then clears it, and any other leaves the state as it is (R9). Not here:
MDP_H_DATA, and ERR_FQ_REC0 whose read checks the stored record (R398). -/
def Obligations.RegistersReadAndWriteByTheirCode : Prop :=
  ((∀ (s : State) (t a size v : Nat), isRegAddr a = true → a % 8 ≠ 0 ∨ size ≠ 8 →
     exec (.registerWrite t a size v) s = .next { s.advance t with resp := .accessFault } ∧
     exec (.registerRead t a size) s = .next { s.advance t with resp := .accessFault }) ∧
   (∀ (s : State) (t a v : Nat), isRegAddr a = true → a % 8 = 0 → regAt a = none →
     exec (.registerWrite t a 8 v) s = .next { s.advance t with resp := .none } ∧
     exec (.registerRead t a 8) s = .next { s.advance t with resp := .value 0 })) ∧
  ((∀ (s : State) (r : Reg) (t die slot v : Nat), Sparse.wf 0#64 s.regs = true → r ∈ plainRegs → die < regWindows r →
      slot < (regInfo r).slots →
      ∃ s', exec (.registerWrite t (regAddr r die slot) 8 v) s = .next s' ∧
        s'.view ⟨r, die, slot⟩ = (v % 2 ^ 64) &&& (regInfo r).mask ∧
        (∀ a, a ≠ regHome r die slot → Sparse.at? 0#64 s'.regs a = Sparse.at? 0#64 s.regs a) ∧
        { s' with regs := s.regs, resp := s.resp } = s.advance t) ∧
   (∀ (s : State) (r : Reg) (t die slot v : Nat), die < regWindows r → slot < (regInfo r).slots → readOnly r slot = true →
      exec (.registerWrite t (regAddr r die slot) 8 v) s = .next { s.advance t with resp := .none }) ∧
   (∀ (s : State) (r : Reg) (t die slot v : Nat), Sparse.wf 0#64 s.regs = true → die < regWindows r → slot < (regInfo r).slots →
      (regInfo r).access = .ctr → r ≠ .DFT_LB_BITS → r ≠ .DFT_LB_ERRORS →
      ∃ s', exec (.registerWrite t (regAddr r die slot) 8 v) s = .next s' ∧
        s'.view ⟨r, die, slot⟩ = (if bitOf v 63 then 0 else s.view ⟨r, die, slot⟩) ∧
        (∀ a, a ≠ regHome r die slot → Sparse.at? 0#64 s'.regs a = Sparse.at? 0#64 s.regs a) ∧
        { s' with regs := s.regs, resp := s.resp } = s.advance t) ∧
   (∀ (s : State) (r : Reg) (t die slot v : Nat), die < regWindows r → slot < (regInfo r).slots → (regInfo r).access = .st →
      r ≠ .MDP_STATUS → (∀ q ∈ queueOf r die slot, (s.queue q).lostFt ≠ some (s.advance t).ft) →
      ∃ s', exec (.registerWrite t (regAddr r die slot) 8 v) s = .next s' ∧
        (∀ q, s'.queue q = if bitOf v 63 ∧ q ∈ queueOf r die slot then
          { s.queue q with overrun := false, firstLost := (s.queue q).firstLost % 2 ^ 63, lastLost := (s.queue q).lastLost % 2 ^ 63 }
          else s.queue q) ∧
        { s' with queues := s.queues, resp := s.resp } = s.advance t) ∧
   (∀ (s : State) (t v : Nat), exec (.registerWrite t (regAddr .MDP_STATUS 0 0) 8 v) s = .next { s.advance t with
      resp := .none, mgmt := { s.mgmt with err := s.mgmt.err && !bitOf v 1, underrun := s.mgmt.underrun && !bitOf v 2 } }) ∧
   (∀ (s : State) (t v : Nat), v < 2 ^ 64 → let u : State := { s with resp := .none }
      exec (.registerWrite t (regAddr .SEC_HCX_RESET 0 0) 8 v) s = exec (.secHcxReset t v) u ∧
      exec (.registerWrite t (regAddr .SEC_EXTEND_CTRL 0 0) 8 v) s = exec (.secExtendCtrlWrite t v) u ∧
      exec (.registerWrite t (regAddr .SEC_ATTEST_CTRL 0 0) 8 v) s = exec (.attestGo t v) u ∧
      exec (.registerWrite t (regAddr .SEC_IMAGE_CTRL 0 0) 8 v) s = exec (.imageStart t v) u ∧
      (∀ die < 8, exec (.registerWrite t (regAddr .ERR_FQ_RELEASE die 0) 8 v) s = exec (.errFqRelease t die v) u) ∧
      (∀ port < 16, exec (.registerWrite t (regAddr .PORT_ETH_DOORBELL (port / 2) (port % 2)) 8 v) s = exec (.portEthDoorbell t port v) u) ∧
      (∀ c < 16, exec (.registerWrite t (regAddr .LADD_REF_CTRL 0 c) 8 v) s = exec (.laddRefCtrlWrite t c v) u))) ∧
  (∀ (s : State) (r : Reg) (t die slot : Nat), die < regWindows r → slot < (regInfo r).slots → r ≠ .MDP_H_DATA → r ≠ .ERR_FQ_REC0 →
     let u := s.advance t
     exec (.registerRead t (regAddr r die slot) 8) s =
       .next { (if (regInfo r).access = .rc then u.setReg r die slot 0 else u) with resp := .value (u.view ⟨r, die, slot⟩) })

/-! Counters, fault records and error injection (chapter 17). -/

/-- n events set COUNT to min(COUNT + n, 0xFFFF_FFFF_FFFF), and SAT is set exactly when COUNT reaches that value (R461). The counters of
the fault collector itself are left out, because a saturation event counts in them (R462).

A write of 1 to SAT clears SAT and COUNT together; a write with bit 63 at 0 is ignored; no other register changes (R461). -/
def Obligations.CountersCountSaturateAndClear : Prop :=
  (∀ (s : State) (r : Reg) (die slot n : Nat), Sparse.wf 0#64 s.regs = true → (regInfo r).access = .ctr →
     die < regWindows r → slot < (regInfo r).slots → r ∉ [.ERR_RAISED, .ERR_SAT_EVENTS, .ERR_FQ_LOST] →
     counterWord (s.reg r die slot) →
     (s.count r die slot n).reg r die slot % 2 ^ 48 = min (s.reg r die slot % 2 ^ 48 + n) 0xFFFFFFFFFFFF ∧
     counterWord ((s.count r die slot n).reg r die slot)) ∧
  (∀ (s : State) (r : Reg) (t die slot v : Nat), Sparse.wf 0#64 s.regs = true → (regInfo r).access = .ctr → die < regWindows r →
     slot < (regInfo r).slots →
     ∃ s', exec (.counterClear t (regAddr r die slot) v) s = .next s' ∧
       s'.reg r die slot = (if bitOf v 63 then 0 else s.reg r die slot) ∧
       (∀ a, a ≠ regHome r die slot → Sparse.at? 0#64 s'.regs a = Sparse.at? 0#64 s.regs a) ∧
       { s' with regs := s.regs } = s.advance t)

/-- A fault record that no context answers for takes the next SEQ of its die; it is stored with the fields of R454 in the order given, FT that of the die,
when the queue holds fewer than 256 records, and is otherwise lost: OVERRUN, the lost-item words and ERR_FQ_LOST record it, and the
stored records stay (R456, R458). Memory stays as it is.

Of the records of one MESH edge the one of the least unit id is filed first, and the others are filed after it as if it had come before
them (R393; no row that releases records of the same FT waits, which would act first, R387); one whose code is reserved is never made, and nothing happens (R12, R369). -/
def Obligations.FaultRecordIsStoredOrLost : Prop :=
  (∀ (s : State) (t : Nat) (r : FaultIn), Sparse.wf 0#64 s.regs = true → isStatus r.code = true →
    ¬(r.severity = 2 ∧ (s.ctx r.ctx).created = true) → (∀ d, s.noRelease t (.faultQueue d)) →
    (∀ c ∈ [Reg.ERR_RAISED, Reg.ERR_FQ_LOST], s.reg c (faultDie r.unit) 0 + 1 < countMax) → s.reg .ERR_INJECT (faultDie r.unit) 0 = 0 →
    ∃ s', exec (.faultRecordArrive t [r]) s = .next s' ∧ s'.mem = s.mem ∧
      let d := faultDie r.unit
      let old := s.queue (.faultQueue d)
      let new := s'.queue (.faultQueue d)
      let seq := s.reg .ERR_FQ_NEXT_SEQ d 0
      s'.reg .ERR_FQ_NEXT_SEQ d 0 = (seq + 1) % 65536 ∧ s'.reg .ERR_RAISED d 0 = s.reg .ERR_RAISED d 0 + 1 ∧
      if old.entries.length < 256 then
        new.entries = old.entries ++ [{
          bytes := leBytes 8 (s'.dieFt d) ++ leBytes 2 r.code ++ leBytes 2 r.unit ++ leBytes 1 r.ctx ++ leBytes 1 r.severity ++ leBytes 2 seq ++
            leBytes 8 r.address ++ leBytes 8 r.detail
          valid := 2 ^ 32 - 1, last := true }] ∧ new.overrun = old.overrun
      else
        new.entries = old.entries ∧ new.overrun = true ∧ new.lastLost = 2 ^ 63 + 2 ^ 32 * r.ctx + 2 ^ 16 * r.unit + r.code ∧
        new.firstLost = (if bitOf old.firstLost 63 then old.firstLost else new.lastLost) ∧
        s'.reg .ERR_FQ_LOST d 0 = s.reg .ERR_FQ_LOST d 0 + 1) ∧
  (∀ (s : State) (t : Nat) (r : FaultIn) (before after : List FaultIn), isStatus r.code = true → (∀ x ∈ before, r.unit < x.unit) →
    (∀ x ∈ after, r.unit ≤ x.unit) → (∀ d, s.noRelease t (.faultQueue d)) →
    ∃ u, exec (.faultRecordArrive t [r]) s = .next u ∧
      exec (.faultRecordArrive t (before ++ r :: after)) s = exec (.faultRecordArrive t (before ++ after)) u) ∧
  (∀ (s : State) (t : Nat) (r : FaultIn), isStatus r.code = false → (∀ d, s.noRelease t (.faultQueue d)) → exec (.faultRecordArrive t [r]) s = .next (s.advance t))

/-- ERR_FQ_REC0 to ERR_FQ_REC3 return the four words of the oldest stored record, and 0 when the queue is empty, and a read does not move
the queue while the record's words have no stored error. A write of n to ERR_FQ_RELEASE releases min(n, HELD) records from the oldest, so
that the read and release positions move together (R457); no other queue and no register changes. -/
def Obligations.FaultQueueShowsAndReleasesTheOldest : Prop :=
  (∀ (s : State) (t die k : Nat) (r : Reg), die < 8 → [Reg.ERR_FQ_REC0, .ERR_FQ_REC1, .ERR_FQ_REC2, .ERR_FQ_REC3][k]? = some r →
    ((s.queue (.faultQueue die)).entries = [] → exec (.registerRead t (regAddr r die 0) 8) s = .next { s.advance t with resp := .value 0 }) ∧
    (∀ (e : QEntry) (rest : List QEntry), (s.queue (.faultQueue die)).entries = e :: rest → e.err = 0 → e.errs = [] →
      exec (.registerRead t (regAddr r die 0) 8) s = .next { s.advance t with resp := .value (fieldAt e.bytes (8 * k) 8) })) ∧
  (∀ (s : State) (t die v : Nat), die < 8 → v < 512 → (s.queue (.faultQueue die)).rd = (s.queue (.faultQueue die)).rp →
    (s.queue (.faultQueue die)).entries.length = (s.queue (.faultQueue die)).wr - (s.queue (.faultQueue die)).rp →
    ∃ s', exec (.errFqRelease t die v) s = .next s' ∧
      let old := s.queue (.faultQueue die)
      let new := s'.queue (.faultQueue die)
      new.entries = old.entries.drop v ∧ new.rp = old.rp + min v old.entries.length ∧ new.rd = new.rp ∧ new.wr = old.wr ∧
      (∀ q, q ≠ .faultQueue die → s'.queue q = s.queue q) ∧ { s' with queues := s.queues } = s.advance t)

/-! Runner queues (chapter 14). -/

/-- No operation on a runner queue takes its positions out of the order RP ≤ MK ≤ RD ≤ WR, makes a flag optimistic or holds more than
the depth of the instance (R386, R389, R392, R395); every row of the queue completes, and no other queue changes but a fault queue,
which takes the record of a counter that saturates (R462). No stored entry is uncorrectable: what a read of one ends is said below. -/
def Obligations.QueuePositionsStayInOrder : Prop :=
  ∀ (s : State) (q : QueueId) (t n v p : Nat) (data : List Byte) (last side : Bool) (i : Instr), queueExists q = true →
    (s.queue q).Ordered (queueDepth q) → (∀ e ∈ (s.queue q).entries, e.bad = false) →
    i ∈ [.queueWrite t q data last, .queueRead t q n, .queueMark t q, .queueRewind t q, .queueRelease t q p, .queuePositionSync t q side,
      .overrunClear t q v] →
    ∃ s', exec i s = .next s' ∧ (s'.queue q).Ordered (queueDepth q) ∧
      ∀ q', q' ≠ q → (∀ die, q' ≠ .faultQueue die) → s'.queue q' = s.queue q'

/-- The read side moves its positions as R395 says: READ n delivers the entries from RD and moves RD past them, once they have been written and,
of each packet it begins, min(THRESH, L) entries have (R397), and waits until then; MARK sets MK to RD,
REWIND returns RD to MK, and RELEASE p frees the entries before p and lifts MK to it; nothing else changes but time, what the
reader was given, and, before the entries of a tile queue go, the account of a drain that waited for them (`beforeRelease`, R124). The
entries read have no stored error (R398); a read that meets an uncorrectable entry delivers nothing (R398).

A write of bytes that fill whole entries of a queue with room stores them in order, each with every valid bit and LAST on the last
one of a transfer alone; a waiting writer that sees FULL stores nothing; a posted entry that finds the queue full is lost, sets OVERRUN
and leaves the stored entries as they are (R390 to R392).

In a queue of one clock a release that waits for the same FT acts before the write, which then finds its room (R387; rows of one FT are one
clock edge: log 100).

A position crosses to the other side, and OVERRUN clears with the VALID bits of both lost-item words; after a loss in the same clock
OVERRUN stays set and the words keep what was lost in it (R388, R394). -/
def Obligations.QueuesReadWriteAndLose : Prop :=
  (∀ (s : State) (q : QueueId) (t n p : Nat), queueExists q = true → (s.queue q).Ordered (queueDepth q) →
     (s.queue q).serves q n = true → (∀ e ∈ (s.queue q).entries, e.err = 0 ∧ e.errs = []) →
     (exec (.queueRead t q n) s = .next
       { (s.advance t).setQueue q (fun x => { x with rd := x.rd + n }) with
         resp := .bytes ((((s.queue q).entries.drop ((s.queue q).rd - (s.queue q).rp)).take n).flatMap QEntry.bytes) }) ∧
     exec (.queueMark t q) s = .next ((s.advance t).setQueue q (fun x => { x with mark := x.rd })) ∧
     exec (.queueRewind t q) s = .next ((s.advance t).setQueue q (fun x => { x with rd := x.mark })) ∧
     ((s.queue q).rp < p → p ≤ (s.queue q).rd → exec (.queueRelease t q p) s = .next (((s.advance t).beforeRelease q).setQueue q (fun x =>
       { x with
         entries := x.entries.drop (p - x.rp), rp := p, mark := max x.mark p, rpSeen := if queueSync q then p else x.rpSeen
         packets := x.packets.filter (fun k => p ≤ k.1) }))) ∧
     exec (.queueRelease t q (s.queue q).rp) s = .next (((s.advance t).beforeRelease q).setQueue q id)) ∧
  (∀ (s : State) (q : QueueId) (t n : Nat), queueExists q = true →
     ((s.queue q).serves q n = false → exec (.queueRead t q n) s = .next { s.advance t with resp := .waits }) ∧
     ((s.queue q).wrSeen < (s.queue q).rd + n → (s.queue q).serves q n = false) ∧
     (∀ p ∈ (s.queue q).packets, (s.queue q).rd ≤ p.1 → p.1 < (s.queue q).rd + n → (s.queue q).wrSeen < p.1 + min (queueThresh q p.2) p.2 →
       (s.queue q).serves q n = false) ∧
     ((s.queue q).Ordered (queueDepth q) → (s.queue q).serves q n = true →
       ((((s.queue q).entries.drop ((s.queue q).rd - (s.queue q).rp)).take n).any QEntry.bad) = true →
       ∃ s', exec (.queueRead t q n) s = .next s' ∧ s'.resp = .failed stMemUncorrectable)) ∧
  ((∀ (s : State) (q : QueueId) (t : Nat) (data : List Byte) (last : Bool), queueExists q = true → (s.queue q).Ordered (queueDepth q) →
     (s.queue q).packer = [] → data.length = queueWidth q → (s.queue q).wr - (s.queue q).rpSeen < queueDepth q →
     s.noRelease t q →
     ∃ s', exec (.queueWrite t q data last) s = .next s' ∧
       (s'.queue q).entries = (s.queue q).entries ++ [{ bytes := data, valid := 2 ^ queueWidth q - 1, last := last }] ∧
       (s'.queue q).wr = (s.queue q).wr + 1 ∧ (s'.queue q).rd = (s.queue q).rd ∧ s'.mem = s.mem ∧ s'.regs = s.regs) ∧
   (∀ (s : State) (q : QueueId) (t : Nat) (data : List Byte) (last : Bool), queueExists q = true → (s.queue q).Ordered (queueDepth q) →
     (s.queue q).packer = [] → data.length = queueWidth q → (s.queue q).wr - (s.queue q).rp = queueDepth q →
     s.noRelease t q →
     ∃ s', exec (.queueWrite t q data last) s = .next s' ∧ (s'.queue q).entries = (s.queue q).entries ∧
       (s'.queue q).wr = (s.queue q).wr ∧ (s'.queue q).overrun = (queuePosts q || (s.queue q).overrun)) ∧
   (∀ (s : State) (q : QueueId) (t p : Nat) (data : List Byte) (last : Bool), queueExists q = true → queueSync q = true →
     (s.queue q).Ordered (queueDepth q) → (s.queue q).packer = [] → data.length = queueWidth q → (s.queue q).wr - (s.queue q).rp = queueDepth q →
     s.pending = [.queueRelease t q p] → (s.queue q).rp < p → p ≤ (s.queue q).rd →
     ∃ s', exec (.queueWrite t q data last) s = .next s' ∧ (s'.queue q).rp = p ∧
       (s'.queue q).entries = (s.queue q).entries.drop (p - (s.queue q).rp) ++ [{ bytes := data, valid := 2 ^ queueWidth q - 1, last := last }])) ∧
  (∀ (s : State) (q : QueueId) (t v : Nat), queueExists q = true → let lost := (s.queue q).lostFt = some (s.advance t).ft
     exec (.queuePositionSync t q true) s = .next ((s.advance t).setQueue q (fun x => { x with wrSeen := x.wr })) ∧
     exec (.queuePositionSync t q false) s = .next ((s.advance t).setQueue q (fun x => { x with rpSeen := x.rp })) ∧
     exec (.overrunClear t q v) s = .next (if bitOf v 63 then (s.advance t).setQueue q (fun x =>
       if lost then { x with firstLost := x.lostFirst }
       else { x with overrun := false, firstLost := x.firstLost % 2 ^ 63, lastLost := x.lastLost % 2 ^ 63 }) else s.advance t))

/-! Resets and pins (chapter 16). -/

/-- Power-on, PKG_RESET_N for at least 1,000 ns, loss of REFCLK or of PLL lock, and a lasting input out of range clear the package
(R401, R407, R427, R428); PWR_TRIP keeps its value at PKG_RESET_N, records cause 2 at a loss of clock and is cleared by power-on;
the flash keeps its contents when no image is being programmed.

A PKG_RESET_N pulse below 200 ns is ignored; a pulse of 200 ns to less than 1,000 ns, and an HCX_RESET_N assertion below 1,000 ns,
are ones that the board must not drive and for which the spec states no effect: the model stops (R427). Every other command completes in
every state. -/
def Obligations.PackageResetsClearThePackage : Prop :=
  ((∀ (s : State) (t r k : Nat), ∃ s', exec (.powerOn t r k) s = .next s' ∧ s'.clearedBy (s.advanceAon t) ∧
     s'.reg .PWR_TRIP 0 0 = 0 ∧ s'.pins.powered = true ∧ s'.pins.railsAt = r ∧ s'.pins.refclkAt = k ∧
     (s.sec.img ≠ .programming → s'.flash = s.flash)) ∧
   (∀ (s : State) (t w : Nat), s.pinsLive = true → 1000 ≤ w → ∃ s', exec (.pkgResetNAssert t w) s = .next s' ∧
     s'.clearedBy (s.advanceAon t) ∧ s'.reg .PWR_TRIP 0 0 = s.reg .PWR_TRIP 0 0 ∧ s'.pins.pkgReset = true ∧
     (s.sec.img ≠ .programming → s'.flash = s.flash)) ∧
   (∀ (s : State) (t stopped : Nat) (pll : Bool), s.pins.powered = true → 1000 < stopped ∨ pll = true →
     ∃ s', exec (.refclkLoss t stopped pll) s = .next s' ∧ s'.clearedBy (s.advanceAon t) ∧ s'.reg .PWR_TRIP 0 0 = 2 ∧
       s'.pins.refclk = (s.pins.refclk && !decide (1000 < stopped))) ∧
   (∀ (s : State) (t mv lasting : Nat), mv < 32000 ∨ 40000 < mv → 10000 < lasting →
     ∃ s', exec (.inputOutOfRange t mv lasting) s = .next s' ∧ s'.clearedBy (s.advanceAon t) ∧ s'.pins.powered = false)) ∧
  (∀ (s : State) (t w : Nat), s.pinsLive = true →
     (w < 200 → exec (.pkgResetNAssert t w) s = .next (s.advanceAon t)) ∧
     (200 ≤ w → w < 1000 → exec (.pkgResetNAssert t w) s = .fault .forbiddenPulse) ∧
     (w < 1000 → exec (.hcxResetNAssert t w) s = .fault .forbiddenPulse)) ∧
  (∀ (s : State) (i : Instr), (∀ t w, i ≠ .pkgResetNAssert t w ∧ i ≠ .hcxResetNAssert t w) → ∃ s', exec i s = .next s')

/-- The other pins: deassertion of PKG_RESET_N lets FT start from 0, releases D0 and samples DBG_REQ_N and the straps (R35, R42, R427, R449); REFCLK's return
starts its presence time (R407); TRST_N resets the test access port only (R427); VIOREF (R472); HCX_RESET_N lets the cores run once
nothing else holds them (R429); the hold-off of a trip ends 1,000,000,000 ns after it (R425).

While the package has its input supply and VIOREF, BOOT_DONE is high from the end of stage 0x09 on, in a hold from stage 0x0A too;
BOOT_HOLD_N is low in BOOT_HOLD and while PKG_RESET_N is asserted; THERMTRIP_N is low from a trip on; PWR_ALERT_N is low while the level of
a die is above 0; without either, all are high impedance (R413, R425, R427, R472).

ERR_INJECT is written only with the debug level above 0, and holds its TARGET, KIND, ARM and INDEX (R450). -/
def Obligations.PinsAct : Prop :=
  (∀ (s : State) (t : Nat), let u := s.advanceAon t
     (∀ (dbg : Bool) (straps : Nat), s.pinsLive = true → s.pins.pkgReset = true → exec (.pkgResetNDeassert t dbg straps) s = .next
       ({ u with ft := 0, boot := { u.boot with dbgReq := dbg },
                 pins := { u.pins with pkgReset := false, straps := straps % 4, deassertAt := u.aon, ftHeld := false } }.setReg
         .DIE_STATUS 0 0 1)) ∧
     (s.pins.refclk = false → exec (.refclkRestored t) s = .next { u with pins := { u.pins with refclk := true, refclkAt := u.aon } }) ∧
     (s.pinsLive = true → exec (.trstNAssert t) s = .next { u with sec := { u.sec with tapReset := true } }) ∧
     exec (.viorefLow t) s = .next { u with pins := { u.pins with vioOk := false } } ∧
     exec (.viorefRestored t) s = .next { u with pins := { u.pins with vioOk := true } } ∧
     (s.pinsLive = true → s.pins.hcxReset = true → s.boot.st = .done → s.boot.busy = false → exec (.hcxResetNDeassert t) s = .next
       { u with pins := { u.pins with hcxReset := false }, hcx := { u.hcx with running := true } }) ∧
     (∀ until_, s.pins.tripUntil = some until_ → until_ ≤ u.aon → ∃ s', exec (.tripHoldoffEnd t) s = .next s' ∧ s'.pins.tripUntil = none ∧
       s'.regs = u.regs ∧ s'.boot = u.boot ∧ s'.mem = u.mem)) ∧
  (∀ s : State,
     (s.pinsLive = false → [s.bootDonePin, s.bootHoldPin, s.thermtripPin, s.pwrAlertPin] = List.replicate 4 .highZ) ∧
     (s.pinsLive = true →
       s.bootDonePin = (if s.pins.pkgReset = false ∧ (s.boot.st = .done ∨ s.boot.st = .hold ∧ s.boot.stage = 0x0A) then .high else .low) ∧
       s.bootHoldPin = (if s.pins.pkgReset = true ∨ s.boot.st = .hold then .low else .high) ∧
       s.thermtripPin = (if s.pins.tripped = true then .low else .high) ∧
       (s.pwrAlertPin = .low ↔ ∃ d < 8, 0 < (s.die d).level) ∧ (s.pwrAlertPin = .high ↔ ∀ d < 8, (s.die d).level = 0))) ∧
  (∀ (s : State) (t die v : Nat), die < 8 →
     exec (.errInjectWrite t die v) s = .next (if s.boot.dbgLevel = 0 then s.advance t
       else (s.advance t).setReg .ERR_INJECT die 0 (v &&& 0xFF7F)))

/-! Boot (chapter 16). -/

/-- Stages 0x01 to 0x04 pass to the next stage, or enter BOOT_HOLD with their own cause (R430, R431, R435, R437); the self-test of D0
leaves its working store at 0 and, with a debug request, waits with a challenge of 32 bytes (R449); the results of both
signatures are recorded once check 3 is made, and not before. The flash answers while VIOREF is present (R472), and the staged image has
no word with an error. -/
def Obligations.FirstBootStagesPassOrHold : Prop :=
  ∀ (s : State) (t : Nat), let u := s.bootAt t
    (∀ rom kat, s.stageOpen t 1 = true → ∃ s', exec (.romStart t rom kat) s = .next s' ∧
      if rom && kat then s'.passedFrom u else s'.heldFrom u 0x01 stBadState 0) ∧
    (∀ res, s.stageOpen t 2 = true → ∃ s', exec (.d0SelfTest t res) s = .next s' ∧
      (∀ a, wsBase 0 ≤ a → a < wsBase 0 + 0x40000000 → s'.cell a = 0#8) ∧
      match res with
      | .pass => if u.boot.dbgReq then s'.boot.dbgSince = some u.aon ∧ s'.boot.challenge.length = 32 ∧ s'.boot.stage = u.boot.stage
                 else s'.passedFrom u
      | .sram _ => s'.heldFrom u 0x02 stMemUncorrectable 0
      | .logic _ => s'.heldFrom u 0x03 stBadState 0
      | .frazar => s'.heldFrom u 0x04 stBadState 0) ∧
    (∀ ok, s.stageOpen t 3 = true → ∃ s', exec (.fetch t ok) s = .next s' ∧
      if !(ok && u.pins.vioOk) then s'.heldFrom u 0x06 stBadState 0
      else if !configOk (u.flashBytes 0 4096) then s'.heldFrom u 0x07 stBadParam 0
      else s'.passedFrom u ∧ s'.boot.config = u.flashBytes 0 4096 ∧ s'.boot.manifest = u.flashBytes imageFlash 4096) ∧
    (s.stageOpen t 4 = true → u.readable → ∃ s', exec (.verification t) s = .next s' ∧
      (if u.stagedCause = 0 then s'.passedFrom u ∧ s'.boot.svn = fieldAt (u.staged 0 4096) 10 2
       else s'.heldFrom u u.stagedCause (causeStatus u.stagedCause) 0) ∧
      let m := u.staged 0 4096
      let sig := u.staged 0x1000 16608
      if manifestOk m && u.keysOk m then s'.boot.rsaOk = rsaGood m sig ∧ s'.boot.slhOk = slhGood m sig
      else s'.boot.rsaOk = u.boot.rsaOk ∧ s'.boot.slhOk = u.boot.slhOk)

/-- The cause that stage 0x04 reports is that of the first check of R437 that fails, in the order of its list.

A new image goes through RECEIVING, VERIFYING, VERIFIED and PROGRAMMING (R441): each write acts only in the state the rule gives, a
failed check ends FAILED with its cause and status, a read-back mismatch ends FAILED with cause 0x06 and the package stays, and a
COMMIT made in BOOT_HOLD ends with a package reset. Verification records the results of both signatures (R437). That the state is IDLE once
the image has been programmed is the model's reading (log 50, DEDUCED). The staged image has no word with an error, and the flash answers
(R472). -/
def Obligations.ImagesAreCheckedAndLoaded : Prop :=
  (∀ (s : State) (m sig : List Byte) (read : Nat → Nat → List Byte),
     (manifestOk m = false → s.imageCause m sig read = 0x08) ∧
     (manifestOk m = true → s.keysOk m = false → s.imageCause m sig read = 0x09) ∧
     (manifestOk m = true → s.keysOk m = true →
       (rsaGood m sig = false → slhGood m sig = true → s.imageCause m sig read = 0x0A) ∧
       (rsaGood m sig = true → slhGood m sig = false → s.imageCause m sig read = 0x0B) ∧
       (rsaGood m sig = false → slhGood m sig = false → s.imageCause m sig read = 0x0C) ∧
       (rsaGood m sig = true → slhGood m sig = true →
         (fieldAt m 10 2 < s.fuses.1 → s.imageCause m sig read = 0x0D) ∧
         (s.fuses.1 ≤ fieldAt m 10 2 → s.imageCause m sig read = if hashesOk m read then 0 else 0x0E))) ∧
     (s.imageCause m sig read = 0 → manifestOk m = true ∧ s.keysOk m = true ∧ rsaGood m sig = true ∧ slhGood m sig = true ∧
       s.fuses.1 ≤ fieldAt m 10 2 ∧ hashesOk m read = true)) ∧
  ((∀ (s : State) (t : Nat), s.sec.img ≠ .verifying → s.sec.img ≠ .programming →
     ∃ s', exec (.imageStart t 1) s = .next s' ∧
       if s.stageTaken then s'.sec.img = .failed ∧ s'.sec.imgStatus = stNoResource
       else s'.sec.img = .receiving ∧ (s'.queue .dataPort).entries = []) ∧
   (∀ (s : State) (t : Nat), s.sec.img ≠ .verifying → s.sec.img ≠ .programming →
     ∃ s', exec (.imageVerify t 2) s = .next s' ∧
       if s.reg .SEC_IMAGE_ADDR 0 0 = 0x80030000000 ∧ s.reg .SEC_IMAGE_LEN 0 0 ≤ 67108864 then s'.sec.img = .verifying
       else s'.sec.img = .failed ∧ s'.sec.imgStatus = stBadParam) ∧
   (∀ (s : State) (t : Nat), s.sec.img = .verifying → s.readable → let u := s.advance t
       ∃ s', exec (.imageVerifyDone t) s = .next s' ∧
       (if u.stagedCause = 0 then s'.sec.img = .verified
        else s'.sec.img = .failed ∧ s'.sec.imgCause = u.stagedCause ∧ s'.sec.imgStatus = causeStatus u.stagedCause) ∧
       let m := u.staged 0 4096
       let sig := u.staged 0x1000 16608
       (manifestOk m = true → u.keysOk m = true → s'.boot.rsaOk = rsaGood m sig ∧ s'.boot.slhOk = slhGood m sig)) ∧
   (∀ (s : State) (t : Nat), ∃ s', exec (.imageCommit t 4) s = .next s' ∧
       if s.sec.img = .verified then s'.sec.img = .programming ∧ s'.sec.committed = (s.sec.committed || s.boot.st == .done)
       else s' = s.advance t) ∧
   (∀ (s : State) (t : Nat), s.sec.img = .programming → s.sec.resetDue = false → Sparse.wf 0#8 s.flash = true → s.readable →
     s.pins.vioOk = true → (s.boot.st ≠ .hold → ∃ s', exec (.imageProgramDone t true) s = .next s' ∧ s'.sec.img = .idle ∧ s'.boot = s.boot ∧
       ∀ i < s.reg .SEC_IMAGE_LEN 0 0, Sparse.at? 0#8 s'.flash (0x10000 + i) = s.peek (0x80030000000 + i)) ∧
     (s.boot.st = .hold → ∃ s', exec (.imageProgramDone t true) s = .next s' ∧ s'.clearedBy (s.advance t)) ∧
     (∃ s', exec (.imageProgramDone t false) s = .next s' ∧ s'.sec.img = .failed ∧ s'.sec.imgCause = 0x06 ∧ s'.boot = s.boot)))

/-- Stages 0x05 to 0x0A (R17, R22, R430 to R434, R443): D1 to D7 are released one at a time and pass when all seven have passed their
self-test; stage 0x06 leaves BRIDGES_TRAINED of every die at 1, whether it passes or not (R35); a direction with fewer than 32 groups left,
a line that fails and a die that fails enter BOOT_HOLD with their cause; stage
0x07 leaves tier 1 at 0 and every page SHARED; stage 0x09 raises BOOT_DONE, and then the fuses are burnt: the minimum
SVN and the revoked slots are the old ones until the burn ends, in a time that is open (R438, log 103). Stage 0x0A reads the loader from
flash, checks it against the hash of its section in the verified manifest, and releases the cores again, or holds (R443). A stage over
its limit holds with a cause of its own. -/
def Obligations.LaterBootStagesPassOrHold : Prop :=
  ∀ (s : State) (t : Nat), let u := s.bootAt t
    (s.stageOpen t 5 = true → u.releasedDies.length = 1 → ∃ s', exec (.releaseD1D7 t) s = .next s' ∧ s'.reg .DIE_STATUS 1 0 = 1 ∧
      s'.boot.lastRelease = u.boot.stageStart ∧ s'.boot.stage = u.boot.stage) ∧
    (s.stageOpen t 5 = true → 1 < u.releasedDies.length → u.releasedDies.length < 8 → u.boot.lastRelease + 1000000 ≤ u.aon →
      ∃ s', exec (.dieRelease t) s = .next s' ∧ s'.reg .DIE_STATUS u.releasedDies.length 0 = 1 ∧
        s'.boot.lastRelease = u.boot.lastRelease + 1000000) ∧
    (∀ die res, s.stageOpen t 5 = true → 0 < die → die < u.releasedDies.length → die ∉ u.boot.passed →
      ∃ s', exec (.dieSelftestDone t die res) s = .next s' ∧
        match res with
        | .pass => s'.boot.passed = die :: u.boot.passed ∧ s'.boot.stage = u.boot.stage + (if u.boot.passed.length = 6 then 1 else 0)
        | .sram _ => s'.heldFrom u 0x02 stMemUncorrectable die
        | .logic _ => s'.heldFrom u 0x03 stBadState die
        | .frazar => s'.heldFrom u 0x04 stBadState die) ∧
    (∀ failing, s.stageOpen t 6 = true → ∃ s', exec (.bridges t failing) s = .next s' ∧ (∀ d < 8, bitOf (s'.reg .DIE_STATUS d 0) 2 = true) ∧
      if ((List.range 20).map dirOf).any (fun d => (s'.dir d).lost > 32)
      then s'.boot.st = .hold ∧ s'.boot.cause = 0x0F ∧ s'.boot.status = stBridgeDegraded ∧ s'.boot.stage = u.boot.stage
      else s'.passedFrom u) ∧
    (∀ bad, s.stageOpen t 7 = true → ∃ s', exec (.stacks t bad) s = .next s' ∧
      match bad with
      | some ln => s'.heldFrom u 0x10 stMemUncorrectable (64 * ln / 2 ^ 37 % 8)
      | none => s'.passedFrom u ∧ s'.boot.stacksPassed = true ∧ s'.bias = [] ∧ s'.wcb = [] ∧
          ∀ a, isTier1 a = true → s'.cell a = 0#8) ∧
    (s.stageOpen t 8 = true → u.boot.portsLoaded = true → ((List.range 16).all fun p => u.portMode p == 0 || (u.port p).trained) = true →
      u.ftSource = 0 ∨ u.ftu.lock = .locked ∨ u.boot.stageStart + 1000000000 ≤ u.aon →
      ∃ s', exec (.portsAndFt t) s = .next s' ∧ s'.passedFrom u ∧
        s'.boot.ftWaitExpired = !(u.ftSource = 0 || u.ftu.lock == .locked)) ∧
    (s.stageOpen t 9 = true → u.readable → ∃ s', exec (.hostRelease t) s = .next s' ∧ s'.boot.st = .done ∧ s'.boot.busy = false ∧
      s'.hcx.running = !u.pins.hcxReset ∧ s'.boot.time = u.aon - u.boot.started ∧ (∃ e, s'.boot.burnEnd = some e ∧ u.aon ≤ e) ∧
      s'.svnMin = u.svnMin ∧ s'.revoked = u.revoked ∧ s'.burnt = u.burnt) ∧
    ((u.boot.burnEnd = none → u.fuses = (u.svnMin, u.revoked)) ∧
     (∀ e, u.boot.burnEnd = some e → u.fuses = if e ≤ u.aon then u.burnt else (u.svnMin, u.revoked)) ∧
     u.burnt.1 = (if bitOf (fieldAt u.boot.manifest 12 4) 0 then max u.svnMin u.boot.svn else u.svnMin) ∧
     ∀ i < 8, bitOf u.burnt.2 i = (bitOf u.revoked i ||
       (bitOf (fieldAt u.boot.manifest 30 1) i && i != u.boot.rsaSlot && i != 4 + u.boot.slhSlot))) ∧
    (∀ ok, s.stageOpen t 0x0A = true → ∃ s', exec (.hostComplexRestart t ok) s = .next s' ∧
      let loader := u.flashBytes (imageFlash + u.loaderSpan.1) u.loaderSpan.2
      if !(ok && u.pins.vioOk) then s'.heldFrom u 0x06 stBadState 0
      else if sha384 loader = u.loaderHash then
        s'.boot.busy = false ∧ s'.boot.st = u.boot.st ∧ s'.boot.stage = u.boot.stage ∧ s'.hcx.running = !u.pins.hcxReset ∧
        (3 < u.sec.meas.length → s'.sec.meas.getD 3 [] = sha384 loader) ∧
        ∀ k ∈ [4, 5, 6, 7], k < u.sec.meas.length → s'.sec.meas.getD k [] = List.replicate 48 0#8
      else s'.heldFrom u 0x0E stSigInvalid 0) ∧
    (u.stageOver = true → ∃ s', exec (.bootStageTimeout t) s = .next s' ∧ s'.boot.st = .hold ∧ s'.boot.stage = u.boot.stage ∧
      1 ≤ s'.boot.cause ∧ s'.boot.cause ≤ 0x10 ∧
      ∀ l h, (u.boot.stage, l, h) ∈ [(0x01, 0x01, 0x01), (0x02, 0x02, 0x04), (0x03, 0x06, 0x06), (0x04, 0x08, 0x0E), (0x05, 0x05, 0x05),
        (0x06, 0x0F, 0x0F), (0x07, 0x10, 0x10), (0x0A, 0x06, 0x06)] → l ≤ s'.boot.cause ∧ s'.boot.cause ≤ h)

/-- A host-complex reset request in service fences every context, discards what cores hold, and starts stage 0x0A (R343, R380, R429,
R443); before BOOT_DONE, in BOOT_HOLD and while stage 0x0A runs it is ignored; after a COMMIT in service it is a package reset (R442). -/
def Obligations.HostComplexResetFencesEverything : Prop :=
  ∀ (s : State) (t w v : Nat) (i : Instr),
    (i = .hcxResetNAssert t w ∧ s.pinsLive = true ∧ 1000 ≤ w) ∨ (i = .secHcxReset t v ∧ bitOf v 0 = true) →
    ∃ s', exec i s = .next s' ∧
      (s.boot.st = .done → s.boot.busy = false → s.sec.committed = false →
        s'.created = [] ∧ s'.boot.stage = 0x0A ∧ s'.boot.busy = true ∧ s'.hcx.copies = [] ∧ s'.hcx.dir = [] ∧ s'.hcx.running = false ∧
        (∀ u ∈ s'.units, u.2.queue = [] ∧ u.2.running.isNone = true) ∧ s'.flash = s.flash) ∧
      (s.boot.st ≠ .done ∨ s.boot.busy = true → s'.created = s.created ∧ s'.boot = s.boot ∧ s'.mem = s.mem) ∧
      (s.boot.st = .done → s.boot.busy = false → s.sec.committed = true → s.sec.img ≠ .programming → s'.created = [] ∧ s'.boot.st = .reset) ∧
      (s.boot.st = .done → s.boot.busy = false → s.sec.committed = true → s.sec.img = .programming → s'.sec.resetDue = true)

/-! Loading an image, attestation, debug (chapter 16). -/

/-- GO latches the nonce and makes the report busy, and a second GO is ignored; the report, 17,120 bytes with MAGIC first, is
what memory holds at its destination afterwards, no other byte changes, and GO clears (R446; memory with nothing in progress). A
destination that is misaligned or foreign ends with BAD_PARAM, which is the model's reading (log 51, DEDUCED). A write of slot 4 to 7 extends that measurement and one of slot 0 to 3 is ignored (R445).

The debug window closes with the level of a response that both signatures sign, or at level 0 when one fails or none has come in
10,000,000,000 ns, and boot goes on with stage 0x03 (R449); stand-alone test mode needs a level, BOOT_HOLD and a released die, and a
write cannot leave it (R448). -/
def Obligations.AttestationMeasurementAndDebug : Prop :=
  ((∀ (s : State) (t v : Nat), bitOf v 0 = true →
     exec (.attestGo t v) s = .next (if s.sec.attBusy then s.advance t else
       let dest := s.reg .SEC_ATTEST_DEST 0 0
       if dest % 64 = 0 ∧ (isTier1 dest = true ∨ isWs dest = true) then
         (s.advance t).setSec (fun x => { x with attBusy := true, attCerts := x.attCerts || bitOf v 1, attNonce := s.nonce, attDest := dest })
       else (s.advance t).setSec (fun x => { x with attCerts := false, attStatus := stBadParam, attLength := 0 }))) ∧
   (∀ (s : State) (t : Nat), s.sec.attBusy = true → s.sec.attCerts = false → s.sec.attNonce.length = 48 → s.sec.meas.length = 8 →
     (∀ m ∈ s.sec.meas, m.length = 48) →
     ∃ s', exec (.attestDone t) s = .next s' ∧ s'.sec.attBusy = false ∧ s'.sec.attCerts = false ∧ s'.sec.attLength = 17120 ∧
       (s.advance t).report.take 4 = [0x41#8, 0x54#8, 0x54#8, 0x52#8] ∧ s'.sec.meas = s.sec.meas ∧
       (s.memoryQuiet → s.sec.attDest % 64 = 0 →
         (isTier1 s.sec.attDest = true ∧ isTier1 (s.sec.attDest + 17119) = true ∨
          isWs s.sec.attDest = true ∧ isWs (s.sec.attDest + 17119) = true) →
         s'.sec.attStatus = stOk ∧ s'.peekBytes s.sec.attDest 17120 = (s.advance t).report ∧
         ∀ a, a < s.sec.attDest ∨ s.sec.attDest + 17120 ≤ a → s'.peek a = s.peek a)) ∧
   (∀ (s : State) (t v : Nat), v % 8 < 4 → exec (.secExtendCtrlWrite t v) s = .next (s.advance t)) ∧
   (∀ (s : State) (t v : Nat) (bs : List Byte) (u : State), 4 ≤ v % 8 → v % 8 < s.sec.meas.length →
     isTier1 (s.reg .SEC_EXTEND_ADDR 0 0) = true ∨ isWs (s.reg .SEC_EXTEND_ADDR 0 0) = true →
     (s.advance t).load (s.reg .SEC_EXTEND_ADDR 0 0) 48 = (u, some bs) →
     ∃ s', exec (.secExtendCtrlWrite t v) s = .next s' ∧
       s'.sec.meas = u.sec.meas.set (v % 8) (sha384 (u.sec.meas.getD (v % 8) [] ++ bs)))) ∧
  ((∀ (s : State) (t since : Nat) (r : List Byte), s.pinsLive = true → s.boot.dbgSince = some since →
     ∃ s', exec (.unlock t r) s = .next s' ∧ s'.boot.dbgSince = none ∧ s'.boot.stage = s.boot.stage + 1 ∧
       let late := decide (since + 10000000000 ≤ max s.aon t)
       s'.boot.dbgTimeout = late ∧
       s'.boot.dbgLevel = (if !late && responseOk s.boot.challenge r then fieldAt r 0 1 else 0) ∧
       s'.boot.dbgStatus = (if late || responseOk s.boot.challenge r then stOk else stSigInvalid)) ∧
   (∀ (s : State) (t since : Nat), s.boot.dbgSince = some since → since + 10000000000 ≤ max s.aon t →
     ∃ s', exec (.debugUnlockTimeout t) s = .next s' ∧ s'.boot.dbgSince = none ∧ s'.boot.dbgLevel = 0 ∧ s'.boot.dbgTimeout = true ∧
       s'.boot.stage = s.boot.stage + 1) ∧
   (∀ (s : State) (t die v : Nat), die < 8 → Sparse.wf 0#64 s.regs = true →
     ∃ s', exec (.dftModeWrite t die v) s = .next s' ∧
       (bitOf (s'.reg .DFT_MODE die 0) 0 = true ↔ bitOf (s.reg .DFT_MODE die 0) 0 = true ∨
         (bitOf v 0 = true ∧ 1 ≤ s.boot.dbgLevel ∧ s.boot.st = .hold ∧ (die = 0 ∨ bitOf (s.reg .DIE_STATUS die 0) 0 = true))) ∧
       ((∀ d < 8, s.loops d = false) → { s' with regs := s.regs, mgmt := { s'.mgmt with lbAt := s.mgmt.lbAt } } = s.advance t)))

/-! Power (chapter 15). -/

/-- At the end of an interval a die's power in mW is its energy of the interval in fJ over 100,000 ns, and a new interval begins (R408). That
the first report of an interval charges every die's static energy and fixes the energy of every context up to its end is the model's
reading (log 48, DEDUCED). D0 takes the report that arrives, in time when it comes within 40,000 ns of the interval (R408, R410), and computes each die's next budget as its report plus an eighth of the headroom, or, over the cap, as its share
of the cap; a missing report is replaced by the previous one and counts (R409, R410); PWR_PKG_POWER is the sum of the reports; the cap
takes 1,500,000 to 4,200,000 mW (R411). -/
def Obligations.BudgetsFollowTheReports : Prop :=
  (∀ (s : State) (t die : Nat), t % 100000 = 0 → 0 < t → s.ft ≤ t → die < 8 →
    let u := s.advance t
    let w := u.reportsDue t
    exec (.budgetReport t die) s = .next (w.setDie die (fun p => { p with power := p.energy / 100000000, energy := 0, reported := false })) ∧
    w.mem = s.mem ∧ (s.energyEnd = t → w = u) ∧
    (s.energyEnd ≠ t → s.pwr.length = 8 → w.energyAt = (List.range 16).map w.ctxEnergy ∧ ∀ d < 8, (w.die d).settled = u.ft) ∧
    (s.pwr.length = 8 → s.ft < t → ∃ s', exec (.budgetReport t die) s = .next s' ∧ s'.energyEnd = t ∧ (s'.die die).energy = 0 ∧
      (s'.die die).power = (w.die die).energy / 100000000 ∧ (∀ d < 8, d ≠ die → (s'.die d).power = (s.die d).power) ∧ s'.mem = s.mem)) ∧
  (∀ (s : State) (t die : Nat), die < 8 → exec (.budgetMessageRx t die) s =
    .next ((s.advance t).setDie die (fun p => { p with
      lastReport := p.power, reported := p.reported || decide ((s.advance t).ft % 100000 ≤ 40000) }))) ∧
  (∀ (s : State) (t : Nat), t % 100000 = 40000 → s.ft ≤ t → s.pwr.length = 8 → Sparse.wf 0#64 s.regs = true →
    ∃ s', exec (.budgetCompute t) s = .next s' ∧
      let sum := ((List.range 8).map fun d => (s.die d).lastReport).sum
      let cap := s.reg .PWR_PKG_CAP 0 0
      let missing := ((List.range 8).filter fun d => !(s.die d).reported).length
      (∀ d < 8, (s'.die d).nextBudget = some (
        if sum ≤ cap then (s.die d).lastReport + (cap - sum) / 8 else cap * (s.die d).lastReport / sum)) ∧
      (∀ d < 8, (s'.die d).reported = false ∧ (s'.die d).budget = (s.die d).budget) ∧ s'.mem = s.mem ∧
      s'.reg .PWR_PKG_POWER 0 0 = sum % 2 ^ 64 ∧
      (s.reg .PWR_BUDGET_MISS 0 0 + missing < countMax → s'.reg .PWR_BUDGET_MISS 0 0 = s.reg .PWR_BUDGET_MISS 0 0 + missing)) ∧
  (∀ (s : State) (t v : Nat), Sparse.wf 0#64 s.regs = true → ∃ s', exec (.pwrPkgCapWrite t v) s = .next s' ∧
    s'.reg .PWR_PKG_CAP 0 0 = (if 1500000 ≤ v ∧ v ≤ 4200000 then v else s.reg .PWR_PKG_CAP 0 0) ∧
    { s' with regs := s.regs } = s.advance t)

/-- At the moment a budget takes effect the level of the die rises by 1 when its power exceeds the budget, falls by 1 at 95 % of it or
less, and else stays, within 0 to 8; with a hot sensor it rises and is at least 4 (R409, R412, R424). A die whose budget has not arrived
keeps its budget and its level and counts a miss (R410). Meilamo records every change of a level (R413). The time that ARITH has run goes on from where it was, whatever the level; at a
level L the first L slots of 64 ns of every 1,024 ns have no ARITH edge, and they count once (R412). -/
def Obligations.BackstopLevelFollowsTheBudget : Prop :=
  (∀ (s : State) (t missing : Nat), t % 100000 = 50000 → s.ft ≤ t → s.pwr.length = 8 → (∀ d < 8, (s.die d).level ≤ 8) →
    Sparse.wf 0#64 s.regs = true →
    ∃ s', exec (.budgetTakeEffect t missing) s = .next s' ∧ s'.mem = s.mem ∧ s'.ft = t ∧ ∀ d < 8,
      (s'.die d).nextBudget = none ∧ (s'.die d).level ≤ 8 ∧ s'.arithNs d = (s.advance t).arithNs d ∧
      ((s'.die d).level ≠ (s.die d).level → (t, d, (s'.die d).level) ∈ s'.mgmt.levelLog) ∧
      (s.reg .PWR_BUDGET_MISS d 0 + 1 < countMax → s'.reg .PWR_BUDGET_MISS d 0 = s.reg .PWR_BUDGET_MISS d 0 +
        (if bitOf missing d = true ∨ (s.die d).nextBudget = none then 1 else 0)) ∧
      match (s.die d).nextBudget with
      | some b =>
        if bitOf missing d then (s'.die d).budget = (s.die d).budget ∧ (s'.die d).level = (s.die d).level
        else (s'.die d).budget = b ∧
          (s'.die d).level = (if (s.die d).thermal then max 4 (min 8 ((s.die d).level + 1))
            else if b < (s.die d).power then min 8 ((s.die d).level + 1)
            else if 100 * (s.die d).power ≤ 95 * b then (s.die d).level - 1 else (s.die d).level)
      | none => (s'.die d).budget = (s.die d).budget ∧ (s'.die d).level = (s.die d).level) ∧
  (∀ (s : State) (t die : Nat), t % 1024 = 0 → die < 8 → s.ft ≤ t → exec (.backstopSlot t die) s =
    .next (if (s.die die).slotFt = some t then s.advance t else
      ((s.advance t).setDie die (fun p => { p with slotFt := some t })).count .PWR_BACKSTOP_SLOTS die 0 (s.die die).level)) ∧
  (∀ (s : State) (u : Nat), isArith u = true → s.unitFt u % 1024 < 64 * (s.die (unitDie u)).level → s.clockRuns u = false)

/-- A die eligible for 10,240 ns enters the deepest idle state that its tolerance allows, complete after the entry time, and leaves it
at the end of its exit; DAMPED loses the compute die's state and puts its stacks into self-refresh (R418 to R422).

A sample is the sensor's reading; at or above the backstop temperature (100 °C, 92 °C on a stack) THERMAL is 1 and the level at least
4, and a second one in a row at or above the trip temperature (110 °C, 100 °C on a stack) trips the package, which loses every context and
the contents of tier 0 and tier 1 and records the cause (R423 to R425). Temperatures are in units of 0.125 °C. -/
def Obligations.IdleStatesAndSensors : Prop :=
  ((∀ (s : State) (t die : Nat), die < 8 → die < s.pwr.length → s.boot.st = .done → s.eligible die = true →
     s.eligibleSince die + 10240 ≤ max s.ft t → (s.die die).exitBy = none → (s.die die).entering = none →
     idleCode (s.die die).idle < idleCode (s.idleTarget die) →
     ∃ s', exec (.idleEntry t die) s = .next s' ∧
       (s'.die die).entering = some (s.idleTarget die, max s.ft t + (match s.idleTarget die with
         | .run => 0 | .hold => 64 | .banked => 20000 | .damped => 500000)) ∧ (s'.die die).idle = (s.die die).idle ∧
       { s' with pwr := s.pwr } = s.advance t) ∧
   (∀ (s : State) (t die due : Nat) (target : Idle), die < 8 → die < s.pwr.length → (s.die die).entering = some (target, due) → due ≤ max s.ft t →
     ∃ s', exec (.idleEntryDone t die) s = .next s' ∧ (s'.die die).idle = target ∧ (s'.die die).entering = none ∧
       (target = .damped → s'.asleep.contains (2 * die) = true ∧ s'.asleep.contains (2 * die + 1) = true ∧
         ∀ e ∈ s'.engs, e.1 / 48 = die → e.2.tiles = [] ∧ e.2.v = [])) ∧
   (∀ (s : State) (t die : Nat), die < 8 → die < s.pwr.length → (s.die die).exitBy.isSome = true →
     ∃ s', exec (.idleExitDone t die) s = .next s' ∧ (s'.die die).idle = .run ∧ (s'.die die).exitBy = none ∧ (s'.die die).entering = none ∧
       ∀ st ∈ s'.asleep, st / 2 ≠ die) ∧
   (∀ (s : State) (t st : Nat), s.asleep.contains st = true → ∃ s', exec (.stackWake t st) s = .next s' ∧ s'.asleep.contains st = false ∧
     s'.mem = s.mem) ∧
   (∀ (s : State) (t st : Nat), st < 16 → s.asleep.contains st = false → (s.die (st / 2)).idle = .damped →
     Sparse.at? 0 s.stackUse st + 1000000 ≤ max s.ft t → ∃ s', exec (.selfRefreshEntry t st) s = .next s' ∧ s'.asleep.contains st = true)) ∧
  ((∀ (s : State) (t die sensor temp : Nat), die < 8 → sensor < 24 → die < s.pwr.length → (s.die die).temps.length = 24 → temp < 2 ^ 15 →
     s.boot.st ≠ .reset → s.pins.tripped = false → s.pins.powered = true → (s.die die).hot.contains sensor = false →
     ∃ s', exec (.sensorSample t die sensor temp) s = .next s' ∧ s' = (s.advance t).takeSample die sensor temp ∧
       (s'.die die).temps.getD sensor 0 = 0x10000 + temp ∧
       ((if sensor < 20 then 100 * 8 else 92 * 8) ≤ temp → (s'.die die).thermal = true ∧ 4 ≤ (s'.die die).level) ∧
       ((s'.die die).hot.contains sensor = decide ((if sensor < 20 then 110 * 8 else 100 * 8) ≤ temp)) ∧ s'.mem = s.mem) ∧
   (∀ (s : State) (t die sensor temp : Nat), die < 8 → sensor < 24 → temp < 2 ^ 15 → s.boot.st ≠ .reset → s.pins.tripped = false →
     s.pins.powered = true → (s.die die).hot.contains sensor = true → (if sensor < 20 then 110 * 8 else 100 * 8) ≤ temp →
     ∃ s', exec (.sensorSample t die sensor temp) s = .next s' ∧ s'.pins.tripped = true ∧ s'.created = [] ∧ s'.mem = [] ∧
       s'.pins.tripUntil = some (s'.aon + 1000000000) ∧ s'.sec = s.sec ∧ s'.flash = s.flash))

/-! Fabric time (chapter 02). -/

/-- A beacon on an enabled port (R39, R40, R43, R44); the acknowledgement and the credits that its frame brings are taken first (R293). One
that fails its CRC, has stratum 15 or more, or comes from another master than the lock's counts as bad and does nothing else. A good one is
remembered; in FREE with a SOURCE other than none it starts ACQUIRING, and FT steps to the source when no context is ARMED or RUNNING; in
ACQUIRING the eighth in a row within ±4 ns locks; in ACQUIRING and LOCKED one from another port than the best one changes nothing more; in
HOLDOVER one within ±25 ns locks again and one farther off begins ACQUIRING, whichever port it came by.

The FT unit's own limits, its delay measurement, its SYNC_IN and FT_CTRL (R39, R41, R43, R46, R307). Lock losses count in
FT_LOCK_LOSS. The whole nanoseconds that a DELAY_RESP waits for its frame boundary are a free value of 0 to 2 (log 6). That an edge of
SYNC_IN near a multiple is only latched in FREE is the model's choice (log 67), and so is what the lock takes over when FT_CTRL starts
ACQUIRING (log 25), which port it then chooses (log 68), that a beacon in FREE with SOURCE 0 still measures an offset (log 26), and that a
TIME frame carries FSEQ 0 (log 27). A port in Ethernet mode carries no TIME frame (R291).

A step of FT moves the times that the FT unit holds with it, which is the model's reading (log 24, DEDUCED). The FT of a die never decreases as time passes (R38), and those of
two dies differ by no more than 2 ns (R47). -/
def Obligations.FabricTimeIsDisciplined : Prop :=
  (∀ (s : State) (t port : Nat) (b : Beacon), port < 16 → s.isDarzil port = true → bitOf s.ftMask port = true →
     let u := s.advance t
     let h := u.heardBeacon port b
     let src := b.ftTx + (s.port port).delay
     let off : Int := (u.ft : Int) - (src : Nat)
     let good : Prop := b.crcOk = true ∧ b.stratum < 15 ∧ (s.ftu.lock = .free ∨ b.master = s.ftu.master)
     (¬good → exec (.beacon t port b) s = .next ((u.takeTime port b).count .FT_BEACON_BAD 0 0 1)) ∧
     (good → s.ftu.lock = .free → s.ftSource = 0 → exec (.beacon t port b) s = .next (h.setFtu (fun x => { x with offset := off }))) ∧
     (good → s.ftu.lock = .free → s.ftSource ≠ 0 → ∃ s', exec (.beacon t port b) s = .next s' ∧ s'.ftu.lock = .acquiring ∧
       s'.ftu.master = b.master ∧ s'.ftu.port = port ∧ s'.ftu.stratum = b.stratum ∧
       (s.anyActive = false → s'.ft = src ∧ s'.ftu.offset = 0 ∧ s'.ftu.good = 1) ∧
       (s.anyActive = true → s'.ft = u.ft ∧ s'.ftu.offset = off ∧ s'.ftu.good = if off.natAbs ≤ 4 then 1 else 0)) ∧
     (good → s.ftu.lock = .acquiring ∨ s.ftu.lock = .locked → (∃ q, h.bestBeacon = some q ∧ q.port ≠ port) →
       exec (.beacon t port b) s = .next h) ∧
     (good → (∃ q, h.bestBeacon = some q ∧ q.port = port) → ∃ s', exec (.beacon t port b) s = .next s' ∧
       (s.ftu.lock = .acquiring → s'.ft = u.ft ∧ s'.ftu.offset = off ∧ s'.ftu.good = (if off.natAbs ≤ 4 then s.ftu.good + 1 else 0) ∧
         s'.ftu.lock = if 8 ≤ s'.ftu.good then .locked else .acquiring) ∧
       (s.ftu.lock = .locked → s'.ftu.lock = .locked ∧ s'.ft = u.ft ∧ s'.ftu.offset = off)) ∧
     (good → s.ftu.lock = .holdover → ∃ s', exec (.beacon t port b) s = .next s' ∧
       if off.natAbs ≤ 25 then s'.ftu.lock = .locked ∧ s'.ft = u.ft ∧ s'.ftu.offset = off
       else s'.ftu.lock = .acquiring ∧ s'.ft = (if s.anyActive then u.ft else src) ∧ s'.ftu.offset = if s.anyActive then off else 0)) ∧
  (∀ (s : State) (t : Nat), let u := s.advance t
     let loss (l : Lock) : State := (u.setFtu (fun x => { x with
       lock := l, holdSince := if l = .holdover then u.ft else x.holdSince })).count .FT_LOCK_LOSS 0 0 1
     (exec (.beaconTimeout t) s = .next (
       if u.ft < s.ftu.lastBeacon + 131072 then u else if s.ftu.lock = .locked then loss .holdover
       else if s.ftu.lock = .acquiring then loss .free else u)) ∧
     (s.ftSource = 2 → exec (.syncInTimeout t) s = .next (
       if u.ft ≤ s.ftu.lastEdge + 1048576 + 64 then u else if s.ftu.lock = .locked then loss .holdover
       else if s.ftu.lock = .acquiring then loss .free else u)) ∧
     (exec (.holdoverExpiry t) s = .next (
       if s.ftu.lock = .holdover ∧ s.ftu.holdSince + 10000000 ≤ u.ft then loss .free else u)) ∧
     (s.ftSource = 2 → let e := u.setFtu (fun x => { x with syncEdge := u.ft })
       exec (.syncInEdge t) s = .next (
         if 64 < u.ft % 1048576 ∧ u.ft % 1048576 < 1048576 - 64 then e.count .FT_SYNC_BAD 0 0 1
         else if s.ftu.lock = .free then e
         else e.setFtu (fun x => { x with lastEdge := u.ft, offset := if u.ft % 1048576 ≤ 64 then ((u.ft % 1048576 : Nat) : Int)
           else ((u.ft % 1048576 : Nat) : Int) - 1048576 }))) ∧
     (s.ftu.lock ≠ .free → s.ftu.delayReq = none → s.isDarzil s.ftu.port = false → exec (.delayMeasureTimer t) s = .next u) ∧
     (s.ftu.lock ≠ .free → s.ftu.delayReq = none → s.isDarzil s.ftu.port = true → exec (.delayMeasureTimer t) s = .next
       ((u.setPort s.ftu.port (fun q => { q with
         lastTx := frameBytes 0 q.rxSeq 3 0 0 (timeBody u.ft s.ftu.master s.ftu.stratum 1 0 0) })).setFtu
           (fun x => { x with delayReq := some (s.ftu.port, u.ft) }))) ∧
     (∀ (port : Nat) (b : Beacon), port < 16 → port < s.ports.length → s.isDarzil port = true → b.crcOk = true →
       ∃ (w : Nat) (s' : State), w ≤ 2 ∧ exec (.delayReq t port b) s = .next s' ∧
         { s' with ports := s.ports, queues := s.queues, freeCount := s.freeCount } = u ∧ s'.queues = (u.takeTime port b).queues ∧
         (s'.port port).lastTx = frameBytes 0 (s.port port).rxSeq 3 0 0 (timeBody (u.ft + w) s.ftu.master s.ftu.stratum 2 b.seq w)) ∧
     (∀ (port t1 : Nat) (b : Beacon), b.crcOk = true → s.ftu.delayReq = some (port, t1) → port < s.ports.length →
       ∃ s', exec (.delayResp t port b) s = .next s' ∧ (s'.port port).delay = (u.ft - t1 - b.turnaround) / 2 ∧
         s'.ftu.pathDelay = (u.ft - t1 - b.turnaround) / 2 ∧ s'.ft = u.ft ∧ s'.ftu.lock = s.ftu.lock) ∧
     (∀ v, Sparse.wf 0#64 s.regs = true → ∃ s', exec (.ftCtrlWrite t v) s = .next s' ∧
       bitsOf (s'.reg .FT_CTRL 0 0) 32 16 = bitsOf v 32 16 ∧
       s'.ftSource = (if s.anyActive ∨ v % 4 = 3 then s.ftSource else v % 4) ∧
       (s'.ftSource = s.ftSource → { s' with regs := s.regs } = u) ∧
       (s'.ftSource ≠ s.ftSource →
         match bestPort (bitsOf v 31 16) s.ftu.lockOf u.ft s.ftu.heard with
         | some q => if v % 4 = 0 then s'.ftu.lock = .free else s'.ftu.lock = .acquiring ∧ s'.ftu.master = q.master ∧ s'.ftu.port = q.port
         | none => s'.ftu.lock = .free))) ∧
  (∀ (s : State) (v : Nat), (s.stepFt v).ft = v ∧ (s.stepFt v).ftu.delayReq = s.ftu.delayReq.map (fun r => (r.1, r.2 + v - s.ft)) ∧
    (s.stepFt v).ftu.lastBeacon = s.ftu.lastBeacon + v - s.ft) ∧
  (∀ (s : State) (t d e : Nat), d < 8 → e < 8 → s.dieFt d ≤ (s.advance t).dieFt d ∧ s.dieFt d ≤ s.dieFt e + 2)

/-! Commands (chapters 02, 12, 13). In each statement `o` is the command as its ring lists it, `v` the state with TAIL and HEAD past its
slot, and `k` its target context; `complete` posts the reply (R365) and the fences that waited for it. -/

/-- A command whose ring is not ready leaves the state as it is but for time and what RECOVER owed (that the row then does nothing is the
model's choice, log 10); one whose header fails a check of R364 leaves the ring and ends with the status of that check, with no other
effect, and one that meets an uncorrectable word in the memory of its command processor ends with MEM_UNCORRECTABLE (R453).

The status with which a header ends (R364, R367, R440): in BOOT_HOLD every command but FENCE, EXPORT_SHARD and DIGEST_QUERY ends with
BAD_STATE; an unknown opcode, or a ring that the table does not allow, with BAD_OPCODE; a CTX that is not the ring's, with BAD_PARAM;
a target that is not created, with BAD_STATE. -/
def Obligations.CommandsPassTheirHeader : Prop :=
  (∀ (s : State) (i : Instr) (t op : Nat) (c : Cmd), commandOf i = some (t, c, op) → let u := s.advance t
     (u.ringReady c op = false → exec i s = .next (u.recovered c.ring)) ∧
     (u.ringReady c op = true → (u.recovered c.ring).headerStatus c op ≠ stOk →
       exec i s = .next ((u.entered c op).2.finish (u.entered c op).1
         (if u.memoryFails c op then stMemUncorrectable else (u.recovered c.ring).headerStatus c op) 0 0)) ∧
     (u.ringReady c op = true → u.memoryFails c op = true →
       exec i s = .next ((u.entered c op).2.finish (u.entered c op).1 stMemUncorrectable 0 0))) ∧
  ((∀ (s : State) (c : Cmd) (op : Nat), s.boot.st ≠ .hold → opRow op = none → s.headerStatus c op = stBadOpcode) ∧
   (∀ (s : State) (c : Cmd) (op : Nat), s.boot.st = .hold → op ∉ [0x0B, 0x0C, 0x11] → s.headerStatus c op = stBadState) ∧
   (∀ (s : State) (c : Cmd) (op : Nat), s.boot.st ≠ .hold → c.ring < 16 → 0x0D ≤ op → op ≤ 0x22 → op ∉ [0x10, 0x11, 0x12] →
     s.headerStatus c op = stBadOpcode) ∧
   (∀ (s : State) (c : Cmd) (op : Nat), s.boot.st ≠ .hold → 16 ≤ c.ring → op ∈ [0x01, 0x02, 0x03, 0x04, 0x05, 0x09, 0x0A] →
     s.headerStatus c op = stBadOpcode) ∧
   (∀ (s : State) (c : Cmd) (op : Nat), s.boot.st ≠ .hold → c.ring < 16 → c.ctx ≠ c.ring →
     op ∈ [0x01, 0x02, 0x03, 0x04, 0x05, 0x06, 0x07, 0x08, 0x09, 0x0A, 0x0B, 0x0C, 0x10, 0x11, 0x12] → s.headerStatus c op = stBadParam) ∧
   (∀ (s : State) (c : Cmd) (op : Nat), s.boot.st ≠ .hold → 16 ≤ c.ring → c.ctx < 16 → op ∈ [0x06, 0x07, 0x08, 0x0B, 0x0C, 0x10, 0x12, 0x21, 0x22] →
     s.headerStatus c op = if (s.ctx c.ctx).created then stOk else stBadState))

/-- A reply (R365) is 32 bytes with STATUS, OPCODE, flags, CMD_SEQ, PARAM, DETAIL and FT at their offsets; on the control ring it is
written at CPL_TAIL of the completion ring and CPL_TAIL moves on, PHASE toggling at the end of a pass (R360), and the command leaves the
list of accepted commands.

The ring registers (R359, R360): a doorbell beyond the ring and a CPL_HEAD that passes more entries than are in use change nothing;
CMDP_RING_SIZE sets both sizes and returns every position to 0 when the control ring is idle, and else nothing. -/
def Obligations.RepliesAndRingRegisters : Prop :=
  ((∀ (r : Reply) (phase : Bool) (ft : Nat), (replyBytes r phase ft).length = 32 ∧
     fieldAt (replyBytes r phase ft) 0 2 = r.status % 2 ^ 16 ∧ fieldAt (replyBytes r phase ft) 2 1 = r.op % 2 ^ 8 ∧
     fieldAt (replyBytes r phase ft) 3 1 = (if r.event then 1 else 0) + (if phase then 2 else 0) ∧
     fieldAt (replyBytes r phase ft) 4 4 = r.seq % 2 ^ 32 ∧ fieldAt (replyBytes r phase ft) 8 8 = r.param % 2 ^ 64 ∧
     fieldAt (replyBytes r phase ft) 16 8 = r.detail % 2 ^ 64 ∧ fieldAt (replyBytes r phase ft) 24 8 = ft % 2 ^ 64) ∧
   (∀ (s : State) (o : OutCmd) (status param detail : Nat), o.ring = 16 → 16 < s.rings.length → Memory.wf s.mem = true →
     let g := s.ring 16
     let a := g.cplBase + 32 * g.cplTail
     isWs a = true → isWs (a + 31) = true → a % 32 = 0 → g.cplTail < 2 ^ g.cplLog →
     let s' := s.finish o status param detail
     s'.peekBytes a 32 = replyBytes ⟨status, o.op, false, o.seq, param, detail⟩ g.phase s.ft ∧
     (∀ b, b < a ∨ a + 32 ≤ b → s'.cell b = s.cell b) ∧
     (s'.ring 16).out = g.out.erase o ∧ (s'.ring 16).cplTail = (g.cplTail + 1) % 2 ^ g.cplLog ∧
     (s'.ring 16).phase = (if g.cplTail + 1 = 2 ^ g.cplLog then !g.phase else g.phase) ∧ s'.ctxs = s.ctxs)) ∧
  (∀ (s : State) (t r v : Nat), let u := s.advance t
     ((s.ring r).cmdLog = 0 ∨ 2 ^ (s.ring r).cmdLog ≤ v % 65536 → exec (.cmdpRingTailWrite t r v) s = .next u) ∧
     ((s.ring r).cmdLog ≠ 0 → v % 65536 < 2 ^ (s.ring r).cmdLog →
       exec (.cmdpRingTailWrite t r v) s = .next ((u.setRing r (fun g => { g with tail := v % 65536 })).serve r)) ∧
     ((s.ring r).cplLog = 0 ∨ 2 ^ (s.ring r).cplLog ≤ v % 65536 ∨
       (s.ring r).used < (v % 65536 + 2 ^ (s.ring r).cplLog - (s.ring r).cplHead) % 2 ^ (s.ring r).cplLog →
       exec (.cmdpCplHeadWrite t r v) s = .next u) ∧
     ((s.ring r).cplLog ≠ 0 → v % 65536 < 2 ^ (s.ring r).cplLog →
       (v % 65536 + 2 ^ (s.ring r).cplLog - (s.ring r).cplHead) % 2 ^ (s.ring r).cplLog ≤ (s.ring r).used →
       exec (.cmdpCplHeadWrite t r v) s = .next ((u.setRing r (fun g => { g with cplHead := v % 65536 })).serve r)) ∧
     (exec (.cmdpRingSizeWrite t v) s = .next (
       if (s.ring 16).head = (s.ring 16).tail ∧ (s.ring 16).out = [] then u.setRing 16 (fun g => { g with
         cmdLog := v % 32, cplLog := v / 256 % 32, tail := 0, head := 0, cplHead := 0, cplTail := 0, phase := true })
       else u)))

/-- LOAD_MOULD of an image that passes every check of R54 loads it: the context is LOADED with the image's pours, timing and entries, its
pending commit discarded (R71), its arrival flags 0, and the reply gives the number of pours and the dies that have some. -/
def Obligations.LoadMouldLoadsTheImage : Prop :=
  ∀ (s : State) (t va : Nat) (c : Cmd) (image : List Byte) (w w' : State) (entries : List (Nat × Nat)),
    let u := s.advance t
    let o := (u.entered c 0x01).1
    let v := (u.entered c 0x01).2
    let k := cmdTarget c
    let ps := dies.map (imagePours image)
    let pours := ps.map (fun l => l.map parsePour)
    u.takes c 0x01 = true → (v.ctx k).st = .empty ∨ (v.ctx k).st = .loaded →
    v.readsImage k va image w →
    (∀ d < 8, ∀ b ∈ imagePours image d, pourOk (w.ctx k).part d (1024 * fieldAt image 16 4) b = true) →
    (∀ l ∈ pours, orderOk [] l = true ∧ gatedOk l = true) → w.allotAll k (pours.map List.length) = (w', some entries) →
    (∀ i < 20, 100 * popCount 64 (w'.dir (dirOf i)).retired ≤ 64 * fieldAt (image.take 256) (48 + i) 1) →
    ∃ z : State, exec (.loadMould t c va) s = .next (z.complete o stOk ((pours.map List.length).sum)
        (bitsAt (dies.filter (fun d => hdrPourCount image d ≠ 0)))) ∧
      let y := z.ctx k
      y.st = .loaded ∧ y.commit = none ∧ y.gen = 0 ∧ y.flags = [] ∧ y.handed = [] ∧ y.resume = none ∧ y.entries = entries ∧
      y.heatUnits = fieldAt image 16 4 ∧ y.holdDefault = (if fieldAt image 20 2 = 0 then 4 else fieldAt image 20 2) ∧
      y.overN = (if fieldAt image 22 2 = 0 then 64 else fieldAt image 22 2) ∧ y.stepCount = (w.ctx k).stepCount ∧
      ∃ m, y.mould = some m ∧ m.header = image.take 256 ∧ m.pours = pours ∧ m.bounds.length = fieldAt image 40 4

/-- ARM_AT of a LOADED context, HALT of an ARMED, RUNNING or FAULTED one, and the end of a halt (R63, R66, R71): arming gives the start,
the heat number and the next generation, with every arrival flag and the step flag word 0 and the step count kept; a HALT of a RUNNING
context waits for the next heat start, and else nothing handed over is left to launch; a halted context is LOADED again, and the windows of
one that had been faulted are closed (R325). That a halt waits also for the pours of the ended heat still in their hold window is the
model's reading (log 69). -/
def Obligations.ArmAndHalt : Prop :=
  (∀ (s : State) (t ftStart base : Nat) (loc : Bool) (c : Cmd), let u := s.advance t
    let o := (u.entered c 0x02).1
    let v := (u.entered c 0x02).2
    let x := v.ctx (cmdTarget c)
    u.takes c 0x02 = true → x.st = .loaded → x.timingPending = false → ftStart % 1024 = 0 → v.ft + 20480 ≤ ftStart →
    (x.fabric = true → loc = true ∨ v.ftu.lock = .locked ∨ v.ftu.lock = .holdover) → v.namesDisabled (cmdTarget c) = false →
    ∃ z : State, exec (.armAt t c ftStart base loc) s = .next (z.complete o stOk ((x.gen + 1) % 256) 0) ∧
      let y := z.ctx (cmdTarget c)
      y.st = .armed ∧ y.armFt = ftStart ∧ y.heat = base ∧ y.gen = (x.gen + 1) % 256 ∧ y.flags = [] ∧ y.stepFlags = 0 ∧ y.handed = [] ∧
      y.resume = none ∧ y.stepCount = x.stepCount ∧ y.mould = x.mould ∧ y.settings = x.settings ∧ z.mem = v.mem) ∧
  (∀ (s : State) (t : Nat) (c : Cmd), let u := s.advance t
    let v := (u.entered c 0x03).2
    let x := v.ctx (cmdTarget c)
    u.takes c 0x03 = true → x.haltPending = false → x.preempt = none → x.preemptTaken = false → v.outOf (cmdTarget c) 0x12 = none →
    (x.st = .running → exec (.halt t c) s = .next (v.setCtx (cmdTarget c) (fun y => { y with haltPending := true }))) ∧
    (x.st = .armed ∨ x.st = .faulted → ∃ s' : State, exec (.halt t c) s = .next s' ∧ (s'.ctx (cmdTarget c)).st = .halting ∧
      (s'.ctx (cmdTarget c)).commit = none ∧ s'.noneHeld (cmdTarget c) ∧ s'.mem = v.mem)) ∧
  (∀ (s : State) (t ctx : Nat) (o : OutCmd), let u := s.advance t
    (s.ctx ctx).st = .halting → (s.ctx ctx).destroying = false → s.quiet ctx = true → s.noneHeld ctx → s.outOf ctx 0x03 = some o →
    ∃ z : State, exec (.haltComplete t ctx) s = .next (z.complete o stOk (if o.b = 1 then o.a else (s.ctx ctx).heat) 0) ∧
      (z.ctx ctx).st = .loaded ∧ (z.ctx ctx).commit = (s.ctx ctx).commit ∧ (z.ctx ctx).freeSince = u.ft ∧ z.mem = s.mem ∧
      ((s.ctx ctx).lastCode ≠ 0 → Sparse.wf 0#64 s.regs = true → ∀ w < 64, let a := z.reg .PORT_WIN_CTRL 0 w
        bitOf a 12 = true → bitsOf a 11 8 = ctx → bitOf a 0 = false))

/-- STAGE, COMMIT_AT, its CANCEL and the commit's moment (R67 to R72): a setting staged again replaces the earlier one; COMMIT_AT moves
the stage into the pending commit; CANCEL at least 10,240 ns before T discards it; at T every setting of it takes effect and none is
pending. -/
def Obligations.SettingsAreStagedAndCommitted : Prop :=
  (∀ (s : State) (t : Nat) (c : Cmd) (items : List StageItem), let u := s.advance t
    let o := (u.entered c 0x04).1
    let v := (u.entered c 0x04).2
    let k := cmdTarget c
    let staged := items.foldl (fun l g => putSetting l (stageKey g)) (v.ctx k).stage
    u.takes c 0x04 = true → items ≠ [] → items.length ≤ 28 → (∀ g ∈ items, v.itemOk k g = true) → staged.length ≤ 4096 →
    exec (.stage t c items) s = .next ((v.setCtx k (fun x => { x with stage := staged })).complete o stOk staged.length 0) ∧
    ∀ pre g, items = pre ++ [g] → stageKey g ∈ staged ∧
      ∀ y ∈ staged, y.unit = (stageKey g).unit → y.param = g.param → y = stageKey g) ∧
  (∀ (s : State) (t at' : Nat) (c : Cmd), let u := s.advance t
    let o := (u.entered c 0x05).1
    let v := (u.entered c 0x05).2
    let k := cmdTarget c
    let x := v.ctx k
    u.takes c 0x05 = true →
    (x.commit = none → at' % 64 = 0 → v.ft + 20480 ≤ at' → (x.active = true → x.fabric = true → v.ftHeldOrLocked = true) →
      v.setOk k at' x.stage = true → exec (.commitAt t c at') s =
        .next ((v.setCtx k (fun y => { y with commit := some (at', x.stage), stage := [] })).complete o stOk at' 0)) ∧
    (∀ T l, x.commit = some (T, l) → v.ft + 10240 ≤ T → exec (.commitAtCancel t c) s =
      .next ((v.setCtx k (fun y => { y with commit := none })).complete o stOk T 0))) ∧
  (∀ (s : State) (t ctx T : Nat) (l : List Setting), (s.ctx ctx).commit = some (T, l) → T ≤ (s.advance t).ft →
    l.Pairwise (fun a b => ¬(a.unit = b.unit ∧ a.param = b.param)) → (∀ g ∈ l, unitCls g.unit = clsPLAN → g.unit = unitId 0 clsPLAN 0) →
    ∃ s' : State, exec (.commitApply t ctx) s = .next s' ∧ (s'.ctx ctx).commit = none ∧ s'.mem = s.mem ∧ s'.regs = s.regs ∧
      (∀ k, k ≠ ctx → s'.ctx k = s.ctx k) ∧
      ∀ g ∈ l,
        (unitCls g.unit = clsLADD ∨ unitCls g.unit = clsCMDP ∨ (unitCls g.unit = clsUU ∧ g.param ≠ 0xF000) →
          (s'.ctx ctx).setting g.unit g.param = some g.value) ∧
        (unitCls g.unit = clsPLAN → (g.param = 1 → (s'.ctx ctx).heatUnits = g.value) ∧ (g.param = 4 → (s'.ctx ctx).stepCount = g.value) ∧
          (g.param = 2 → (s'.ctx ctx).holdDefault = if g.value = 0 then 4 else g.value) ∧
          (g.param = 3 → (s'.ctx ctx).overN = if g.value = 0 then 64 else g.value)) ∧
        (unitCls g.unit = clsUU → g.param = 0xF000 → ∀ r ∈ s'.regions, r.unit = g.unit → r.epoch = g.value % 2 ^ 32))

/-- Contexts are created, partitioned again and destroyed (R370 to R373): creation passes the checks of R370 or ends with the status of
the first that fails; a created context is EMPTY with its partition, its rings and sizes and no energy counted (R416), and RING_FAULT and the lost
events of its slot stay as they are (R380); a new partition replaces the old one; destruction withdraws what has not launched, and once its
pours have ended and its transfers have retired nothing of the context is left but what R373 keeps, and the optimiser codes that an export
in BOOT_HOLD names (R254). A PREEMPT of the context that came by the control ring ends with BAD_STATE then, which is the model's choice (log
99). -/
def Obligations.ContextsComeAndGo : Prop :=
  (∀ (s : State) (t : Nat) (c : Cmd) (p : Create) (payload : List Byte), let u := s.advance t
    let o := (u.entered c 0x20).1
    let v := (u.entered c 0x20).2
    let k := cmdTarget c
    let own : Bool := p.home < 8 && 3 ≤ p.n && p.n ≤ 16 && 4 ≤ p.m && p.m ≤ 16 && ringVaOk p.ringVa && ringVaOk p.cplVa &&
      p.tableBytes % 4096 == 0 && 65536 ≤ p.tableBytes && p.tableBytes ≤ 268435456
    u.takes c 0x20 = true → k < s.ctxs.length → k < s.rings.length → k < s.energyAt.length → (v.ctx k).created = false →
    (v.partCheck k payload own p.table p.tableBytes ≠ stOk → exec (.ctxCreate t c p payload) s =
      .next (v.complete o (v.partCheck k payload own p.table p.tableBytes) 0 0)) ∧
    (v.partCheck k payload own p.table p.tableBytes = stOk → ∃ z : State, exec (.ctxCreate t c p payload) s = .next (z.complete o stOk 0 0) ∧
      let y := z.ctx k
      y.created = true ∧ y.st = .empty ∧ y.home = p.home ∧ y.part = parsePart payload ∧ y.tableArea = p.table ∧
      (z.ring k).base = p.ringVa ∧ (z.ring k).cplBase = p.cplVa ∧ (z.ring k).cmdLog = p.n ∧ (z.ring k).cplLog = p.m ∧
      (z.ring k).tail = 0 ∧ (z.ring k).head = 0 ∧ (z.ring k).phase = true ∧ (z.ring k).fault = (v.ring k).fault ∧
      (z.ring k).evtLost = (v.ring k).evtLost ∧ (Sparse.wf 0 s.energy = true → z.ctxEnergy k = 0) ∧ z.energyAt.getD k 0 = 0)) ∧
  (∀ (s : State) (t : Nat) (c : Cmd) (payload : List Byte), let u := s.advance t
    let o := (u.entered c 0x21).1
    let v := (u.entered c 0x21).2
    let k := cmdTarget c
    let x := v.ctx k
    u.takes c 0x21 = true → k < s.ctxs.length → x.st = .empty → x.destroying = false →
    (v.partCheck k payload true x.tableArea x.tableBytes ≠ stOk → exec (.ctxPartition t c payload) s =
      .next (v.complete o (v.partCheck k payload true x.tableArea x.tableBytes) 0 0)) ∧
    (v.partCheck k payload true x.tableArea x.tableBytes = stOk → ∃ z : State, exec (.ctxPartition t c payload) s =
        .next (z.complete o stOk 0 0) ∧
      z.ctx k = { x with part := parsePart payload, freeSince := 0 } ∧ (∀ j, j ≠ k → z.ctx j = v.ctx j) ∧ z.mem = v.mem ∧
      (v.pwr.length = 8 → ∀ d < 8, (z.die d).settled = v.ft))) ∧
  (∀ (s : State) (t : Nat) (c : Cmd), let u := s.advance t
    let v := (u.entered c 0x22).2
    let k := cmdTarget c
    u.takes c 0x22 = true → (v.ctx k).destroying = false → k < s.ctxs.length → k < 16 → k < s.rings.length →
    ∃ z : State, (z.ctx k).destroying = true ∧ (z.ctx k).commit = none ∧ (z.ctx k).preempt = none ∧ z.noneHeld k ∧ z.mem = v.mem ∧
      exec (.ctxDestroy t c) s = .next (match (v.ring 16).out.find? (fun y => y.op = 0x12 && y.ctx == k) with
        | some p => z.complete p stBadState 0 0
        | none => z)) ∧
  (∀ (s : State) (t ctx : Nat) (o : OutCmd), ctx < s.ctxs.length → (s.ctx ctx).destroying = true → s.quiet ctx = true →
    (s.advance t).landing.any (fun r => r.ctx = ctx) = false → s.controlBusy ctx = false → (s.ring 16).out.find? (fun x => x.op = 0x22 && x.ctx == ctx) = some o → ctx < s.rings.length →
    ctx ≠ 16 → ∃ z : State, exec (.ctxDestroyComplete t ctx) s = .next (z.complete o stOk 0 0) ∧
      let y := z.ctx ctx
      y.created = false ∧ y.part = {} ∧ y.mould = none ∧ y.flags = [] ∧
      y.settings = (s.ctx ctx).settings.filter (fun g => unitCls g.unit = clsUU && g.param / 256 == 1) ∧ y.stage = [] ∧ y.commit = none ∧
      y.stepCount = (s.ctx ctx).stepCount ∧ y.heat = (s.ctx ctx).heat ∧ y.gen = (s.ctx ctx).gen ∧
      (∀ l ∈ z.tc, ∀ e ∈ l, e.ctx ≠ ctx) ∧ (∀ g ∈ z.tags, g.2 ≠ .bound ctx) ∧ (∀ i ∈ z.invals, i.ctx ≠ ctx))

/-- Pre-emption (R374 to R377): a RUNNING context stops at the first slot boundary at least 256 ns on, completes when its earlier pours
have ended, and reports that boundary; an ARMED one is LOADED at once; RESUME arms it again from there, but ends with BAD_STATE while a
commit is pending (R376). -/
def Obligations.PreemptionStopsAtABoundary : Prop :=
  (∀ (s : State) (t : Nat) (c : Cmd), let u := s.advance t
    let o := (u.entered c 0x12).1
    let v := (u.entered c 0x12).2
    let k := cmdTarget c
    let x := v.ctx k
    u.takes c 0x12 = true → x.haltPending = false → x.commit = none → x.preempt = none → x.preemptTaken = false →
    (x.st = .armed → ∃ z : State, exec (.preempt t c) s = .next (z.complete o stOk x.heat 0) ∧ (z.ctx k).st = .loaded ∧ z.noneHeld k ∧
      (z.ctx k).resume = none) ∧
    (x.st = .running → ∃ s' : State, exec (.preempt t c) s = .next s' ∧ (s'.ctx k).preempt = some (x.boundaryFrom (v.ft + 256)) ∧
      (s'.ctx k).st = .running ∧ s'.units = v.units ∧ s'.mem = v.mem)) ∧
  (∀ (s : State) (t ctx : Nat) (b : Nat × Nat), let u := s.advance t
    (s.ctx ctx).preempt = some b → (s.ctx ctx).preemptTaken = false →
    (u.ft < (s.ctx ctx).boundaryFt b → exec (.preemptTakeEffect t ctx) s = .next u) ∧
    ((s.ctx ctx).boundaryFt b ≤ u.ft → ∃ s' : State, exec (.preemptTakeEffect t ctx) s = .next s' ∧ (s'.ctx ctx).preemptTaken = true ∧
      ∀ e ∈ s'.units, ∀ h ∈ e.2.queue, h.ctx = ctx → h.due < (s.ctx ctx).boundaryFt b)) ∧
  (∀ (s : State) (t ctx : Nat) (b : Nat × Nat) (o : OutCmd), (s.ctx ctx).preempt = some b → (s.ctx ctx).preemptTaken = true →
    (s.ctx ctx).st = .running → s.quiet ctx = true → s.noneHeld ctx → s.outOf ctx 0x12 = some o →
    ∃ z : State, exec (.preemptComplete t ctx) s = .next (z.complete o stOk b.1 b.2) ∧ (z.ctx ctx).st = .loaded ∧ (z.ctx ctx).heat = b.1 ∧
      (z.ctx ctx).resume = some b.2 ∧ (z.ctx ctx).preempt = none ∧ (z.ctx ctx).flags = (s.ctx ctx).flags) ∧
  (∀ (s : State) (t ftStart off : Nat) (c : Cmd), let u := s.advance t
    let o := (u.entered c 0x12).1
    let v := (u.entered c 0x12).2
    let k := cmdTarget c
    let x := v.ctx k
    u.takes c 0x12 = true → (x.commit ≠ none → exec (.preemptResume t c ftStart) s = .next (v.complete o stBadState 0 0)) ∧
    (x.commit = none → x.resume = some off → x.st = .loaded → x.fabric = false → ftStart % 1024 = 0 → v.ft + 20480 ≤ ftStart →
    v.namesDisabled k = false → ∃ z : State, exec (.preemptResume t c ftStart) s = .next (z.complete o stOk 0 0) ∧ (z.ctx k).st = .armed ∧
      (z.ctx k).armFt = ftStart ∧ (z.ctx k).heat = x.heat ∧ (z.ctx k).skipBelow = off ∧ (z.ctx k).flags = x.flags ∧
      (z.ctx k).stepFlags = x.stepFlags))

/-- Units are drained, disabled and enabled (R378, R379), idle tolerances set (R421), energy reported (R416): DISABLE_UNIT closes a unit
with a deadline; at the deadline what has not ended is aborted, the unit is DISABLED and the reply counts it; ENABLE_UNIT opens it, and ends
with BAD_PARAM for a reserved unit id (R31). -/
def Obligations.UnitsAndPowerCommands : Prop :=
  (∀ (s : State) (t unit timeout : Nat) (c : Cmd), let u := s.advance t
    let v := (u.entered c 0x0D).2
    u.takes c 0x0D = true → canDisable unit = true → 1000 ≤ timeout → timeout ≤ 100000000 → (v.unit unit).disabled = false →
    (v.unit unit).drainBy = none → ∃ s' : State, exec (.disableUnit t c unit timeout) s = .next s' ∧
      (s'.unit unit).drainBy = some (v.ft + timeout) ∧ (s'.unit unit).queue = (v.unit unit).queue ∧
      (s'.unit unit).running = (v.unit unit).running ∧ (∀ k, k ≠ unit → s'.unit k = v.unit k) ∧ s'.ctxs = v.ctxs) ∧
  (∀ (s : State) (t unit due : Nat) (o : OutCmd), (s.unit unit).drainBy = some due → due ≤ (s.advance t).ft →
    (s.ring 16).out.find? (fun x => x.op = 0x0D && x.a == unit) = some o →
    let live : Nat := match (s.unit unit).running with | some r => if r.prog = .ended then 0 else 1 | none => 0
    ∃ z : State, exec (.disableTimeout t unit) s =
        .next (z.complete o stOk ((s.unit unit).queue.length + live + 2 ^ 32 * (s.unit unit).refused) 0) ∧
      (z.unit unit).disabled = true ∧ (z.unit unit).drainBy = none ∧ (z.unit unit).queue = [] ∧
      ((s.unit unit).queue = [] → live = 0 → z.ctxs = s.ctxs ∧ z.mem = s.mem)) ∧
  (∀ (s : State) (t unit : Nat) (c : Cmd), let u := s.advance t
    let o := (u.entered c 0x0E).1
    let v := (u.entered c 0x0E).2
    u.takes c 0x0E = true → (unitExists unit = false → exec (.enableUnit t c unit) s = .next (v.complete o stBadParam 0 0)) ∧
    (unitExists unit = true → (v.unit unit).disabled = true →
    ∃ z : State, exec (.enableUnit t c unit) s = .next (z.complete o stOk 0 0) ∧ (z.unit unit).disabled = false ∧
      (∀ k, k ≠ unit → z.unit k = v.unit k) ∧ z.ctxs = v.ctxs)) ∧
  (∀ (s : State) (t mask ltv : Nat) (c : Cmd), let u := s.advance t
    let o := (u.entered c 0x0F).1
    let v := (u.entered c 0x0F).2
    u.takes c 0x0F = true → v.pwr.length = 8 →
    ∃ z : State, exec (.setLtv t c mask ltv) s = .next (z.complete o stOk 
        (if 3000000 ≤ ltv then 3 else if 40000 ≤ ltv then 2 else if 1000 ≤ ltv then 1 else 0) 0) ∧
      ∀ d < 8, (z.die d).ltv = if bitOf mask d then ltv else (v.die d).ltv) ∧
  (∀ (s : State) (t : Nat) (c : Cmd), let u := s.advance t
    u.takes c 0x10 = true → exec (.energyQuery t c) s = .next ((u.entered c 0x10).2.complete (u.entered c 0x10).1 stOk
      (s.energyAt.getD (cmdTarget c) 0 / 10 ^ 9 % 2 ^ 64) s.energyEnd)) ∧
  (∀ (s : State) (t : Nat) (c : Cmd), let u := s.advance t
    u.takes c 0x11 = true → exec (.fence t c) s = .next (u.entered c 0x11).2.fences)

/-! Translation (chapter 12). -/

/-- A translation that a die's cache holds gives the address its leaf names when the leaf allows the access; else the walk from the
root does, through a pointer at each level above the leaf (R344 to R350). -/
def Obligations.TranslationFollowsTheTables : Prop :=
  (∀ (s : State) (t die ctx va need unit : Nat) (e : TcEntry), die < 8 → (s.ctx ctx).created = true → bitsOf va 63 56 = 0 →
    tcHit (s.tc.getD die []) ctx va = some e → s.upsets = [] →
    leafAllows e.leaf (match need with | 0 => .rd | 1 => .wr | _ => .atom) = true →
    ∃ s' : State, exec (.translationWalk t die ctx va need unit) s = .next s' ∧
      s'.resp = .value (if e.big then 2 ^ 30 * bitsOf e.leaf 57 30 + va % 2 ^ 30 else 2 ^ 26 * bitsOf e.leaf 57 26 + va % 2 ^ 26) ∧
      s'.mem = s.mem ∧ s'.ctxs = s.ctxs ∧ s'.units = s.units ∧ (∀ d, d ≠ die → s'.tc.getD d [] = s.tc.getD d [])) ∧
  (∀ (s w : State) (t die ctx va need unit leaf : Nat) (big : Bool), die < 8 → (s.ctx ctx).created = true → bitsOf va 63 56 = 0 →
    tcHit (s.tc.getD die []) ctx va = none →
    ((s.advance t).count .PTU_MISSES die 0 1).walkFrom (match need with | 0 => .rd | 1 => .wr | _ => .atom) ctx va = (w, .ok (leaf, big)) →
    exec (.translationWalk t die ctx va need unit) s = .next { w with
      tc := modAt (fun l => tcFill l ⟨ctx, if big then va >>> 30 else va >>> 26, big, leaf, false⟩) w.tc die
      resp := .value (leafAddr big leaf va) }) ∧
  (∀ (s : State) (need : Need) (c va e3 e2 e1 e0 : Nat), s.hcx.dir = [] → s.hcx.msgs = [] → s.hcx.down = none → s.hcx.found = none → s.ecc = [] →
    s.upsets = [] → (∀ x ∈ s.wcb, x.2.err = [] ∧ x.2.fill = false) → bitOf (s.reg .PTU_CTX_ROOT 0 c) 0 = true →
    let root := 2048 * bitsOf (s.reg .PTU_CTX_ROOT 0 c) 43 11
    let pte (table lo width : Nat) : Nat := leNat (s.peekBytes (table + 8 * bitsOf va (lo + width - 1) lo) 8)
    pte root 48 8 = e3 → pte (128 * bitsOf e3 43 7) 39 9 = e2 → pte (128 * bitsOf e2 43 7) 30 9 = e1 →
    pte (128 * bitsOf e1 43 7) 26 4 = e0 →
    (∀ e ∈ [e3, e2, e1], bitOf e 0 = true ∧ bitOf e 1 = false ∧ pointerOk e = true) →
    bitOf e0 0 = true → bitOf e0 1 = true → leafOk 0 e0 = true →
    (s.walkFrom need c va).2 = if leafAllows e0 need then .ok (e0, false) else .error ⟨stTranslationFault, 256 * (e0 / 256)⟩)

/-- MAP (R351): its checks come before any effect, in the order of their table, and the reply is OK when all pass; a leaf holds V, LEAF, the
permissions that FLAGS gives and the address of its page, and with PIN every die that the context touches holds its translation pinned
(R346, R349; one page whose tables exist, in memory with nothing in progress: no other byte changes). UNMAP and INVAL_TC
(R352 to R356): the range is to be invalidated on every die; at each die's invalidation point its entries of the range go; when the
transfers through them have retired the command completes with the FT of the last point, which PTU_CTX_INVAL_FT then shows. -/
def Obligations.MapsAndInvalidations : Prop :=
  (∀ (s : State) (t va ga pages size flags : Nat) (c : Cmd), let u := s.advance t
    let o := (u.entered c 0x06).1
    let v := (u.entered c 0x06).2
    let k := cmdTarget c
    let big : Bool := size = 1
    let n : Nat := if size = 1 then 2 ^ 30 else 2 ^ 26
    let trial := State.mapAll k ga flags big (bitOf flags 3) va (List.range pages) v
    u.takes c 0x06 = true →
    (pages = 0 ∨ 65536 < pages ∨ 1 < size ∨ 16 ≤ flags ∨ 2 ^ 58 ≤ ga ∨ va % n ≠ 0 ∨ ga % n ≠ 0 ∨ 2 ^ 56 < va + pages * n →
      exec (.mapPages t c va ga pages size flags) s = .next (v.complete o stBadParam 0 0)) ∧
    (1 ≤ pages → pages ≤ 65536 → size ≤ 1 → flags < 16 → va % n = 0 → ga % n = 0 → va + pages * n ≤ 2 ^ 56 → ga + pages * n ≤ 2 ^ 58 →
      (trial.2 = some .mapped → exec (.mapPages t c va ga pages size flags) s = .next (v.complete o stBadState 0 0)) ∧
      (trial.2 = none → (∀ i < pages, v.targetOk k (ga + i * n) big = true) →
        (bitOf flags 3 = true → ∀ d < 8, touchesDie (v.ctx k).part d = true → v.pinnedOf d k + pages ≤ (v.ctx k).part.allot.getD d 0) →
        exec (.mapPages t c va ga pages size flags) s = .next (trial.1.complete o stOk 0 0)))) ∧
  (∀ (s : State) (t va ga flags e3 e2 e1 : Nat) (c : Cmd), let u := s.advance t
    let o := (u.entered c 0x06).1
    let v := (u.entered c 0x06).2
    let k := cmdTarget c
    let pte (table lo width : Nat) : Nat := leNat (v.peekBytes (table + 8 * bitsOf va (lo + width - 1) lo) 8)
    let slot := 128 * bitsOf e1 43 7 + 8 * bitsOf va 29 26
    u.takes c 0x06 = true → flags < 16 → va % 2 ^ 26 = 0 → ga % 2 ^ 26 = 0 → va + 2 ^ 26 ≤ 2 ^ 56 → ga + 2 ^ 26 ≤ 2 ^ 58 → v.memoryQuiet →
    bitOf (v.reg .PTU_CTX_ROOT 0 k) 0 = true → pte (2048 * bitsOf (v.reg .PTU_CTX_ROOT 0 k) 43 11) 48 8 = e3 →
    pte (128 * bitsOf e3 43 7) 39 9 = e2 → pte (128 * bitsOf e2 43 7) 30 9 = e1 →
    (∀ e ∈ [e3, e2, e1], bitOf e 0 = true ∧ bitOf e 1 = false) → bitOf (leNat (v.peekBytes slot 8)) 0 = false →
    isTier1 slot = true ∨ isWs slot = true → v.targetOk k ga false = true →
    (bitOf flags 3 = true → ∀ d < 8, touchesDie (v.ctx k).part d = true → v.pinnedOf d k + 1 ≤ (v.ctx k).part.allot.getD d 0) →
    ∃ (z : State) (leaf : Nat), exec (.mapPages t c va ga 1 0 flags) s = .next (z.complete o stOk 0 0) ∧ leNat (z.peekBytes slot 8) = leaf ∧
      bitOf leaf 0 = true ∧ bitOf leaf 1 = true ∧ bitOf leaf 2 = bitOf flags 0 ∧ bitOf leaf 3 = bitOf flags 1 ∧ bitOf leaf 4 = bitOf flags 2 ∧
      bitsOf leaf 57 26 = ga / 2 ^ 26 ∧ leafOk 0 leaf = true ∧ (∀ a, a < slot ∨ slot + 8 ≤ a → z.peek a = v.peek a) ∧
      (bitOf flags 3 = false → z.tc = v.tc) ∧
      (bitOf flags 3 = true → z.tc.length = min v.tc.length 8 ∧ ∀ d < 8, d < v.tc.length → z.tc.getD d [] =
        if touchesDie (v.ctx k).part d = true then tcFill (v.tc.getD d []) ⟨k, va / 2 ^ 26, false, leaf, true⟩ else v.tc.getD d [])) ∧
  (∀ (s : State) (t va pages size : Nat) (c : Cmd) (w : State), let u := s.advance t
    let o := (u.entered c 0x07).1
    let v := (u.entered c 0x07).2
    let k := cmdTarget c
    let n : Nat := if size = 1 then 2 ^ 30 else 2 ^ 26
    u.takes c 0x07 = true → 1 ≤ pages → pages ≤ 65536 → size ≤ 1 → va % n = 0 → va + pages * n ≤ 2 ^ 56 →
    State.clearLeaves k (size = 1) ((List.range pages).map (fun i => va + i * n)) v = (w, true) →
    exec (.unmap t c va pages size) s = .next { w with
      invals := w.invals ++ [{ ctx := k, lo := va, hi := va + pages * n, unmap := true, dies := dies, cmd := o }] }) ∧
  (∀ (s : State) (t va pages size : Nat) (c : Cmd), let u := s.advance t
    let o := (u.entered c 0x08).1
    let v := (u.entered c 0x08).2
    let k := cmdTarget c
    let n : Nat := if size = 1 then 2 ^ 30 else 2 ^ 26
    u.takes c 0x08 = true →
    (exec (.invalTc t c va pages size true) s = .next { v with
      invals := v.invals ++ [{ ctx := k, lo := 0, hi := 2 ^ 56, unmap := false, dies := dies, cmd := o }] }) ∧
    (1 ≤ pages → pages ≤ 65536 → size ≤ 1 → va + pages * n ≤ 2 ^ 56 → exec (.invalTc t c va pages size false) s = .next { v with
      invals := v.invals ++ [{ ctx := k, lo := va, hi := va + pages * n, unmap := false, dies := dies, cmd := o }] })) ∧
  (∀ (s : State) (t die ctx : Nat) (i : Inval), s.invals.find? (fun i => i.ctx = ctx && i.dies.contains die) = some i →
    ∃ s' : State, exec (.tcInvalidation t die ctx) s = .next s' ∧ s'.mem = s.mem ∧ s'.ctxs = s.ctxs ∧
      s'.tc.getD die [] = (s.tc.getD die []).filter (fun e => !e.meets ctx i.lo i.hi) ∧
      (∀ d, d ≠ die → s'.tc.getD d [] = s.tc.getD d []) ∧
      ∃ i' ∈ s'.invals, i'.cmd = i.cmd ∧ die ∉ i'.dies ∧ i'.lastFt = (s.advance t).ft) ∧
  (∀ (s : State) (t ctx : Nat) (i : Inval), ctx < 16 → Sparse.wf 0#64 s.regs = true → i.lastFt < 2 ^ 64 →
    s.invals.find? (fun i => i.ctx = ctx && i.dies.isEmpty && i.retiring.all (s.advance t).retired) = some i →
    ∃ z : State, exec (.translationRetireDone t ctx) s = .next (z.complete i.cmd stOk i.lastFt 0) ∧
      (i.unmap = false → z.invals = s.invals.erase i ∧ (∀ d < 8, z.reg .PTU_CTX_INVAL_FT d ctx = i.lastFt) ∧ z.mem = s.mem ∧ z.tc = s.tc))

/-! Serving (R382 to R385). -/

/-- SEQ_ADMIT and SEQ_RETIRE wait for a decision; the decision for the next heat is made once, drops the sequences that are retired or
have reached their limit, holds their pages back for one heat, and never gives one page to two sequences. -/
def Obligations.SequencesAreServed : Prop :=
  (∀ (s : State) (t : Nat) (c : Cmd) (entries : List Admit), let u := s.advance t
    let o := (u.entered c 0x09).1
    let v := (u.entered c 0x09).2
    let k := cmdTarget c
    u.takes c 0x09 = true → (v.ctx k).active = true → entries ≠ [] → entries.length ≤ 16 → (∀ e ∈ entries, admitOk (v.ctx k).tpp e = true) →
    (entries.map Admit.slot).Nodup → (∀ e ∈ entries, v.slotBound e.slot = false) →
    exec (.seqAdmit t c entries) s = .next (v.setCtx k (fun x => { x with admits := x.admits ++ [(o, v.ft, entries.map (fun e =>
      { slot := e.slot, tokens := e.prompt, maxTokens := e.maxTokens, pageList := e.pageList, pages := []
        grow := e.prompt + 1, isNew := true, due := true }))] }))) ∧
  (∀ (s : State) (t : Nat) (c : Cmd) (slots : List Nat), let u := s.advance t
    let o := (u.entered c 0x0A).1
    let v := (u.entered c 0x0A).2
    let k := cmdTarget c
    u.takes c 0x0A = true → (v.ctx k).active = true → slots ≠ [] → slots.length ≤ 64 → (∀ x ∈ slots, x < 65536) → slots.Nodup →
    (∀ x ∈ slots, ∃ q ∈ (v.ctx k).seqs, q.slot = x ∧ q.retiring = false) →
    exec (.seqRetire t c slots) s = .next (v.setCtx k (fun x => { x with
      retires := x.retires ++ [(o, v.ft, slots)]
      seqs := x.seqs.map (fun q => if slots.contains q.slot then { q with retiring := true } else q) }))) ∧
  (∀ (s : State) (t ctx : Nat), let u := s.advance t
    let x := s.ctx ctx
    let n := x.nextHeat.1
    let start := x.nextHeat.2
    let named : List Nat := (x.retires.filter (fun r => decide (r.2.1 + 20480 ≤ start))).flatMap (fun r => r.2.2)
    let stays (q : SeqSt) : Bool := !named.contains q.slot && decide (q.grown.tokens < q.maxTokens)
    x.active = true → x.isServing = true → x.decidedFor n = false → start ≤ u.ft + 20480 → u.ft + 4096 ≤ start →
    (x.seqs.map SeqSt.slot).Nodup → x.pagesTaken.Nodup → (∀ a ∈ x.admits, ∀ q ∈ a.2.2, q.pages = []) →
    ∃ s' : State, exec (.seqDecision t ctx) s = .next s' ∧ (s'.ctx ctx).decided = some n ∧ (s'.ctx ctx).pagesTaken.Nodup ∧
      (s'.ctx ctx).heldPages = (x.seqs.filter (fun q => !stays q)).flatMap SeqSt.pages ∧
      (x.admits = [] → ∀ k, (∃ q ∈ (s'.ctx ctx).seqs, q.slot = k) ↔ ∃ q ∈ x.seqs, q.slot = k ∧ stays q = true))

/-! Heats, pours and the ending of a context by a fault (chapter 02). -/

/-- A heat of an ARMED or RUNNING context starts when the first die reaches its FT (R47, R64, R65): the next number, its length fixed, the
step flag word 0 but for a resume inside a heat, and the step count noted, which every pour of the heat takes as its epoch (R194); a pending
HALT, or a DIVERGED compare (R251), stops the context there instead, with the pours of the ended heat left (R66; that PLAN_HEAT_NUM keeps
its number is the model's choice, log 69), and before the heat's FT nothing happens.

A fault against a context that runs (R61, R66, R71, R375, R455): the context is FAULTED with the code, or HALTING when a HALT was
pending; its pending commit and pre-emption are gone and nothing handed over is left to launch. A context that is FAULTED, or whose HALT after
a fault is in progress, makes no further transition. -/
def Obligations.HeatsStartAndFaultsEndContexts : Prop :=
  (∀ (s : State) (t ctx : Nat), let u := (s.advance t).applyBy ctx (s.advance t).frontFt
     let x := u.ctx ctx
     x.active = true → x.destroying = false → x.preemptTaken = false →
     (u.frontFt < x.nextHeat.2 → exec (.heatStart t ctx) s = .next u) ∧
     (x.nextHeat.2 ≤ u.frontFt → x.haltPending = true ∨ x.diverged = true → u.outOf ctx 0x12 = none → ∃ s' : State, exec (.heatStart t ctx) s = .next s' ∧
       (s'.ctx ctx).st = .halting ∧ (s'.ctx ctx).heat = x.heat ∧ (s'.ctx ctx).commit = none ∧
       ∀ e ∈ s'.units, ∀ h ∈ e.2.queue, h.ctx = ctx → h.heat ≤ x.heat) ∧
     (x.nextHeat.2 ≤ u.frontFt → x.haltPending = false → x.diverged = false → x.preempt = none →
       ∃ s' : State, exec (.heatStart t ctx) s = .next s' ∧ let y := s'.ctx ctx
         (y.st = .running ∨ y.st = .faulted) ∧ y.heat = x.nextHeat.1 % 2 ^ 64 ∧ y.heatStart = x.nextHeat.2 ∧ y.span = 1024 * x.heatUnits ∧
         (x.st = .running ∨ x.skipBelow = 0 → y.stepFlags = 0 ∧ y.stepAtStart = x.stepCount ∧ (x.nextHeat.1 < 2 ^ 64 →
           ∀ e ∈ s'.units, ∀ h ∈ e.2.queue, h.ctx = ctx → h.heat = x.nextHeat.1 → h.heatEpoch = x.stepCount % 2 ^ 32)) ∧
         y.stepCount = x.stepCount ∧ y.flags = x.flags)) ∧
  (∀ (s : State) (t : Nat) (r : FaultIn), isStatus r.code = true → r.severity = 2 → r.ctx < 16 → (s.ctx r.ctx).created = true →
     (s.ctx r.ctx).hasFailed = false → (∀ d, s.noRelease t (.faultQueue d)) →
     ∃ s' : State, exec (.faultRecordArrive t [r]) s = .next s' ∧ let y := s'.ctx r.ctx
       y.commit = none ∧ y.preempt = none ∧ y.preemptTaken = false ∧ s'.noneHeld r.ctx ∧
       ((s.ctx r.ctx).haltPending = false → (s.ctx r.ctx).st ≠ .halting → y.st = .faulted ∧ y.lastCode = r.code) ∧
       ((s.ctx r.ctx).haltPending = true ∨ (s.ctx r.ctx).st = .halting → y.st = .halting) ∧
       y.flags = (s.ctx r.ctx).flags ∧ y.mould = (s.ctx r.ctx).mould ∧ y.heat = (s.ctx r.ctx).heat)

/-- A pour is handed to its unit, gets its descriptor, launches once its conditions hold at the FT of its die, and signals (R55 to R59); one
whose hold window ends before that is late and faults its context, also behind a pour that still waits (R61). An action that the unit's
class does not define, and a SWEEP that is not GATED, fault the context at dispatch (R230, R491); an uncorrectable entry of the sequencer
faults it too (R453). -/
def Obligations.PoursGoFromDispatchToSignal : Prop :=
  (∀ (s : State) (t ctx die index n : Nat) (p : Pour), let u := s.advance t
    let x := s.ctx ctx
    x.active = true → x.destroying = false → x.preemptTaken = false → x.mould.bind (fun m => (m.pours.getD die [])[index]?) = some p →
    (s.unit p.unit).disabled = false → (s.unit p.unit).drainBy = none → x.heatFor die index p false u.ft = some n →
    let known : Prop := ¬(unitCls p.unit = clsUU ∧ p.action = 1 ∧ p.gated = false) ∧ (descLen p.unit p.action).isSome = true
    (s.upsets = [] → known → ∃ s' : State, exec (.pourDispatch t ctx die index) s = .next s' ∧
      (∃ h : Held, (s'.unit p.unit).queue = (s.unit p.unit).queue ++ [h] ∧ h.ctx = ctx ∧ h.heat = n ∧ h.pour = p ∧
        h.due = x.startOf n + 64 * p.offset ∧ (h.desc.isSome = true ↔ descLen p.unit p.action = some 0)) ∧
      (s'.ctx ctx).handed = x.handed ++ [(n, die, index)] ∧ (∀ k, k ≠ p.unit → s'.unit k = s.unit k) ∧ s'.mem = s.mem) ∧
    (s.upsets = [] → ¬known → exec (.pourDispatch t ctx die index) s = .next
      ((u.setCtx ctx (fun x => { x with handed := x.handed ++ [(n, die, index)] })).faultCtx ctx stBadParam p.unit p.desc 0 p.offset)) ∧
    (∀ e bits, e = (x.entries.getD die (0, 0)).1 + index → (StoredWord.plan die e, bits) ∈ s.upsets → 2 ≤ popCount 64 bits →
      exec (.pourDispatch t ctx die index) s = .next (u.faultCtx ctx stMemUncorrectable (unitId die clsPLAN 0) e 0 0))) ∧
  (∀ (s w : State) (t unit : Nat) (h : Held) (raw : List Byte), (s.unit unit).queue.find? (fun h => h.desc.isNone) = some h →
    (s.advance t).readVa (unitDie unit) h.ctx h.pour.desc ((descLen unit h.pour.action).getD 0) = (w, .ok raw) →
    let w' := w.noteDesc unit h.pour.desc
    (descCheck (w'.ctx h.ctx).part h.pour raw ≠ stOk → exec (.descriptorArrive t unit) s =
      .next (w'.faultCtx h.ctx (descCheck (w'.ctx h.ctx).part h.pour raw) unit h.pour.desc 0 h.pour.offset)) ∧
    (descCheck (w'.ctx h.ctx).part h.pour raw = stOk → laddTag { h with desc := some raw } = none →
      exec (.descriptorArrive t unit) s = .next (w'.setUnit unit (fun y => { y with queue := giveDesc raw y.queue })))) ∧
  (∀ (s : State) (t unit : Nat) (h : Held) (rest : List Held), let a := s.advance t
    let u := a.applyBy h.ctx (max a.ft (a.unitFt unit))
    (s.unit unit).queue = h :: rest → (u.unit unit).queue = h :: rest → h.due ≤ a.unitFt unit →
    h.pour.overLast = false → u.skips h = false → u.unitFt unit ≤ u.holdEndOf h → u.clockRuns unit = true → u.ready unit h = true →
    Sparse.wf 0 (u.ctx h.ctx).flags = true →
    (h.pour.action ≠ 0 → (unitCls unit = clsME → ∀ seg n, u.veTouches (engineOf unit) seg n = none) →
      ∃ s' : State, exec (.pourLaunch t unit) s = .next s' ∧
      (s'.unit unit).queue = rest ∧ (∃ r, (s'.unit unit).running = some r ∧ r.held = h ∧ r.launched = u.ft ∧
        r.arith = u.arithNs (unitDie unit)) ∧ s'.mem = u.mem ∧
      (h.pour.wait ≠ 0xFFFF → (s'.ctx h.ctx).flag h.die h.pour.wait = (u.ctx h.ctx).flag h.die h.pour.wait - h.pour.waitCount)) ∧
    (h.pour.action = 0 → h.pour.signal ≠ 0xFFFF → h.pour.wait = 0xFFFF ∨ h.pour.wait ≠ h.pour.signal →
      (u.ctx h.ctx).flag h.die h.pour.signal < 65535 → ∃ s' : State, exec (.nopPour t unit) s = .next s' ∧ exec (.pourLaunch t unit) s = .next s' ∧
        (s'.unit unit).queue = rest ∧ (s'.unit unit).running = none ∧
        (s'.ctx h.ctx).flag h.die h.pour.signal = (u.ctx h.ctx).flag h.die h.pour.signal + 1)) ∧
  (∀ (s : State) (t unit : Nat) (h : Held), let u := s.advance t
    (s.ctx h.ctx).st = .running → (s.ctx h.ctx).destroying = false → (s.ctx h.ctx).withdraws h = false → u.holdEndOf h ≤ u.unitFt unit → u.skips h = false →
    h.pour.overLast = false →
    (∃ rest, (s.unit unit).queue = h :: rest ∧ (u.unitFt unit = u.holdEndOf h → u.clockRuns unit = true → u.ready unit h = false) ∧
      ∀ k ∈ rest, u.holdEndOf h ≤ u.holdEndOf k) ∨
    (∃ g pre post, (s.unit unit).queue = g :: (pre ++ h :: post) ∧ u.unitFt unit < u.holdEndOf g ∧
      (∀ k ∈ pre, u.holdEndOf h < u.holdEndOf k) ∧ ∀ k ∈ post, u.holdEndOf h ≤ u.holdEndOf k) →
    exec (.holdExpiry t unit) s = .next ((u.count .PLAN_LATE h.die h.ctx 1).faultCtx h.ctx stLateInput unit h.pour.offset 0 h.pour.offset)) ∧
  (∀ (s : State) (t unit : Nat) (r : Running), (s.unit unit).running = some r → r.prog = .ended →
    ∃ s' : State, exec (.pourSignal t unit) s = .next s' ∧ (s'.unit unit).running = none ∧
      (r.held.pour.signal = 0xFFFF → s'.ctxs = s.ctxs ∧ s'.mem = s.mem) ∧
      (r.held.pour.signal ≠ 0xFFFF → (s.ctx r.held.ctx).created = true → Sparse.wf 0 (s.ctx r.held.ctx).flags = true →
        (s.ctx r.held.ctx).flag r.held.die r.held.pour.signal < 65535 → s'.mem = s.mem ∧
        (s'.ctx r.held.ctx).flag r.held.die r.held.pour.signal = (s.ctx r.held.ctx).flag r.held.die r.held.pour.signal + 1))

/-! Numbers (chapters 03, 05). -/

/-- Decoding and encoding of numbers agree (R76, R78, R88, R89): in every format, an encoding that is no NaN converts to itself in every
rounding mode and counts nothing, but an infinity, which counts as non-finite. The GQ8 encoding 0x80 is left out, because R80 reads it as
-127. -/
def Obligations.EveryEncodingConvertsToItself : Prop :=
  ∀ (f : Fmt) (mode : RMode) (bits : Nat), bits < 2 ^ fmtWidth f → valOf f bits ≠ .nan → ¬(f = .gq8 ∧ bits = 0x80) →
    roundTo f mode (valOf f bits) = ⟨bits, false, vIsInf (valOf f bits)⟩

/-- A chunk sum does not depend on the order of its products (R128); a product split over two pours gives the bits of one pour when the
K of the first is a multiple of the chunk length (R108), and the same saturations (R132). -/
def Obligations.ChunkSumsAndSplitProducts : Prop :=
  (∀ (f : Fmt) (ps qs : List Val), ps.Perm qs → chunkSum f ps = chunkSum f qs) ∧
  (∀ (f : Fmt) (len : Nat) (a : Acc) (ps qs : List Val), 0 < len → ps.length % len = 0 →
    accumulate f len a (ps ++ qs) =
      ((accumulate f len (accumulate f len a ps).1 qs).1,
        (accumulate f len a ps).2 + (accumulate f len (accumulate f len a ps).1 qs).2))

/-! Matrix engines (chapter 04). -/

/-- A PRODUCT leaves its tile live with every element as R99 accumulates it, and touches nothing else; CONTINUE or DRAIN without the live
tile fails with BAD_STATE (R110); before its cycles have passed nothing happens (R116); a drain begins with its own cycles counted; the
writes of a drain fall in ascending cycles within the drain phase, columns 0 to 127 of every row before columns 128 to 255 (R122); its
last write reaches working store, and the tile stops being live unless RETAIN is set (R121, R122); a write that finds the tile queue full
waits, and the cycles waited count in ME_TQ_STALL and put off the rest of the drain (R124). No stored word has an error. -/
def Obligations.MatrixPoursRunAndDrain : Prop :=
  (∀ (s w w' : State) (t unit : Nat) (r : Running) (c : InClass) (oa ob : Opd) (la lb : Loaded), let u := s.advance t
    let d := parseProd 1 r.held.bytes
    let e := engineOf unit
    let f := accFmt d.acc
    unitCls unit = clsME → (s.unit unit).running = some r → r.held.pour.action = 1 → r.prog = .start → d.cls = some c →
    d.a = some oa → d.b = some ob → d.out = none → d.drains = false → (d.cont = true → ((s.eng e).tileOf d).isSome = true) →
    s.upsets = [] → u.passed (unitDie unit) r.arith (coreCycles 1 d) = true →
    ((u.followShare e).payProduct unit true).loadOpd (unitDie unit) oa (oa.extent true d.shape d.k).1 (oa.extent true d.shape d.k).2 = (w, some la) →
    w.loadOpd (unitDie unit) ob (ob.extent false d.shape d.k).1 (ob.extent false d.shape d.k).2 = (w', some lb) →
    ∃ s' : State, exec (.product t unit) s = .next s' ∧ s'.mem = w'.mem ∧ s'.ctxs = w'.ctxs ∧ (∀ x, x ≠ e → s'.eng x = w'.eng x) ∧
      (∃ r', (s'.unit unit).running = some r' ∧ r'.prog = .ended ∧ r'.held = r.held) ∧
      ∃ tile ∈ (s'.eng e).tiles, tile.seg = d.seg ∧ tile.shape = d.shape ∧ tile.fmt = d.acc ∧ tile.live = true ∧
        ∀ m < shapeM d.shape, ∀ n < shapeN d.shape,
          let start : Acc := match (s.eng e).tileOf d with
            | some o => if d.cont then accOf f (o.elems.getD (m * shapeN d.shape + n) (0, 0)) else .zero
            | none => .zero
          tile.elems.getD (m * shapeN d.shape + n) (0, 0) =
            accBits f (accumulate f c.chunk start ((List.range d.k).map (fun i => vMul (la.a oa m i) (lb.b ob i n)))).1) ∧
  (∀ (s : State) (t unit : Nat) (r : Running) (c : InClass) (oa ob : Opd), let u := s.advance t
    let d := parseProd 1 r.held.bytes
    unitCls unit = clsME → (s.unit unit).running = some r → r.held.pour.action = 1 → r.prog = .start → d.cls = some c →
    d.a = some oa → d.b = some ob →
    (d.cont = true → (s.eng (engineOf unit)).tileOf d = none → exec (.product t unit) s = .next (u.failPour unit stBadState 0 0)) ∧
    (d.cont = false → u.passed (unitDie unit) r.arith (coreCycles 1 d) = false → exec (.product t unit) s = .next u)) ∧
  (∀ (s : State) (t unit : Nat) (r : Running) (o : Drn), let u := s.advance t
    let d := parseProd 2 r.held.bytes
    unitCls unit = clsME → (s.unit unit).running = some r → r.held.pour.action = 2 → r.prog = .start → d.out = some o →
    ((s.eng (engineOf unit)).tileOf d = none → exec (.drain t unit) s = .next (u.failPour unit stBadState 0 0)) ∧
    (∀ tile, (s.eng (engineOf unit)).tileOf d = some tile →
      (u.passed (unitDie unit) r.arith (coreCycles 2 d) = false → exec (.drain t unit) s = .next u) ∧
      (u.passed (unitDie unit) r.arith (coreCycles 2 d) = true → s.upsets = [] → exec (.drain t unit) s = .next
        (((u.followShare (engineOf unit)).count .ME_BUSY (unitDie unit) (unitInst unit) (coreCycles 2 d)).drainTile
          unit r d o false tile)))) ∧
  (∀ (sh d : Nat) (o : Drn) (rows : List (List Byte × List Byte)), rows.length ≤ shapeM sh →
    let part := if passes sh = 2 then elemBytes o.fmt 128 else o.elemLen
    (drainSteps sh d o rows).Pairwise (fun p q => p.cycle ≤ q.cycle) ∧
    ∀ p ∈ drainSteps sh d o rows, p.cycle + d ≤ passes sh * shapeM sh * d ∧
      ∃ (h i : Nat) (row : List Byte × List Byte), h < passes sh ∧ rows[i]? = some row ∧ p.cycle = (h * shapeM sh + i) * d ∧
        p.elems.1 = o.off + i * o.stride + h * part ∧ (p.elems.2 = [] ∨ p.elems.2 = (row.1.drop (h * part)).take part)) ∧
  (∀ (s : State) (t unit start : Nat) (r : Running) (o : Drn) (p : DrainStep), let u := s.advance t
    let d := parseProd r.held.pour.action r.held.bytes
    let a := wsAt (unitDie unit) p.elems.1
    let b := p.elems.2
    unitCls unit = clsME → (s.unit unit).running = some r → r.prog = .draining [p] none start → d.out = some o → p.queue = [] →
    p.scales.2 = [] → start + 20 * p.cycle ≤ 17 * u.arithNs (unitDie unit) →
    start + 20 * drainCycles d.shape o d.fuse ≤ 17 * u.arithNs (unitDie unit) → s.ecc = [] → Memory.wf s.mem = true →
    ∃ s' : State, exec (.drainQueueResume t unit) s = .next s' ∧ s'.peekBytes a b.length = b ∧
      (∀ x, x < a ∨ a + b.length ≤ x → s'.cell x = s.cell x) ∧ (∃ r', (s'.unit unit).running = some r' ∧ r'.prog = .ended) ∧
      (d.drains = true → d.retain = false →
        ∀ tile ∈ (s'.eng (engineOf unit)).tiles, tile.overlaps d.seg (tileSegs d.shape d.acc) = false)) ∧
  (∀ (s : State) (t unit start : Nat) (r : Running) (o : Drn) (p : DrainStep) (rest : List DrainStep), let u := s.advance t
    let d := parseProd r.held.pour.action r.held.bytes
    let n := (17 * u.arithNs (unitDie unit) - (start + 20 * p.cycle)) / 20
    unitCls unit = clsME → (s.unit unit).running = some r → r.prog = .draining (p :: rest) none start → d.out = some o → p.queue ≠ [] →
    start + 20 * p.cycle ≤ 17 * u.arithNs (unitDie unit) → u.rowFull (engineOf unit) p.queue = true → (s.ctx r.held.ctx).lastCode = 0 →
    Sparse.wf 0#64 s.regs = true →
    ∃ s' : State, exec (.drainQueueResume t unit) s = .next s' ∧ s'.mem = s.mem ∧
      (∃ r', (s'.unit unit).running = some r' ∧ r'.held = r.held ∧ r'.prog = .draining (p :: rest) none (start + 20 * n)) ∧
      (s.reg .ME_TQ_STALL (unitDie unit) (unitInst unit) + n < countMax →
        s'.reg .ME_TQ_STALL (unitDie unit) (unitInst unit) = s.reg .ME_TQ_STALL (unitDie unit) (unitInst unit) + n))

/-! The training step and the exchange (chapters 07, 08). The descriptor of each pour has passed its check, the pour's time has passed,
and no stored word has an error. -/

/-- PACK, TIE and COMBINE (R183, R189 to R191, R200, R205). PACK reads the residual buffer of the parity of the step count and writes
the other one, its elements, the pack status word and the step flags; TIE folds the uses from the left into the buffer of use 0; COMBINE
joins (clamp to ±127) or takes each selected block, notes a differing scale byte, and writes no unselected block. -/
def Obligations.BucketsArePackedTiedAndCombined : Prop :=
  (∀ (s : State) (t unit c x y : Nat) (r : Running), let u := s.advance t
    let raw := r.held.bytes
    let at' (o : Nat) : Nat := wsAt (unitDie unit) (fieldAt raw o 4)
    let blocks := fieldAt raw 28 4
    let n := 32 * blocks
    let old := at' (4 + 4 * (c % 2))
    let new := at' (4 + 4 * ((c + 1) % 2))
    let g (i : Nat) : Nat := s.numAt 4 (at' 0 + 4 * i)
    let e (i : Nat) : Nat := s.numAt 4 (at' 0 + 4 * n + 4 * i)
    let p (i : Nat) : Nat := s.numAt 2 (old + 2 * i)
    let sc (i : Nat) : Nat := s.numAt 1 (at' 16 + i / 32)
    let out (i : Nat) : Packed :=
      gq8Pack (modeOf (fieldAt raw 36 1) (srHash (s.ctx r.held.ctx).seed (fieldAt raw 32 4) i r.held.heat))
        (bitOf (s.numAt 1 (at' 20 + i / 256)) (i / 32 % 8)) (sc i) (g i) (e i) (p i)
    s.runsPour unit clsLADD 0x10 r → r.prog = .packing c x y → laddCheck (s.ctx r.held.ctx).part (unitDie unit) 0x10 r.held.pour.offset raw = stOk →
    r.launched + portNs (128 + ceilDiv blocks 2) ≤ u.ft → s.errorFree → r.held.ctx < s.ctxs.length → (∀ i < n, sc i ≤ 0xF8) →
    rangesApart (at' 12) n new (2 * n) → rangesApart (at' 12) n (at' 24) 8 → rangesApart new (2 * n) (at' 24) 8 →
    ∃ s' : State, exec (.pack t unit) s = .next s' ∧ s'.endedOn unit r ∧
      (∀ i < n, s'.numAt 1 (at' 12 + i) = (out i).q ∧ s'.numAt 2 (new + 2 * i) = (out i).res) ∧
      (∀ a, (a < at' 12 ∨ at' 12 + n ≤ a) → (a < new ∨ new + 2 * n ≤ a) → (a < at' 24 ∨ at' 24 + 8 ≤ a) → s'.cell a = s.cell a) ∧
      let nf := blocksWith blocks (fun i => !vFinite (gradVal (g i) (e i) (p i)))
      let ab := blocksWith blocks (fun i => absurd (sc i) (gradVal (g i) (e i) (p i)))
      s'.numAt 8 (at' 24) = packStatus nf ab ∧
      (s'.ctx r.held.ctx).stepFlags = (s.ctx r.held.ctx).stepFlags ||| (2 ^ 16 * b2n (nf != 0) + 2 ^ 17 * b2n (ab != 0))) ∧
  (∀ (s : State) (t unit : Nat) (r : Running), let u := s.advance t
    let raw := r.held.bytes
    let n := fieldAt raw 0 4
    let uses := fieldAt raw 4 1
    let buf (k : Nat) : Nat := wsAt (unitDie unit) (fieldAt raw (8 + 4 * k) 4)
    let el (k i : Nat) : Acc := accOf .fp32 (s.numAt 4 (buf k + 4 * i), s.numAt 4 (buf k + 4 * n + 4 * i))
    s.runsPour unit clsLADD 0x11 r → r.prog = .start → laddCheck (s.ctx r.held.ctx).part (unitDie unit) 0x11 r.held.pour.offset raw = stOk →
    r.launched + portNs (64 + (uses - 1) * ceilDiv n 32) ≤ u.ft → s.errorFree →
    ∃ s' : State, exec (.tie t unit) s = .next s' ∧ s'.endedOn unit r ∧ s'.ctxs = s.ctxs ∧
      (∀ i < n, (s'.numAt 4 (buf 0 + 4 * i), s'.numAt 4 (buf 0 + 4 * n + 4 * i)) =
        accBits .fp32 ((countFrom 1 (uses - 1)).foldl (fun acc k => nodeSum .fp32 acc (el k i)) (el 0 i))) ∧
      (∀ a, a < buf 0 ∨ buf 0 + 8 * n ≤ a → s'.cell a = s.cell a)) ∧
  (∀ (s : State) (t unit : Nat) (r : Running), let u := s.advance t
    let raw := r.held.bytes
    let at' (o : Nat) : Nat := wsAt (unitDie unit) (fieldAt raw o 4)
    let sel := selected (fieldAt raw 16 4) (s.peekBytes (at' 8) (ceilDiv (fieldAt raw 16 4) 8))
    let val (s : State) (a : Nat) : Int := (gq8Read (s.numAt 1 a)).1
    s.runsPour unit clsLADD 2 r → r.prog = .start → laddCheck (s.ctx r.held.ctx).part (unitDie unit) 2 r.held.pour.offset raw = stOk →
    inBanks (s.ctx r.held.ctx).part (unitDie unit) (fieldAt raw 12 4) (33 * sel.length) = true →
    r.launched + portNs (64 + ceilDiv sel.length 2) ≤ u.ft → s.errorFree → r.held.ctx < s.ctxs.length →
    ∃ s' : State, exec (.combine t unit) s = .next s' ∧ s'.endedOn unit r ∧
      (∀ (j b : Nat), sel[j]? = some b → ∀ i < 32, val s' (at' 0 + 32 * b + i) =
        if fieldAt raw 22 1 = 1 then val s (at' 12 + 33 * j + i)
        else max (-127) (min 127 (val s (at' 0 + 32 * b + i) + val s (at' 12 + 33 * j + i)))) ∧
      (∀ a, (∀ b ∈ sel, a < at' 0 + 32 * b ∨ at' 0 + 32 * b + 32 ≤ a) → s'.cell a = s.cell a) ∧
      ((∀ j b, sel[j]? = some b → s.numAt 1 (at' 12 + 33 * j + 32) = s.numAt 1 (at' 4 + b)) → s'.ctxs = s.ctxs) ∧
      ((∃ j b, sel[j]? = some b ∧ s.numAt 1 (at' 12 + 33 * j + 32) ≠ s.numAt 1 (at' 4 + b)) →
        (s'.ctx r.held.ctx).stepFlags = (s.ctx r.held.ctx).stepFlags ||| 2 ^ 18))

/-- RENEW and its selection (R86, R206 to R208). After a committed step the sent blocks get their new key and scale; when none was
committed since the last RENEW only the bitmap is written. The selection has ⌈FRAC × BLOCKS / 16⌉ blocks: the refresh window, and outside
it those with the largest keys, the lower index first among equals. -/
def Obligations.RenewSelectsTheLargestKeys : Prop :=
  (∀ (s : State) (t unit c frac h : Nat) (r : Running), let u := s.advance t
    let raw := r.held.bytes
    let at' (o : Nat) : Nat := wsAt (unitDie unit) (fieldAt raw o 4)
    let n := fieldAt raw 20 4
    let stale : Prop := s.numAt 8 (at' 16) % 2 ^ 32 ≠ c % 2 ^ 32
    let sent (b : Nat) : Bool := bitOf (s.numAt 1 (at' 8 + b / 8)) (b % 8)
    let mags (b : Nat) : List Nat := (List.range 32).map (fun i => (gq8Read (s.numAt 1 (at' 0 + 32 * b + i))).1.natAbs)
    let key (s : State) (b : Nat) : Nat := s.numAt 4 (at' 12 + 4 * b)
    let sc (s : State) (b : Nat) : Nat := s.numAt 1 (at' 4 + b)
    s.runsPour unit clsLADD 3 r → r.prog = .packing c frac h → laddCheck (s.ctx r.held.ctx).part (unitDie unit) 3 r.held.pour.offset raw = stOk →
    r.launched + portNs (256 + n) ≤ u.ft → s.errorFree →
    (¬stale → ∃ s' : State, exec (.renew t unit) s = .next s' ∧ s'.endedOn unit r ∧ s'.ctxs = s.ctxs ∧
      s'.peekBytes (at' 8) (ceilDiv n 8) = bitmapOf n (selectBlocks ((List.range n).map (key s)) c frac) ∧
      (∀ a, a < at' 8 ∨ at' 8 + ceilDiv n 8 ≤ a → s'.cell a = s.cell a)) ∧
    (stale → (∀ b < n, sent b = true → sc s b ≤ 0xF8) → rangesApart (at' 12) (4 * n) (at' 4) n → rangesApart (at' 12) (4 * n) (at' 16) 8 →
      rangesApart (at' 12) (4 * n) (at' 8) (ceilDiv n 8) → rangesApart (at' 4) n (at' 16) 8 → rangesApart (at' 4) n (at' 8) (ceilDiv n 8) →
      rangesApart (at' 16) 8 (at' 8) (ceilDiv n 8) →
      ∃ s' : State, exec (.renew t unit) s = .next s' ∧ s'.endedOn unit r ∧ s'.ctxs = s.ctxs ∧ s'.numAt 8 (at' 16) = c % 2 ^ 32 ∧
        (∀ b < n, (sent b = true → key s' b = keyOf (mags b).sum (sc s b) ∧ sc s' b = gq8NextScale (sc s b) ((mags b).foldl max 0) h) ∧
          (sent b = false → key s' b = key s b ∧ sc s' b = sc s b)) ∧
        s'.peekBytes (at' 8) (ceilDiv n 8) = bitmapOf n (selectBlocks ((List.range n).map (key s')) c frac))) ∧
  (∀ (keys : List Nat) (c frac : Nat), 1 ≤ frac → frac ≤ 15 → keys.length ≤ 524288 → (∀ k ∈ keys, k < 2 ^ 32) →
    let n := keys.length
    let k := ceilDiv (frac * n) 16
    let sel := selectBlocks keys c frac
    let inWindow (b : Nat) : Prop := ∃ i < ceilDiv k 8, b = (c * ceilDiv k 8 + i) % n
    sel.Nodup ∧ sel.length = k ∧ (∀ b ∈ sel, b < n) ∧ (∀ b < n, inWindow b → b ∈ sel) ∧
    ∀ a < n, ∀ b < n, a ∈ sel → ¬inWindow a → b ∉ sel →
      keys.getD b 0 < keys.getD a 0 ∨ (keys.getD b 0 = keys.getD a 0 ∧ a < b))

/-- SEND, what a package accepts of one, and the tag table (R203, R204, R212). The selected blocks go out in ascending order, 124 to a
segment; a segment that fails a check writes nothing and counts in the counter of that check; DEST_FLAG rises when the last missing
segment of its SEND is there; a quarantined tag is free at its end, and the first waiting pour that names it binds it, which faults the
context of a pour of another one that names it (R210). -/
def Obligations.SegmentsAreSentAndChecked : Prop :=
  (∀ (s : State) (t unit : Nat) (r : Running), let u := s.advance t
    let raw := r.held.bytes
    let at' (o : Nat) : Nat := wsAt (unitDie unit) (fieldAt raw o 4)
    let dest := fieldAt raw 24 8
    let p := adderPort unit
    let sel := selected (fieldAt raw 16 4) (s.peekBytes (at' 8) (ceilDiv (fieldAt raw 16 4) 8))
    let n := ceilDiv sel.length 124
    s.runsPour unit clsLADD 1 r → laddCheck (s.ctx r.held.ctx).part (unitDie unit) 1 r.held.pour.offset raw = stOk → s.errorFree →
    s.ports.length = 16 → s.carries p = true → gaPkg dest ≠ s.pkgId → dest % 2 ^ 44 + 33 * sel.length ≤ 2 ^ 44 → (s.port p).tags = [] →
    (r.prog = .start → 0 < n → n ≤ 4096 → ∃ (s' : State) (l : List OutPkt), exec (.send t unit) s = .next s' ∧ s'.mem = s.mem ∧
      s'.ctxs = s.ctxs ∧ (∃ r', (s'.unit unit).running = some r' ∧ r'.prog = .waiting n n ∧ r'.held = r.held) ∧
      (s'.port p).waiting = (s.port p).waiting ++ l ∧ l.length = n ∧ ∀ (i : Nat) (w : OutPkt), l[i]? = some w →
        let blocks := (sel.drop (124 * i)).take 124
        let g := parseSeg (w.bytes.drop 32)
        w.ctx = r.held.ctx ∧ w.left = 0 ∧
        fieldAt w.bytes 0 1 = 0x06 ∧ fieldAt w.bytes 2 2 = gaPkg dest ∧ fieldAt w.bytes 8 8 = gaLocal dest + 4092 * i ∧
        g.tag = fieldAt raw 20 2 ∧ g.gen = (s.ctx r.held.ctx).gen % 256 ∧ g.kind = fieldAt raw 22 1 ∧ g.heat = r.held.heat % 65536 ∧
        g.src = s.pkgId ∧ g.first = 124 * i ∧ g.count = blocks.length ∧ g.segs = n ∧ g.dest = dest + 4092 * i ∧
        g.destFlag = fieldAt raw 32 2 ∧
        g.data = blocks.flatMap (fun b => s.peekBytes (at' 0 + 32 * b) 32 ++ s.peekBytes (at' 4 + b) 1)) ∧
    (r.prog = .waiting n n → s.portIdleFor unit = true → ∃ s' : State, exec (.send t unit) s = .next s' ∧ s'.endedOn unit r)) ∧
  (∀ (s w : State) (t port : Nat) (pkt : List Byte) (k : Pkt), (s.advance t).takePkt port [tSegment] pkt = (w, some k) →
    let g := parseSeg k.body
    let unit := unitId (port / 2) clsLADD (port % 2)
    let same (x : RxSend) : Bool := x.gen = g.gen && x.die == port / 2 && x.tag == g.tag && x.kind == g.kind && x.heat == g.heat && x.src == g.src
    let before := ((s.rx.find? same).map RxSend.got).getD []
    let got := if before.contains g.first then before else before ++ [g.first]
    g.kind < 2 →
    (∀ x, w.segCheck (port / 2) g = .error x → exec (.segment t port pkt) s = .next ((w.countAdder x unit 1).answer port k tWriteAck 0 [])) ∧
    (∀ c, w.segCheck (port / 2) g = .ok c → s.errorFree → (s.ctx c).flag (port / 2) g.destFlag < 65535 →
      ∃ s' : State, exec (.segment t port pkt) s = .next s' ∧ s'.peekBytes (gaLocal g.dest) g.data.length = g.data ∧
        (∀ a, a < gaLocal g.dest ∨ gaLocal g.dest + g.data.length ≤ a → s'.cell a = s.cell a) ∧
        (got.length = g.segs → (s'.ctx c).flag (port / 2) g.destFlag = (s.ctx c).flag (port / 2) g.destFlag + 1) ∧
        (got.length ≠ g.segs → s'.ctxs = s.ctxs ∧ ∃ x ∈ s'.rx, same x = true ∧ x.got = got))) ∧
  (∀ (s : State) (die : Nat) (g : Seg), g.kind < 2 →
    ((∀ c, s.tagSt g.tag ≠ some (.bound c)) → s.segCheck die g = .error .LADD_DROP_TAG) ∧
    (∀ c, s.tagSt g.tag = some (.bound c) → ((s.ctx c).st ≠ .running → s.segCheck die g = .error .LADD_DROP_TAG) ∧
      ((s.ctx c).st = .running → (g.gen ≠ (s.ctx c).gen → s.segCheck die g = .error .LADD_DROP_GEN) ∧
        (g.gen = (s.ctx c).gen → g.heat ≠ (s.ctx c).heat % 65536 → g.heat ≠ ((s.ctx c).heat + 2 ^ 64 - 1) % 65536 →
          s.segCheck die g = .error .LADD_DROP_HEAT)))) ∧
  (∀ (s : State) (t tag e : Nat), let u := s.advance t
    let waits : List Held := (s.units.flatMap (fun u => u.2.queue)).filter (fun h => laddTag h = some tag)
    s.tags.find? (fun x => x.1 = tag) = some (tag, .quarantined e) →
    (u.ft < e → exec (.tagQuarantineEnd t tag) s = .next u) ∧
    (e ≤ u.ft → (∀ h ∈ waits, ∀ k ∈ waits, h.ctx = k.ctx) → ∃ s' : State, exec (.tagQuarantineEnd t tag) s = .next s' ∧
      { s' with tags := s.tags } = u ∧ s'.tagSt tag = waits.head?.map (fun h => .bound h.ctx)) ∧
    (e ≤ u.ft → ∀ h rest, waits = h :: rest → ∃ s' : State, exec (.tagQuarantineEnd t tag) s = .next s' ∧
      ∀ k ∈ rest, k.ctx ≠ h.ctx → k.ctx < s.ctxs.length → (s.ctx k.ctx).created = true → (s.ctx k.ctx).st = .running →
        (s.ctx k.ctx).haltPending = false → (s'.ctx k.ctx).st = .faulted))

/-- What a node of the referee or barrier tree sends up at UP_AT (R213, R215, R216, R221): HEAT_TAG, the sum of the contributions, and
ready bits and flags that are good only when the node's own are and every child's word has come with this heat's tag and is good too. At
the root GO is set exactly when all ready bits are 1, all flags 0 and CONTRIB equals GROUP_SIZE: one missing child makes the step a
skip. -/
def Obligations.OneMissingChildSkipsTheStep : Prop :=
  ∀ (s : State) (t c unit : Nat) (barrier : Bool) (n : Node), let u := s.advance t
    let x := s.ctx c
    let root : Prop := fieldAt n.desc 10 2 = 0xFFFF
    let kids := children n.desc
    (s.ctx c).st ≠ .faulted → u.dueNode c unit barrier = some n → c < s.ctxs.length →
    let done : Prop := if barrier then ∃ go, x.verdict = some (n.heat, go) ∧ (go = true → x.meetsReady n.desc) else x.meetsReady n.desc
    let ready : Prop := done ∧ x.st = .running ∧ n.kept = false ∧ s.ftHeldOrLocked = true
    let clear : Prop := barrier = true ∨ (wordFlags x.stepFlags = 0 ∧ bitOf (s.reg .LADD_REF_CTRL 0 c) 0 = false)
    ∃ (s' : State) (w : Nat), exec (if barrier then .barrierUpAt t c unit else .refereeUpAt t c unit) s = .next s' ∧
      s'.nodes = s.nodes.map (fun m => if m = n then
        { n with up := some w, down := if fieldAt n.desc 10 2 = 0xFFFF then some w else n.down } else m) ∧
      bitsOf w 63 48 = n.heat % 65536 ∧
      bitsOf w 47 32 = (1 + (kids.map (fun p => ((n.heard p).map (fun v => bitsOf v 47 32)).getD 0)).sum) % 65536 ∧
      (w % 8 = 7 ↔ ready ∧ ∀ p ∈ kids, ∃ v, n.heard p = some v ∧ v % 8 = 7) ∧
      (wordFlags w = 0 ↔ clear ∧ ∀ p ∈ kids, ∃ v, n.heard p = some v ∧ wordFlags v = 0) ∧
      (wordGo w = true ↔ root ∧ w % 8 = 7 ∧ wordFlags w = 0 ∧ bitsOf w 47 32 = fieldAt n.desc 12 2)

/-- The referee's other steps (R215 to R221): a VERDICT or BARRIER pour begins its role; a child's word waits at the node, and one that
comes after the word went up is late; a down word is kept for C, and a verdict after C is late; a passing barrier word raises its flags; at C
the verdict is applied: the step count advances on go only. -/
def Obligations.VerdictsAreRelayedAndApplied : Prop :=
  (∀ (s : State) (t unit : Nat) (r : Running) (barrier : Bool), s.runsPour unit clsLADD (if barrier then 0x21 else 0x20) r → r.prog = .start →
    ∃ s' : State, exec (if barrier then .barrier t unit else .verdict t unit) s = .next s' ∧ s'.mem = s.mem ∧ s'.ctxs = s.ctxs ∧
      (∃ r', (s'.unit unit).running = some r' ∧ r'.prog = .waiting 0 0 ∧ r'.held = r.held) ∧
      ∃ n ∈ s'.nodes, n.ctx = r.held.ctx ∧ n.unit = unit ∧ n.heat = r.held.heat ∧ n.barrier = barrier ∧ n.desc = r.held.bytes ∧
        n.gen = (s.ctx r.held.ctx).gen ∧ n.start = r.held.due - 64 * r.held.pour.offset ∧ n.kept = false ∧ n.up = none ∧ n.down = none) ∧
  (∀ (s w : State) (t port c heat : Nat) (pkt : List Byte) (k : Pkt) (barrier : Bool) (n : Node),
    (s.advance t).takePkt port [tSegment] pkt = (w, some k) → let g := parseSeg k.body
    g.kind = (if barrier then 4 else 2) → w.segCheck (port / 2) g = .ok c → (s.ctx c).heatOf g.heat = some heat →
    s.nodes.find? (fun n => n.is c (s.ctx c).gen g.tag heat barrier) = some n →
    let v := w.countAdder .LADD_SEGS_RX (unitId (port / 2) clsLADD (port % 2)) 1
    exec (if barrier then .barrierUpRx t port pkt else .refereeUpRx t port pkt) s = .next (
      if n.up.isSome then v.count .LADD_REF_LATE 0 c 1
      else { v with nodes := v.nodes.map (fun m => if m = n then
        { n with words := n.words.filter (fun q => q.1 ≠ g.src) ++ [(g.src, leNat (g.data.take 8))] } else m) })) ∧
  (∀ (s w : State) (t port c : Nat) (pkt : List Byte) (k : Pkt) (barrier : Bool) (n : Node),
    (s.advance t).takePkt port [tSegment] pkt = (w, some k) → let g := parseSeg k.body
    let word := leNat (g.data.take 8)
    g.kind = (if barrier then 5 else 3) → w.segCheck (port / 2) g = .ok c →
    (s.nodes.filter (fun n => n.ctx = c && n.gen == (s.ctx c).gen && n.tag == g.tag && n.barrier == barrier && n.up.isSome)).find?
      (fun n => n.heat % 65536 = word >>> 48) = some n → n.down = none →
    ∃ s' : State, exec (if barrier then .barrierDownRx t port pkt else .refereeDownRx t port pkt) s = .next s' ∧
      s'.nodes = s.nodes.map (fun m => if m = n then
        { n with down := some word, applied := n.applied || (!barrier && decide (n.commit < (s.advance t).ft)) } else m) ∧
      (barrier = false → s'.ctxs = s.ctxs ∧ s'.mem = s.mem) ∧
      (barrier = true → wordGo word = false → s'.ctxs = s.ctxs ∧ s'.mem = s.mem) ∧
      (barrier = true → wordGo word = true → (∀ d < 8, fieldAt n.desc (96 + 2 * d) 2 = 0xFFFF ∨
          (fieldAt n.desc (96 + 2 * d) 2 < 1024 ∧ (s.ctx c).flag d (fieldAt n.desc (96 + 2 * d) 2) < 65535)) →
        ∀ d < 8, fieldAt n.desc (96 + 2 * d) 2 < 1024 → (s'.ctx c).flag d (fieldAt n.desc (96 + 2 * d) 2) =
          (s.ctx c).flag d (fieldAt n.desc (96 + 2 * d) 2) + 1)) ∧
  (∀ (s : State) (t c word : Nat) (n : Node), let u := s.advance t
    c < 16 → Sparse.wf 0#64 s.regs = true → (s.ctx c).st = .running →
    s.nodes.find? (fun n => n.ctx = c && n.gen == (s.ctx c).gen && !n.barrier && n.up.isSome && !n.applied && n.commit ≤ u.ft) = some n → n.down = some word →
    word < 2 ^ 64 → n.heat < 2 ^ 64 →
    ∃ s' : State, exec (.verdictApply t c) s = .next s' ∧ s'.reg .LADD_REF_LAST 0 c = word ∧ s'.reg .LADD_REF_LAST_HEAT 0 c = n.heat ∧
      (s'.ctx c).verdict = some (n.heat, wordGo word) ∧
      (s'.ctx c).stepCount = (if wordGo word then ((s.ctx c).stepCount + 1) % 2 ^ 64 else (s.ctx c).stepCount) ∧
      (wordGo word = true → s'.mem = s.mem ∧ ∀ e ∈ s'.units, ∀ h ∈ e.2.queue, h.ctx = c → h.heat = n.heat → h.pour.gated = true → h.go = true) ∧
      (wordGo word = false → ∀ e ∈ s'.units, ∀ h ∈ e.2.queue, h.ctx = c → h.heat = n.heat → h.pour.gated = true → u.ft < h.due)) ∧
  (∀ (s : State) (t c v : Nat), c < 16 →
    exec (.laddRefCtrlWrite t c v) s = .next (if bitOf v 0 then (s.advance t).setReg .LADD_REF_CTRL 0 c 1 else s.advance t))

/-! The update (chapter 09). -/

/-- One phase of a SWEEP or RESUME (R231, R232, R236, R237, R242, R495): the block in progress follows its tag. From OLD the moment phase
writes M1 and M2 (the 64 statistics in the factored mode) and then the tag; from MOMENTS_DONE the weight phase writes W and then the tag; the
copy phase leaves tag and weights alone; a phase that the tag has passed changes nothing; STATE 3, or a region that RESUME finds more than
one step away, ends the pour with BAD_STATE. The hyperparameters are those of the launch (R69). A phase that has begun goes on line by line,
in its order. After its last block a shard gets its digest entry, with the digest of R244 over its whole state; after its last shard the
pour ends, once its run time of R234 has passed, with the unit digest of R245 over the digests of the unit's shards (R246). -/
def Obligations.SweepPhasesFollowTheTag : Prop :=
  ∀ (s : State) (t unit b k : Nat) (w : Sweep) (resume : Bool) (r : Running) (rg : Region), let u := s.advance t
    let raw := r.held.bytes
    let x := s.sweepCtx r.held.ctx w
    let rs := s.tableRegions unit (fieldAt raw 0 4)
    let ch := channelOf unit
    let d := shardOf rg.desc
    let e := if resume then fieldAt raw 8 4 else (r.held.heatEpoch + 1) % 2 ^ 32
    let heat := if resume then fieldAt raw 16 8 else r.held.heat
    let hp := hyperOf (x.hyper unit d.group) e
    let fact := hp.opt == 4
    let st := tagState (s.chNum ch 8 (d.tag + 8 * b)) e
    let run (phases lines : Nat) : Instr := if resume then .resume t unit ⟨phases, lines⟩ else .sweep t unit ⟨phases, lines⟩
    let at' (s' : State) (v : Sweep) : Prop := ∃ r', (s'.unit unit).running = some r' ∧ r'.prog = .sweeping v ∧ r'.held = r.held
    let went (s' : State) (old' : Bool) : Prop := at' s' { w with phase := w.phase + 1, old := old' }
    let val (off i : Nat) : Val := valOf .fp32 (s.chNum ch 4 (off + 4096 * b + 4 * i))
    let grad (i : Nat) : Val := gradOf hp (gq8Read (s.numAt 1 (wsAt d.gdie (d.g + 1024 * b) + i))).1 (s.numAt 1 (wsAt d.gdie (d.gs + 32 * b) + i / 32))
    let stats : List Val := (List.range 64).map (fun j => valOf .fp32 (s.chNum ch 4 (d.m2 + 256 * b + 4 * j)))
    let bits (v : Val) : Nat := (roundTo .fp32 .rne v).bits
    let same (s' : State) (off i : Nat) : Prop := s'.chNum ch 4 (off + 4096 * b + 4 * i) = s.chNum ch 4 (off + 4096 * b + 4 * i)
    let word (off c i : Nat) : Nat := if i ∈ d.valids c then s.chNum ch 4 (off + 4096 * c + 4 * i) else 0
    let words (off c : Nat) : List Nat := (List.range (16 * d.groupsOf c)).map (fun j => word off c (2 * j) + 2 ^ 32 * word off c (2 * j + 1))
    let folded := (List.range d.blocks).flatMap (fun c => words d.w c ++ words d.m1 c ++
      (if fact then (List.range 32).map (fun j => s.chNum ch 8 (d.m2 + 256 * c + 8 * j)) else words d.m2 c))
    let total := rs.foldl (fun a r => a + (shardOf r.desc).phases) 0
    let timeOver := r.launched + stkNs (sweepCycles (fun d => x.hyper unit d.group 1) rs) ≤ u.ft
    let ends (s' : State) : Prop := let D := digestOfDigests ((s'.unitRegions unit).map (fun q => s'.chNum ch 16 (shardOf q.desc).dig))
      s'.endedOn unit r ∧ s'.reg .UU_DIGEST_LO (unitDie unit) (unitInst unit) = D % 2 ^ 64 ∧
      s'.reg .UU_DIGEST_HI (unitDie unit) (unitInst unit) = D / 2 ^ 64
    s.runsPour unit clsUU (if resume then 2 else 1) r → r.prog = .sweeping w → w.opened = true → s.memoryQuiet →
    (w.phase = total → w.writes = [] → (∀ q ∈ s.regions, (shardOf q.desc).dig % 32 = 0) → ∀ phases lines,
      (timeOver → ∃ s' : State, exec (run phases lines) s = .next s' ∧ ends s' ∧ s'.mem = s.mem ∧ s'.regions = s.regions) ∧
      (¬ timeOver → ∃ s' : State, exec (run phases lines) s = .next s' ∧ at' s' w ∧ s'.mem = s.mem ∧ s'.regions = s.regions)) ∧
    (phaseOf rs w.phase = some (rg, b, k) → rg ∈ s.regions → shardCheck x.part rg.desc fact = stOk → hp.opt < 5 →
    (d.arrays fact).Pairwise (fun a c => rangesApart a.1 a.2 c.1 c.2) →
    (resume = true → b = 0 → k = 0 → rg.epoch = e ∨ (rg.epoch + 1) % 2 ^ 32 = e) →
    (b < d.blocks → ∀ (off : Nat) (bs : List Byte) (rest : List (Nat × List Byte)), w.writes = (off, bs) :: rest → 0 < bs.length →
      off % 64 + bs.length ≤ 64 → off + bs.length ≤ 2 ^ 31 →
      ∃ s' : State, exec (run 0 1) s = .next s' ∧ s'.peekBytes (s.channelAddr ch off) bs.length = bs ∧
        (∀ a, a < s.channelAddr ch off ∨ s.channelAddr ch off + bs.length ≤ a → s'.peek a = s.peek a) ∧
        at' s' { w with writes := rest, phase := if rest = [] then w.phase + 1 else w.phase }) ∧
    (b < d.blocks → w.writes = [] →
      (k = 0 → st = 0 → (∀ g < d.groupsOf b, s.numAt 1 (wsAt d.gdie (d.gs + 32 * b) + g) ≤ 0xF8) →
        ∃ s' : State, exec (run 1 0) s = .next s' ∧ went s' true ∧ s'.chNum ch 8 (d.tag + 8 * b) = 2 ^ 32 * e + 1 ∧
          (∀ i ∈ d.valids b, same s' d.w i) ∧
          (fact = false → ∀ i ∈ d.valids b, let new := momentElem hp (val d.w i) (val d.m1 i) (val d.m2 i) (grad i)
            s'.chNum ch 4 (d.m1 + 4096 * b + 4 * i) = bits new.1 ∧ s'.chNum ch 4 (d.m2 + 4096 * b + 4 * i) = bits new.2) ∧
          (fact = true →
            (∀ i ∈ d.valids b, s'.chNum ch 4 (d.m1 + 4096 * b + 4 * i) = bits (fma32 hp.beta1 (val d.m1 i) (r32 (vMul hp.a1 (grad i))))) ∧
            let new := factStats hp stats ((d.valids b).map (fun i => (i, grad i)))
            new.length = 64 ∧ ∀ j < 64, s'.chNum ch 4 (d.m2 + 256 * b + 4 * j) = bits (new.getD j vZero)) ∧
          (b = 0 → ∀ q ∈ s'.regions, q.unit = unit → q.table = rg.table → q.shard = rg.shard → q.epoch = e % 2 ^ 32)) ∧
      (k = 0 → st = 1 ∨ st = 2 → ∃ s' : State, exec (run 1 0) s = .next s' ∧ went s' false ∧ s'.mem = s.mem ∧ s'.wcb = s.wcb) ∧
      (k = 1 → st = 1 → ∃ s' : State, exec (run 1 0) s = .next s' ∧ went s' w.old ∧ s'.chNum ch 8 (d.tag + 8 * b) = 2 ^ 32 * e + 2 ∧
        (∀ i ∈ d.valids b, same s' d.m1 i ∧ (fact = false → same s' d.m2 i) ∧ s'.chNum ch 4 (d.w + 4096 * b + 4 * i) =
          bits (weightElem hp (val d.w i) (val d.m1 i) (if fact then factV stats i else val d.m2 i))) ∧
        (fact = true → ∀ j < 64, s'.chNum ch 4 (d.m2 + 256 * b + 4 * j) = s.chNum ch 4 (d.m2 + 256 * b + 4 * j))) ∧
      (k = 1 → st = 2 → ∃ s' : State, exec (run 1 0) s = .next s' ∧ went s' w.old ∧ s'.mem = s.mem ∧ s'.wcb = s.wcb) ∧
      (k = 2 → st = 2 → ∃ s' : State, exec (run 1 0) s = .next s' ∧ went s' false ∧ s'.chNum ch 8 (d.tag + 8 * b) = s.chNum ch 8 (d.tag + 8 * b) ∧
        ∀ i ∈ d.valids b, same s' d.w i ∧
          (d.fmt = .bf16 → d.mode = 0 → s'.chNum ch 2 (d.c + 2048 * b + 2 * i) = (roundTo .bf16 .rne (val d.w i)).bits)) ∧
      (st = 3 → s.ctxs.length = 16 → x.created = true → x.hasFailed = false → ∃ s' : State, exec (run 1 0) s = .next s' ∧
        (s'.unit unit).running = none ∧ (s'.ctx r.held.ctx).lastCode = stBadState)) ∧
    (b = d.blocks → w.writes = [] → (∀ q ∈ s.regions, (shardOf q.desc).dig % 32 = 0) →
      ∃ s' : State, exec (run 1 0) s = .next s' ∧ s'.regions = s.regions ∧
        s'.chNum ch 16 d.dig = digestOf d.tid (d.index 0) e folded ∧ s'.chNum ch 4 (d.dig + 16) = e ∧ s'.chNum ch 4 (d.dig + 20) = 0 ∧
        s'.chNum ch 8 (d.dig + 24) = heat % 2 ^ 64 ∧
        (∀ a, a < s.channelAddr ch d.dig ∨ s.channelAddr ch d.dig + 32 ≤ a → s'.peek a = s.peek a) ∧
        (w.phase + 1 < total ∨ ¬ timeOver → went s' false) ∧ (w.phase + 1 = total → timeOver → ends s')))

/-- The merge of R249 finds the majority: a record that stands for a list of digests still does after a merge, whatever the tree, and a
digest that more than half of them share is the candidate. With GROUP_SIZE n, AGREE packages that agree and no record missing, the result
word says CLEAN, MAJORITY or DIVERGED as R250 gives it. -/
def Obligations.TheVoteFindsTheMajority : Prop :=
  (∀ d, standsFor [d] (d, 1)) ∧
  (∀ (as bs : List Nat) (a b : Nat × Nat), standsFor as a → standsFor bs b → standsFor (as ++ bs) (mergeVote a b)) ∧
  (∀ (ds : List Nat) (r : Nat × Nat) (x : Nat), standsFor ds r → ds.length < 2 * ds.count x → r.1 = x) ∧
  (∀ (heat n : Nat) (a : Tally3), n ≤ 16384 → a.agree ≤ n → (∀ l, a.low = some l → l.2 < 2 ^ 14) →
    let w := resultWord heat n a
    bitsOf w 63 48 = heat % 65536 ∧ bitsOf w 47 32 = a.agree ∧ bitsOf w 29 16 = (a.low.map Prod.snd).getD 0 ∧
    (a.missing = true → w % 4 = 3) ∧ (a.missing = false → (w % 4 = 0 ↔ a.agree = n) ∧
      (w % 4 = 1 ↔ 3 ≤ n ∧ n < 2 * a.agree ∧ a.agree < n) ∧ w % 4 ≠ 3))

/-- The compare and the repair, step by step (R247 to R252). A node merges the votes of its children with its own digest and sends the
candidate's record up, counts who agrees, and takes the words that come down; at C the context's compare registers show the result, and
DIVERGED marks the context. A REPAIR on a package that holds the minority asks SOURCE by READ requests for the digest entry of a shard
and, where it differs, for the shard block by block (R302); its pads of weights and moments are left alone (R227), and the epoch shows
that the copy is in progress until the digest entry is written last. Where the answers are whole lines, and that the parts come in this
order, is the model's choice (log 78). -/
def Obligations.ReplicasCompareAndRepair : Prop :=
  (∀ (s : State) (t unit : Nat) (r : Running), let c := r.held.ctx
    s.runsPour unit clsUU 3 r → r.prog = .start → c < 16 → Sparse.wf 0#64 s.regs = true →
    let units := sortBy id (((s.regions.filter (fun q => q.ctx = c)).map (fun q => q.unit)).eraseDups)
    let D := digestOfDigests (units.map (fun q => s.reg .UU_DIGEST_LO (unitDie q) (unitInst q) + 2 ^ 64 * s.reg .UU_DIGEST_HI (unitDie q) (unitInst q)))
    ∃ s' : State, exec (.compare t unit) s = .next s' ∧ s'.endedOn unit r ∧ s'.mem = s.mem ∧ s'.ctxs = s.ctxs ∧
      (lowestUnit (s.ctx c).part ≠ some unit → s'.cmps = s.cmps ∧ s'.regs = s.regs) ∧
      (lowestUnit (s.ctx c).part = some unit → s'.reg .UU_PKG_DIGEST_LO 0 c = D % 2 ^ 64 ∧ s'.reg .UU_PKG_DIGEST_HI 0 c = D / 2 ^ 64 % 2 ^ 64 ∧
        ∃ n ∈ s'.cmps, n.ctx = c ∧ n.gen = (s.ctx c).gen ∧ n.heat = r.held.heat ∧ n.desc = r.held.bytes ∧ n.begun = true ∧ n.digest = D)) ∧
  (∀ (s : State) (t c : Nat) (n : Cmp), let u := s.advance t
    s.readable → s.cmps.find? (fun n => s.cmpLives c n && n.begun && !n.voted && n.at64 0 ≤ u.ft) = some n →
    let area (i : Nat) : Nat := wsAt 0 (fieldAt n.desc 48 4 + 24 * i)
    let rec' (i : Nat) : Nat × Nat := (s.numAt 16 (area i), s.numAt 2 (area i + 16))
    let v := ((childPos n.desc).filter (fun i => n.votes.contains i)).foldl (fun a i => mergeVote a (rec' i)) (n.digest, 1)
    ∃ s' : State, exec (.compareVoteAt t c) s = .next s' ∧ s'.mem = s.mem ∧ s'.ctxs = s.ctxs ∧
      (fieldAt n.desc 12 2 = 0xFFFF → ∃ m ∈ s'.cmps, m = { n with voted := true, cand := some v.1 }) ∧
      (fieldAt n.desc 12 2 ≠ 0xFFFF → ({ n with voted := true } : Cmp) ∈ s'.cmps ∧
        (s.carries 0 = true → 0 < s.ports.length → ∃ w : OutPkt, (s'.port 0).waiting = (s.port 0).waiting ++ [w] ∧ w.ctx = c ∧
          fieldAt w.bytes 2 2 = fieldAt n.desc 12 2 ∧ (parseSeg (w.bytes.drop 32)).kind = 6 ∧
          wordsLE 8 3 (parseSeg (w.bytes.drop 32)).data = [v.1 % 2 ^ 64, v.1 / 2 ^ 64 % 2 ^ 64, v.2 % 65536]))) ∧
  (∀ (s : State) (t c : Nat) (n : Cmp), let u := s.advance t
    s.readable → s.cmps.find? (fun n => s.cmpLives c n && n.begun && !n.counted && n.at64 4 ≤ u.ft) = some n →
    let own : Tally3 := { agree := if n.cand = some n.digest then 1 else 0
                          low := if n.cand = some n.digest then some (fieldAt n.desc 44 2, s.pkgId) else none, missing := n.cand.isNone }
    let a := (childPos n.desc).foldl (fun a i => a.join (if n.counts.contains i then
      some (wordsLE 8 3 (s.peekBytes (wsAt 0 (fieldAt n.desc 48 4 + 24 * i)) 24)) else none)) own
    ∃ s' : State, exec (.compareCountAt t c) s = .next s' ∧ s'.mem = s.mem ∧ s'.ctxs = s.ctxs ∧
      (fieldAt n.desc 12 2 = 0xFFFF → ({ n with counted := true, result := some (resultWord n.heat (fieldAt n.desc 14 2) a) } : Cmp) ∈ s'.cmps) ∧
      (fieldAt n.desc 12 2 ≠ 0xFFFF → ({ n with counted := true } : Cmp) ∈ s'.cmps ∧
        (s.carries 0 = true → 0 < s.ports.length → ∃ w : OutPkt, (s'.port 0).waiting = (s.port 0).waiting ++ [w] ∧ w.ctx = c ∧
          fieldAt w.bytes 2 2 = fieldAt n.desc 12 2 ∧ (parseSeg (w.bytes.drop 32)).kind = 8 ∧
          wordsLE 8 3 (parseSeg (w.bytes.drop 32)).data = [a.agree % 65536 + (if a.missing then 2 ^ 16 else 0),
            (match a.low with | some l => l.1 + 2 ^ 16 * l.2 + 2 ^ 31 | none => 0) % 2 ^ 64, 0]))) ∧
  (∀ (s w : State) (t port c heat i : Nat) (pkt : List Byte) (k : Pkt) (n : Cmp),
    (s.advance t).takePkt port [tSegment] pkt = (w, some k) → let g := parseSeg k.body
    let words := wordsLE 8 3 g.data
    let adder := unitId (port / 2) clsLADD (port % 2)
    let v := w.countAdder .LADD_SEGS_RX adder 1
    let fits := (cmpPlace n.desc g).any (fun pos => inBanks (s.ctx c).part 0 (fieldAt n.desc 48 4 + pos) 24)
    (∀ drop, w.segCheck (port / 2) g = .error drop → 6 ≤ g.kind → g.kind ≤ 9 →
      exec (.compareRecordRx t port pkt) s = .next (w.countAdder drop adder 1)) ∧
    (w.segCheck (port / 2) g = .ok c → (s.ctx c).heatOf g.heat = some heat → s.cmpOf c heat = some n → 6 ≤ g.kind → g.kind ≤ 9 →
    (fits = false → exec (.compareRecordRx t port pkt) s = .next (w.countAdder .LADD_DROP_ADDR adder 1)) ∧ (fits = true →
    (g.kind = 6 → (childPos n.desc).find? (fun i => fieldAt n.desc (16 + 2 * i) 2 = g.src) = some i →
      exec (.compareRecordRx t port pkt) s = .next (if n.voted then v.count .UU_CMP_DROP 0 c 1
        else (v.putArea n (24 * i) words).setCmp n { n with votes := n.votes ++ [i] })) ∧
    (g.kind = 8 → (childPos n.desc).find? (fun i => fieldAt n.desc (16 + 2 * i) 2 = g.src) = some i →
      exec (.compareRecordRx t port pkt) s = .next (if n.counted then v.count .UU_CMP_DROP 0 c 1
        else (v.putArea n (24 * i) words).setCmp n { n with counts := n.counts ++ [i] })) ∧
    (g.kind = 7 → n.decided = false → n.cand = none → exec (.compareRecordRx t port pkt) s =
      .next ((v.putArea n 336 words).takeCand n (words.getD 0 0 + 2 ^ 64 * words.getD 1 0))) ∧
    (g.kind = 9 → n.decided = false → n.result = none → exec (.compareRecordRx t port pkt) s =
      .next ((v.putArea n 360 words).takeResult n (words.getD 0 0))) ∧
    (g.kind = 7 ∨ g.kind = 9 → n.decided = true → exec (.compareRecordRx t port pkt) s = .next (v.count .UU_CMP_DROP 0 c 1))))) ∧
  (∀ (s : State) (t c : Nat) (n : Cmp), let u := s.advance t
    c < 16 → Sparse.wf 0#64 s.regs = true → s.ctxs.length = 16 →
    s.cmps.find? (fun n => s.cmpLives c n && n.begun && !n.decided && n.at64 8 ≤ u.ft) = some n →
    (n.result = none → exec (.compareDecideAt t c) s =
      .next ((u.setCmp n { n with decided := true }).count .UU_CMP_INCOMPLETE 0 c 1)) ∧
    (∀ word d, n.result = some word → word < 2 ^ 64 → n.heat < 2 ^ 64 → n.cand = some d → d < 2 ^ 128 →
      ∃ s' : State, exec (.compareDecideAt t c) s = .next s' ∧
      s'.reg .UU_CMP_LAST 0 c = word ∧ s'.reg .UU_CMP_HEAT 0 c = n.heat ∧ s'.reg .UU_CMP_CAND_LO 0 c = d % 2 ^ 64 ∧
      s'.reg .UU_CMP_CAND_HI 0 c = d / 2 ^ 64 ∧ (word % 4 ≠ 2 → s'.ctxs = s.ctxs ∧ s'.mem = s.mem) ∧
      (word % 4 = 2 → (s.ctx c).st = .running → (s'.ctx c).diverged = true))) ∧
  (∀ (s : State) (t unit : Nat) (r : Running) (w : Sweep), let u := s.advance t
    let run (parts lines : Nat) : Instr := .repair t unit ⟨parts, lines⟩
    let at' (s' : State) (v : Sweep) : Prop := ∃ r', (s'.unit unit).running = some r' ∧ r'.prog = .sweeping v ∧ r'.held = r.held
    s.runsPour unit clsUU 4 r → r.prog = .sweeping w →
    (∀ parts lines, u.repairFrom r.held.ctx r.held.heat = none → exec (run parts lines) s = .next (u.ended unit)) ∧
    (∀ src, let rs := s.tableRegions unit (fieldAt r.held.bytes 0 4)
      u.repairFrom r.held.ctx r.held.heat = some src → w.opened = true →
      (∀ parts lines, rs[w.phase]? = none → exec (run parts lines) s = .next (if (u.keepDigest unit).2 then ((u.keepDigest unit).1.event r.held.ctx
        ⟨stDigestMismatch, 0, true, 0, r.held.heat, src + 2 ^ 32 * w.copied⟩).ended unit
        else (u.keepDigest unit).1.failPour unit stMemUncorrectable 0 0)) ∧
      (∀ (rg : Region) (img : Nat → Byte), let x := s.sweepCtx r.held.ctx w
        let ch := channelOf unit
        let d := shardOf rg.desc
        let b := w.part - 1
        let reads := if w.part = 0 then rangeReads (d.dig, 32) else (blockRanges d false b).flatMap rangeReads
        rs[w.phase]? = some rg → w.writes = [] → s.memoryQuiet → shardCheck x.part rg.desc false = stOk → x.factored unit d = false →
        (d.arrays false).Pairwise (fun a c => rangesApart a.1 a.2 c.1 c.2) → 0 < d.blocks →
        (w.asked = false → w.part ≤ d.blocks → ∀ p, s.route src = some p → reads.length ≤ (s.port p).freeTags.length → p < s.ports.length →
          ∃ (s' : State) (l : List OutPkt), exec (run 0 0) s = .next s' ∧ s'.mem = s.mem ∧ s'.regions = s.regions ∧
            at' s' { w with asked := true, awaits := reads.length, got := []
                            first := if w.first = 0 then s.channelAddr ch (reads.headD (0, 0)).1 + 2 ^ 44 * src else w.first } ∧ (s'.port p).waiting = (s.port p).waiting ++ l ∧
            l.length = reads.length ∧ ∀ (i : Nat) (q : Nat × Nat) (o : OutPkt), reads[i]? = some q → l[i]? = some o →
              fieldAt o.bytes 0 1 = 0x01 ∧ fieldAt o.bytes 2 2 = src % 2 ^ 14 ∧ fieldAt o.bytes 8 8 = s.channelAddr ch q.1 % 2 ^ 64) ∧
        (w.asked = true → w.awaits = 0 → (∀ q ∈ w.got, (q.1, q.2.length) ∈ reads ∧ ∀ j < q.2.length, q.2.getD j 0 = img (q.1 + j)) →
          (∀ q ∈ reads, ∃ g ∈ w.got, g.1 = q.1 ∧ g.2.length = q.2) →
          let from' (k off : Nat) : Nat := leNat ((countFrom off k).map img)
          (w.part = 0 → from' 20 d.dig = s.chNum ch 20 d.dig → ∃ s' : State, exec (run 0 0) s = .next s' ∧
            at' s' { w with phase := w.phase + 1, asked := false, got := [] } ∧ s'.mem = s.mem ∧ s'.wcb = s.wcb ∧ s'.regions = s.regions) ∧
          (w.part = 0 → from' 20 d.dig ≠ s.chNum ch 20 d.dig → ∃ s' : State, exec (run 0 0) s = .next s' ∧
            at' s' { w with part := 1, asked := false, got := [], entry := (countFrom d.dig 32).map img } ∧ s'.mem = s.mem ∧ s'.wcb = s.wcb ∧
            ∀ q ∈ s'.regions, q.unit = rg.unit → q.table = rg.table → q.shard = rg.shard → q.epoch = (rg.epoch ^^^ 0x80000000) % 2 ^ 32) ∧
          (1 ≤ w.part → w.part ≤ d.blocks → ∀ n, (copyWrites d false b w.got).length ≤ n → ∃ s' : State, exec (run 0 n) s = .next s' ∧
            at' s' { w with part := w.part + 1, asked := false, got := [] } ∧ s'.regions = s.regions ∧
            s'.chNum ch 8 (d.tag + 8 * b) = from' 8 (d.tag + 8 * b) ∧
            ∀ i < 32 * d.groupsOf b, ∀ off ∈ [d.w, d.m1, d.m2],
              s'.chNum ch 4 (off + 4096 * b + 4 * i) =
                if i ∈ d.valids b then from' 4 (off + 4096 * b + 4 * i) else s.chNum ch 4 (off + 4096 * b + 4 * i))) ∧
        (w.asked = true → w.awaits = 0 → w.part = d.blocks + 1 → w.entry.length = 32 → ∃ s' : State, exec (run 0 1) s = .next s' ∧
          at' s' { w with part := 0, phase := w.phase + 1, copied := w.copied + 1, asked := false, got := [] } ∧
          s'.chNum ch 32 d.dig = leNat w.entry ∧
          ∀ q ∈ s'.regions, q.unit = rg.unit → q.table = rg.table → q.shard = rg.shard → q.epoch = fieldAt w.entry 16 4))))

/-- EXPORT_SHARD writes a record whose header has MAGIC, COMPLETE and the shard's epoch, heat and digest, and replies its length, and a
limit that is too small ends it with BAD_PARAM; an export whose reads come later waits, and one of a shard that is being written ends with
EPOCH_FENCE (both log 78); DIGEST_QUERY replies the shard digest, or the unit digest (R253 to R256). -/
def Obligations.ShardsAreExported : Prop :=
  (∀ (s : State) (t unit shard dest limit : Nat) (c : Cmd) (v1 : State) (rg : Region), let u := s.advance t
    let o := (u.entered c 0x0B).1
    let v := (u.entered c 0x0B).2
    let k := cmdTarget c
    let d := shardOf rg.desc
    let x := v1.ctx rg.ctx
    let fact := x.factored rg.unit d
    let count := d.shape.getD 0 1 * prod (d.extent.drop 1)
    let total := 256 + 8 * count + (if fact then 256 * d.blocks else 4 * count)
    u.takes c 0x0B = true → v.namesUnit k unit = stOk → v.shardNamed unit shard = (v1, some rg) →
    (∀ late, limit < total → exec (.exportShard t c unit shard dest ⟨limit, late⟩) s = .next (v1.complete o stBadParam 0 0)) ∧
    (total ≤ limit → exec (.exportShard t c unit shard dest ⟨limit, true⟩) s =
      .next { v1 with exports := v1.exports ++ [⟨o, k, rg, dest, limit⟩] }) ∧
    (total ≤ limit → v1.exportHolds rg = false → exec (.exportShard t c unit shard dest ⟨limit, false⟩) s = .next (v1.complete o stEpochFence 0 0)) ∧
    (∀ (v2 v3 v4 : State) (entry w m1 m2 h : List Byte), total ≤ limit → v1.exportHolds rg = true →
      v1.chLoad (channelOf rg.unit) d.dig 32 = (v2, some entry) →
      State.exportArrays (channelOf rg.unit) d fact (List.range d.blocks) v2 = (v3, some (w, m1, m2)) →
      h = recordHeader d rg.desc (x.hyper rg.unit d.group 1) rg.epoch entry w.length m1.length m2.length →
      v3.putRecord k dest h (w ++ m1 ++ m2) = (v4, stOk) →
      exec (.exportShard t c unit shard dest ⟨limit, false⟩) s = .next (v4.complete o stOk total 0))) ∧
  (∀ (s : State) (r : Region), (s.exportHolds r = true ↔ (s.boot.st = .hold ∨ r ∈ s.regions) ∧ s.regionBusy r = false)) ∧
  (∀ (d : Shard) (raw entry : List Byte) (opt epoch w m1 m2 : Nat), entry.length = 32 → 4 ≤ raw.length → d.shape.length = 5 →
    d.origin.length = 5 → d.extent.length = 5 → opt < 256 → epoch < 2 ^ 32 → w < 2 ^ 64 → let h := recordHeader d raw opt epoch entry w m1 m2
    h.length = 256 ∧ fieldAt h 0 4 = 0x44524853 ∧ fieldAt h 4 2 = 1 ∧ fieldAt h 6 1 = opt ∧ fieldAt h 7 1 = 1 ∧
    fieldAt h 8 4 = fieldAt raw 0 4 ∧ fieldAt h 80 8 = fieldAt entry 24 8 ∧ fieldAt h 88 4 = epoch ∧ fieldAt h 96 16 = fieldAt entry 0 16 ∧
    fieldAt h 112 8 = w) ∧
  (∀ (s : State) (t unit shard : Nat) (c : Cmd), let u := s.advance t
    let o := (u.entered c 0x0C).1
    let v := (u.entered c 0x0C).2
    let k := cmdTarget c
    u.takes c 0x0C = true → v.namesUnit k unit = stOk → s.boot.st ≠ .hold →
    (shard = 0xFFFF → exec (.digestQuery t c unit shard) s =
      .next (v.complete o stOk (v.reg .UU_DIGEST_LO (unitDie unit) (unitInst unit)) (v.reg .UU_DIGEST_HI (unitDie unit) (unitInst unit)))) ∧
    (∀ (w : State) (rg : Region) (e : List Byte), shard ≠ 0xFFFF →
      v.regions.reverse.find? (fun r => r.unit = unit && r.shard == shard) = some rg →
      v.chLoad (channelOf unit) (shardOf rg.desc).dig 32 = (w, some e) →
      exec (.digestQuery t c unit shard) s = .next (w.complete o stOk (fieldAt e 0 8) (fieldAt e 8 8))))

/-! Memory (chapter 10). -/

/-- The rows of a stack channel and of the cores' uncached accesses (R260, R262, R264 to R268). A fenced read of another epoch gets no data;
a whole line goes straight to the DRAM; a partial write to a line not held starts a fill, which no earlier than 48 ns later gives the
whole line with the bytes merged, and one to a held line merges; a fill that failed ends the write that began it; an entry goes out 1,024 ns after its last write; a stripe exponent
changes only when no context owns a channel of the stack, and the stack's cells then stand under other addresses. An AMO, LR or SC on
working store, and any access to an unassigned address, is an access fault (R327). -/
def Obligations.ChannelsReadWriteAndCombine : Prop :=
  (∀ (s : State) (t a : Nat) (fence : Option Nat), let u := s.advance t
    isTier1 a = true → s.memoryQuiet →
    (∀ e, fence = some e → (∃ r ∈ s.epochsAt (64 * lineOf a), r ≠ e) →
      exec (.channelLineRead t a fence) s = .next { u with resp := .failed stEpochFence }) ∧
    ((∀ e, fence = some e → ∀ r ∈ s.epochsAt (64 * lineOf a), r = e) →
      ∃ s' : State, exec (.channelLineRead t a fence) s = .next s' ∧ s'.resp = .bytes (s.peekBytes (64 * lineOf a) 64) ∧ s'.mem = s.mem ∧
        s'.wcb = s.wcb)) ∧
  (∀ (s : State) (t a : Nat) (data : List Byte), isTier1 a = true → s.memoryQuiet →
    (a % 64 = 0 → data.length = 64 → ∃ s' : State, exec (.channelLineWrite t a data) s = .next s' ∧ s'.peekBytes a 64 = data ∧ s'.wcb = [] ∧
      ∀ b, b < a ∨ a + 64 ≤ b → s'.cell b = s.cell b) ∧
    (0 < data.length → a % 64 + data.length ≤ 64 → data.length ≠ 64 → ∃ s' : State, exec (.channelLineWrite t a data) s = .next s' ∧
      s'.wcb = [(lineOf a, { bytes := [], lastWrite := (s.advance t).ft, fill := true, writes := [(a % 64, data)] })] ∧ s'.mem = s.mem)) ∧
  (∀ (s : State) (t ln off : Nat) (w : Wcb) (data : List Byte), let u := s.advance t
    isTier1 (64 * ln) = true → ({ s with wcb := [] } : State).memoryQuiet → s.wcb = [(ln, w)] → 0 < data.length →
    off + data.length ≤ 64 →
    (w.fill = false → w.err = [] → w.bytes.length = 64 → data.length < 64 → ∃ s' : State, exec (.channelLineWrite t (64 * ln + off) data) s = .next s' ∧
      s'.wcb = [(ln, { w with bytes := overlay w.bytes off data, lastWrite := u.ft })] ∧ s'.mem = s.mem) ∧
    (ln ∈ s.failedFills → ∃ s' : State, exec (.wcbFillDone t ln) s = .next s' ∧ s'.resp = .failed stMemUncorrectable) ∧
    (w.fill = true → w.writes = [(off, data)] → data.length < 64 → ln ∉ s.failedFills → (u.ft < w.lastWrite + 48 → exec (.wcbFillDone t ln) s = .next u) ∧
      (w.lastWrite + 48 ≤ u.ft → ∃ s' : State, exec (.wcbFillDone t ln) s = .next s' ∧ s'.mem = s.mem ∧
        s'.wcb = [(ln, { bytes := overlay ((countFrom (64 * ln) 64).map s.cell) off data, lastWrite := u.ft })])) ∧
    (w.fill = false → w.err = [] → w.bytes.length = 64 → (u.ft < w.lastWrite + 1024 → exec (.wcbFlush t ln) s = .next u) ∧
      (w.lastWrite + 1024 ≤ u.ft → ∃ s' : State, exec (.wcbFlush t ln) s = .next s' ∧ s'.wcb = [] ∧ s'.peekBytes (64 * ln) 64 = w.bytes ∧
        ∀ b, b < 64 * ln ∨ 64 * ln + 64 ≤ b → s'.cell b = s.cell b))) ∧
  (∀ (s : State) (t die v : Nat), die < 8 → Sparse.wf 0#64 s.regs = true → Memory.wf s.mem = true → (∀ st < 16, s.stripe st ≤ 5) →
    ∃ s' : State, exec (.stkIlvWrite t die v) s = .next s' ∧
      { s' with regs := s.regs, mem := s.mem, ecc := s.ecc, wcb := s.wcb } = s.advance t ∧
      (∀ i < 2, s'.stripe (2 * die + i) =
        if bitsOf v (8 * i + 2) (8 * i) ≤ 5 ∧ s.stackUnowned (2 * die + i) = true then bitsOf v (8 * i + 2) (8 * i)
        else s.stripe (2 * die + i)) ∧
      ∀ a, s'.cell (if isTier1 a then s'.channelAddr (s.channelAt a).1 (s.channelAt a).2 else a) = s.cell a) ∧
  (∀ (s : State) (t core a n v : Nat), core < 192 → s.hcx.running = true → 0 < n → n ≤ 8 → let u := s.advance t
    let core' (x : CoreAccess) : Instr := .coreUncachedAccess t core a n x
    (isWs a = true → isWs (a + n - 1) = true → s.memoryQuiet →
      (∃ s' : State, exec (core' .load) s = .next s' ∧ s'.resp = .value (s.numAt n a) ∧ s'.mem = s.mem) ∧
      (∃ s' : State, exec (core' (.store v)) s = .next s' ∧ s'.numAt n a = v % 256 ^ n ∧ ∀ b, b < a ∨ a + n ≤ b → s'.cell b = s.cell b) ∧
      exec (core' .atomic) s = .next { u with resp := .accessFault }) ∧
    (s.hcx.down = none → s.hcx.found = none → isTier1 a = false → isWs a = false → isRegAddr a = false → ∀ x, exec (core' x) s = .next { u with resp := .accessFault }))

/-- A tile move (R275 to R277, R282, R283, R286, R494): tiles are issued in ascending order, tile t no earlier than 16 ns × t after the
launch, and a tile of another package goes out as its requests once its port has tags. A LOAD tile lands widened, from this package's memory
or from what the other package answered, and clears the dirty bit of its granule; a STORE tile lands narrowed, in the rounding mode of the
move (R83, R277), and one that DIRTY finds clean is skipped; an epoch that differs from the fence ends the tile with nothing written. Of a
STORE tile with a scale part and a part in another package the element part goes last, which is the model's choice (log 95). -/
def Obligations.TilesAreIssuedAndLand : Prop :=
  (∀ (s w : State) (t unit n first e g : Nat) (fl : List Fly) (r : Running), let u := s.advance t
    let act := r.held.pour.action
    let m := parseTm act r.held.bytes
    let src := m.wsOf (unitDie unit) n
    let w0 := if r.prog = .start then u.setProg unit (.moving 0 [] false 0 false) else u
    let moves (s' : State) (fl : List Fly) : Prop := ∃ r', (s'.unit unit).running = some r' ∧
      r'.prog = .moving (n + 1) fl false (if n = 0 then e else first) false
    isMover unit = true → (s.unit unit).running = some r → act ∈ [1, 2, 3] →
    (r.prog = .start ∧ n = 0 ∧ fl = [] ∨ r.prog = .moving n fl false first false ∧ n < m.tiles) →
    (r.prog ≠ .start → u.ft < r.launched + 16 * n → exec (.tileIssue t unit) s = .next u) ∧
    ((r.prog = .start ∨ r.launched + 16 * n ≤ u.ft) → w0.tileTarget unit r.held.ctx act m n = (w, .at e g) →
      let skip : Bool := act = 2 && m.dirty && Sparse.at? false s.clean (wsGranule src)
      (skip = true → n + 1 < m.tiles → (∀ x ∈ fl, x.tile ≠ n) → ∃ s' : State, exec (.tileIssue t unit) s = .next s' ∧ s'.mem = w.mem ∧
        moves s' fl) ∧
      (skip = false → gaPkg e = s.pkgId → (m.form.spart = 0 ∨ gaPkg g = s.pkgId) →
        ∃ s' : State, exec (.tileIssue t unit) s = .next s' ∧ s'.mem = w.mem ∧ moves s' (fl ++ [{ tile := n, elem := e, scale := g }])) ∧
      (∀ p, skip = false → gaPkg e ≠ s.pkgId → m.form.spart = 0 → e % 64 = 0 → w.readable → w.route (gaPkg e) = some p →
        2 ≤ (w.port p).freeTags.length → p < w.ports.length → (act = 3 → fl = []) →
        ∃ (s' : State) (o : OutPkt), exec (.tileIssue t unit) s = .next s' ∧ s'.mem = w.mem ∧
          moves s' (fl ++ [{ tile := n, elem := e, scale := g, awaits := 1 }]) ∧ (s'.port p).waiting = (w.port p).waiting ++ [o] ∧
          o.ctx = r.held.ctx ∧ fieldAt o.bytes 0 1 = (if act = 1 then tRead else if act = 2 then tWrite else tAtomic) ∧
          fieldAt o.bytes 2 2 = gaPkg e % 65536 ∧ fieldAt o.bytes 8 8 = gaLocal e ∧
          (act = 2 → o.bytes.drop 32 = (m.narrow (s.ctx r.held.ctx).seed r.held.heat n (w.peekBytes src 4096)).1) ∧
          (act = 3 → o.bytes.drop 32 = w.peekBytes src 4096)))) ∧
  (∀ (s : State) (t unit tile : Nat) (r : Running) (x : Fly), let u := s.advance t
    let m := parseTm 1 r.held.bytes
    let a := m.wsOf (unitDie unit) tile
    let e := r.held.heatEpoch
    let far (part : Nat) : Option (List Byte) := (x.got.find? (fun q => q.1 = part)).map Prod.snd
    let elems := (far 0).getD (s.peekBytes (gaLocal x.elem) m.form.epart)
    let scales := match far 1 with | some bs => bs.drop (x.scale % 64) | none => s.peekBytes (gaLocal x.scale) m.form.spart
    let parts := (if gaPkg x.elem = s.pkgId then [(gaLocal x.elem, m.form.epart)] else []) ++
      (if m.form.spart ≠ 0 ∧ gaPkg x.scale = s.pkgId then [(gaLocal x.scale, m.form.spart)] else [])
    s.flies unit 1 tile = some (r, x) → (∀ q ∈ parts, isTier1 q.1 = true) →
    ((far 0).isSome = true ↔ gaPkg x.elem ≠ s.pkgId) → (m.form.spart ≠ 0 → ((far 1).isSome = true ↔ gaPkg x.scale ≠ s.pkgId)) →
    (∀ bs, far 0 = some bs → bs.length = m.form.epart) → tmCheck (s.ctx r.held.ctx).part (unitDie unit) 1 r.held.bytes = stOk →
    tile < m.tiles → s.memoryQuiet →
    (m.fence = true → ∀ b found, s.fenceHit e parts = some (b, found) → exec (.tmLoad t unit tile) s =
      .next (u.tileFails unit tile stEpochFence (unitId ((s.channelAt b).1 / 64) clsSTK ((s.channelAt b).1 % 64)) b (e + 2 ^ 32 * found)).loseFound) ∧
    ((m.fence = true → s.fenceHit e parts = none) → ∃ s' : State, exec (.tmLoad t unit tile) s = .next s' ∧
      (m.form.fmts = none → s'.peekBytes a 4096 = elems) ∧
      (∀ wide nar i, m.form.fmts = some (wide, nar) → i < m.form.elems →
        (unpackElems wide (s'.peekBytes a 4096) m.form.elems).getD i 0 = if m.pad tile i then 0 else (roundTo wide .rne (
          let v := valOf nar ((unpackElems nar elems m.form.elems).getD i 0)
          if m.form.spart = 0 then v else scaledBy (scales.getD (i / 32) 0#8).toNat v)).bits) ∧
      (∀ b, b < a ∨ a + 4096 ≤ b → s'.peek b = s.peek b) ∧ Sparse.at? false s'.clean (wsGranule a) = true ∧
      ∀ n fl first arr, r.prog = .moving n fl false first arr → ∃ r', (s'.unit unit).running = some r' ∧
        (n = m.tiles → fl.filter (fun y => y.tile ≠ tile) = [] → arr = false → r'.prog = .ended) ∧
        (n < m.tiles → r'.prog = .moving n (fl.filter (fun y => y.tile ≠ tile)) false first arr))) ∧
  (∀ (s : State) (t unit tile : Nat) (r : Running) (x : Fly),
    let m := parseTm 2 r.held.bytes
    let a := gaLocal x.elem
    let g := gaLocal x.scale
    let src := s.peekBytes (m.wsOf (unitDie unit) tile) 4096
    let left (s' : State) : Prop := ∀ n fl first arr, r.prog = .moving n fl false first arr → n < m.tiles → ∃ r', (s'.unit unit).running = some r' ∧
      r'.prog = .moving n (fl.filter (fun y => y.tile ≠ tile)) false first arr
    s.flies unit 2 tile = some (r, x) → tmCheck (s.ctx r.held.ctx).part (unitDie unit) 2 r.held.bytes = stOk → tile < m.tiles → s.memoryQuiet →
    (x.got = [] → gaPkg x.elem = s.pkgId → isTier1 a = true → a % alignUnit m.form.epart = 0 →
      (m.form.spart = 0 ∨ gaPkg x.scale = s.pkgId ∧ isTier1 g = true ∧ g % m.form.spart = 0 ∧ rangesApart a m.form.epart g m.form.spart) →
      ∃ s' : State, exec (.tmStore t unit tile) s = .next s' ∧ left s' ∧ (m.form.fmts = none → s'.peekBytes a 4096 = src) ∧
        (∀ wide nar k, m.form.fmts = some (wide, nar) → k < m.form.elems →
          let val (j : Nat) : Val := valOf wide ((unpackElems wide src m.form.elems).getD j 0)
          let mode (j : Nat) : RMode :=
            modeOf m.mode (if m.mode = 2 then srHash (s.ctx r.held.ctx).seed m.tid (m.index tile j) r.held.heat else 0)
          let js := ((List.range 32).map (fun j => 32 * (k / 32) + j)).filter (fun j => !m.pad tile j)
          let scale := blockScale nar (js.map val)
          (m.form.spart ≠ 0 → s'.numAt 1 (g + k / 32) = scale) ∧
          (unpackElems nar (s'.peekBytes a m.form.epart) m.form.elems).getD k 0 =
            if m.form.spart = 0 then (roundTo nar (mode k) (val k)).bits
            else (((blockElems nar scale (js.map val) (js.map mode)).map (fun q => q.bits)).getD (k % 32) 0)) ∧
        ∀ b, (b < a ∨ a + m.form.epart ≤ b) → (m.form.spart = 0 ∨ b < g ∨ g + m.form.spart ≤ b) → s'.peek b = s.peek b) ∧
    (x.got = [] → gaPkg x.elem ≠ s.pkgId → m.form.spart = 0 → ∃ s' : State, exec (.tmStore t unit tile) s = .next s' ∧ left s' ∧ s'.mem = s.mem ∧ s'.wcb = s.wcb) ∧
    (∀ eb sb : List Byte, m.form.spart ≠ 0 → eb.length = m.form.epart → sb.length = m.form.spart →
      (gaPkg x.scale ≠ s.pkgId ∨ isTier1 g = true ∧ g % m.form.spart = 0 ∧ rangesApart a m.form.epart g m.form.spart) →
      (x.got = [(2, eb), (3, sb)] → gaPkg x.elem = s.pkgId → isTier1 a = true → a % alignUnit m.form.epart = 0 → gaPkg x.scale ≠ s.pkgId →
        ∃ s' : State, exec (.tmStore t unit tile) s = .next s' ∧ left s' ∧ s'.peekBytes a m.form.epart = eb ∧
          ∀ b, b < a ∨ a + m.form.epart ≤ b → s'.peek b = s.peek b) ∧
      (∀ p, x.got = [(2, eb), (3, sb)] → gaPkg x.elem ≠ s.pkgId → s.route (gaPkg x.elem) = some p → (s.port p).freeTags ≠ [] →
        p < s.ports.length → a % 64 = 0 → ∃ (s' : State) (o : OutPkt), exec (.tmStore t unit tile) s = .next s' ∧
          (gaPkg x.scale = s.pkgId → s'.peekBytes g m.form.spart = sb) ∧ (gaPkg x.scale ≠ s.pkgId → s'.mem = s.mem ∧ s'.wcb = s.wcb) ∧
          (s'.port p).waiting = (s.port p).waiting ++ [o] ∧ fieldAt o.bytes 0 1 = tWrite ∧ fieldAt o.bytes 8 8 = a ∧ o.bytes.drop 32 = eb ∧
          ∀ n fl f first arr, r.prog = .moving n fl f first arr → ∃ r', (s'.unit unit).running = some r' ∧ r'.prog =
            .moving n (fl.map (fun y => if y.tile = tile then { y with awaits := 1, got := [(4, [])] } else y)) f first arr) ∧
      (x.got = [(4, [])] → gaPkg x.elem ≠ s.pkgId → ∃ s' : State, exec (.tmStore t unit tile) s = .next s' ∧ left s' ∧ s'.mem = s.mem ∧
        s'.wcb = s.wcb)))

/-- Memory-side atomic operations (R269 to R272, R286): each element of the line becomes what R270 gives, the old line is returned, and an
ATOMIC tile applies its 64 lines in ascending order. Integer ADD, and MIN and MAX of every type, give the same final value in every order
of arrival. -/
def Obligations.AtomicsApplyOncePerLine : Prop :=
  (∀ (s : State) (t ln ty aop n : Nat) (f : Option Fmt) (ops : List Byte), isTier1 (64 * ln) = true → ops.length = 64 → aop < 4 →
    atomType ty = some (f, n) → s.memoryQuiet → let ch := (s.channelAt (64 * ln)).1
    let bad := ((List.range (64 / n)).filter (fun i => (atomElem f n aop (s.numAt n (64 * ln + n * i)) (fieldAt ops (n * i) n)).2)).length
    let old := s.reg .STK_ATOM_NONFINITE (ch / 64) (ch % 64)
    ∃ s' : State, exec (.atomicLineApply t ln ty aop ops) s = .next s' ∧
      s'.resp = .bytes (s.peekBytes (64 * ln) 64) ∧ (old + bad < countMax → s'.reg .STK_ATOM_NONFINITE (ch / 64) (ch % 64) = old + bad) ∧
      (∀ i < 64 / n, s'.numAt n (64 * ln + n * i) = (atomElem f n aop (s.numAt n (64 * ln + n * i)) (fieldAt ops (n * i) n)).1) ∧
      ∀ b, b < 64 * ln ∨ 64 * ln + 64 ≤ b → s'.peek b = s.peek b) ∧
  (∀ (s : State) (t unit tile : Nat) (r : Running) (x : Fly) (f : Option Fmt) (n : Nat), let m := parseTm 3 r.held.bytes
    let a := gaLocal x.elem
    let src := m.wsOf (unitDie unit) tile
    s.flies unit 3 tile = some (r, x) → (∀ k fl fd first arr, r.prog = .moving k fl fd first arr → ∀ y ∈ fl, tile ≤ y.tile) →
    gaPkg x.elem = s.pkgId → isTier1 a = true → a % 4096 = 0 → tmCheck (s.ctx r.held.ctx).part (unitDie unit) 3 r.held.bytes = stOk →
    tile < m.tiles → atomType m.atype = some (f, n) → s.memoryQuiet →
    ∃ s' : State, exec (.tmAtomic t unit tile) s = .next s' ∧
      (∀ i < 4096 / n, s'.numAt n (a + n * i) = (atomElem f n m.mode (s.numAt n (a + n * i)) (s.numAt n (src + n * i))).1) ∧
      (m.ret = true → s'.peekBytes src 4096 = s.peekBytes a 4096) ∧
      (∀ b, (b < a ∨ a + 4096 ≤ b) → (m.ret = false ∨ b < src ∨ src + 4096 ≤ b) → s'.peek b = s.peek b)) ∧
  (∀ (s : State) (t unit tile : Nat) (r : Running) (x : Fly), let m := parseTm 3 r.held.bytes
    let src := m.wsOf (unitDie unit) tile
    s.flies unit 3 tile = some (r, x) → (∀ k fl fd first arr, r.prog = .moving k fl fd first arr → ∀ y ∈ fl, tile ≤ y.tile) →
    gaPkg x.elem ≠ s.pkgId → tmCheck (s.ctx r.held.ctx).part (unitDie unit) 3 r.held.bytes = stOk → tile < m.tiles → s.memoryQuiet →
    ∃ s' : State, exec (.tmAtomic t unit tile) s = .next s' ∧
      (m.ret = false → s'.mem = s.mem ∧ s'.wcb = s.wcb) ∧
      (∀ old, m.ret = true → x.got = [(0, old)] → old.length = 4096 → s'.peekBytes src 4096 = old) ∧
      (∀ b, b < src ∨ src + 4096 ≤ b → s'.peek b = s.peek b)) ∧
  (∀ (f : Option Fmt) (n aop : Nat) (xs ys : List Nat) (m : Nat), (∃ ty, atomType ty = some (f, n)) → xs.Perm ys →
    (f = none ∧ aop ≤ 2 ∨ aop = 1 ∨ aop = 2) → m < 256 ^ n → (∀ x ∈ xs, x < 256 ^ n) →
    xs.foldl (fun m x => (atomElem f n aop m x).1) m = ys.foldl (fun m x => (atomElem f n aop m x).1) m) ∧
  (∀ (ty n m x : Nat), atomType ty = some (none, n) → m < 256 ^ n → x < 256 ^ n →
    atomElem none n 0 m x = ((m + x) % 256 ^ n, false) ∧ atomElem none n 3 m x = (x, false) ∧
    toInt (8 * n) (atomElem none n 1 m x).1 = min (toInt (8 * n) m) (toInt (8 * n) x) ∧
    toInt (8 * n) (atomElem none n 2 m x).1 = max (toInt (8 * n) m) (toInt (8 * n) x)) ∧
  (∀ (ty n m x aop : Nat) (f : Fmt), atomType ty = some (some f, n) → m < 256 ^ n → x < 256 ^ n → aop < 4 →
    (atomElem (some f) n 0 m x).1 = (roundTo f .rne (vAdd (valOf f m) (valOf f x))).bits ∧ (atomElem (some f) n 3 m x).1 = x ∧
    valOf f (atomElem (some f) n 1 m x).1 = vMin (valOf f m) (valOf f x) ∧ valOf f (atomElem (some f) n 2 m x).1 = vMax (valOf f m) (valOf f x) ∧
    ((valOf f m = .nan ∨ valOf f x = .nan) → aop < 3 → (atomElem (some f) n aop m x).1 = fmtNan f) ∧
    ((atomElem (some f) n aop m x).2 = true ↔ vFinite (valOf f (atomElem (some f) n aop m x).1) = false))

/-! The fabric (chapter 11). -/

/-- Link frames, replay, retrain and loss of a link (R293 to R298, R320 to R322). DATA is accepted in ascending FSEQ alone, and its whole
packets arrive in order; a frame that fails its CRC or comes out of order counts and is answered with a NAK of the last one accepted; an
ACK frees the frames it covers and a NAK sends the others again. A frame that goes out is numbered, spends credit for its packet and is
kept; the credits of a relayed packet return when its last byte leaves (R300). Within a VC packets keep their order of arrival, and the VC
that holds a packet of the context which would lack most of its share of 100 frames goes first (R371, log 84). What arrives of a packet
that is being relayed goes on at once. The link that stays out of UP for 2,000,000 ns goes DOWN: what the port held is gone, and its
transfers have ended. That the numbering begins again when a link has trained is the model's reading (log 45); an empty operand stands for a
frame with an uncorrectable FEC codeword (R452). -/
def Obligations.LinkFramesKeepTheirOrder : Prop :=
  ∀ (s : State) (t port : Nat), port < 16 → s.ports.length = 16 → let u := s.advance t
    let x := s.port port
    let q := (s.queue (.portReplay port)).entries
    let kept (ack : Nat) : List QEntry := q.drop (min (3 * x.ackCount (s.heldFrames port) ack) ((s.queue (.portReplay port)).rd - (s.queue (.portReplay port)).rp))
    let nak (frame : List Byte) : State := (u.count (if frame = [] then .PORT_FEC_UNCORR else .PORT_CRC_ERR) (port / 2) (port % 2) 1).setPort port (fun y => { y with
      lastTx := frameBytes 0 y.rxSeq 2 0 0 [], naks := u.ft :: y.naks.filter (fun f => decide (u.ft ≤ f + 1000000)) })
    (∀ frame, s.linkUp port = true → frameOk frame = false → exec (.linkFrameRx t port frame) s = .next (nak frame) ∧
      exec (.linkIdle t port frame) s = .next (nak frame) ∧ exec (.linkNak t port frame) s = .next (nak frame)) ∧
    (∀ frame, s.linkUp port = true → frameOk frame = true → frameKind frame = 0 →
      (frameSeq frame ≠ (x.rxSeq + 1) % 65536 → exec (.linkFrameRx t port frame) s = .next (nak frame)) ∧
      (frameSeq frame = (x.rxSeq + 1) % 65536 →
        let goes (s' : State) (part body : List Byte) : Prop := exec (.linkFrameRx t port frame) s = .next s' ∧ s'.mem = s.mem ∧
          s'.ctxs = s.ctxs ∧ (s'.port port).rxSeq = frameSeq frame ∧
          (∀ p, p ≠ port → s'.port p = if x.relay.bind Relay.out = some p then (s.port p).extend port part else s.port p) ∧
          (s'.port port).inbox = x.inbox ++ (splitPackets 4096 (x.receiving ++ body)).1 ∧
          (s'.port port).receiving = (splitPackets 4096 (x.receiving ++ body)).2 ∧
          (s'.queue (.portReplay port)).entries = kept (frameAck frame)
        (x.relay = none → ∃ s' : State, goes s' [] (frameBody frame)) ∧
        (∀ r, x.relay = some r → ∃ s' : State, goes s' ((frameBody frame).take r.left) ((frameBody frame).drop r.left) ∧
          (s'.port port).relay = if r.left ≤ 512 then none else some { r with left := r.left - 512 }))) ∧
    (∀ frame, s.linkUp port = true → frameOk frame = true → frameKind frame = 1 →
      ∃ s' : State, exec (.linkIdle t port frame) s = .next s' ∧ s'.port port = x.credited frame ∧ s'.mem = s.mem ∧ s'.regs = s.regs ∧
        (s'.queue (.portReplay port)).entries = kept (frameAck frame)) ∧
    (∀ frame, s.linkUp port = true → frameOk frame = true → frameKind frame = 2 → (∀ e ∈ q, e.bad = false) →
      ∃ s' : State, exec (.linkNak t port frame) s = .next s' ∧ s'.mem = s.mem ∧
        let again := kept (frameAck frame)
        (s'.queue (.portReplay port)).entries = again ∧ (s'.port port).txSeq = x.txSeq ∧
        (again ≠ [] → (s'.port port).lastTx = (again.drop (again.length - 3)).flatMap QEntry.bytes)) ∧
    (∀ w : OutPkt, s.linkUp port = true → x.sending = none → x.waiting = [w] → w.vc < 6 → w.ctx ≤ 16 → w.left = 0 → 0 < w.bytes.length →
      w.bytes.length ≤ 512 → w.units ≤ x.credits.getD w.vc 0 → (∀ v < 6, x.owed.getD v 0 = 0) →
      (s.queue (.portReplay port)).wr + 3 ≤ 1536 + (s.queue (.portReplay port)).rpSeen →
      ∃ s' : State, exec (.linkFrameTx t port) s = .next s' ∧ s'.mem = s.mem ∧ (s'.port port).lastTx = frameBytes x.txSeq x.rxSeq 0 0 0 w.bytes ∧
        (s'.port port).txSeq = (x.txSeq + 1) % 65536 ∧ (s'.port port).waiting = [] ∧ (s'.port port).sending = none ∧
        (s'.port port).credits.getD w.vc 0 = x.credits.getD w.vc 0 - w.units ∧ (s'.port port).senders = (w.ctx :: x.senders).take 100 ∧
        (∀ p v, w.came = some (p, v) → p ≠ port → p < 16 → v < (s.port p).owed.length →
          (s'.port p).owed.getD v 0 = (s.port p).owed.getD v 0 + w.units) ∧
        ∃ l : List QEntry, (s'.queue (.portReplay port)).entries = q ++ l ∧ l.length = 3 ∧
          l.flatMap QEntry.bytes = frameBytes x.txSeq x.rxSeq 0 0 0 w.bytes) ∧
    (∀ (y : PortSt) (share : Nat → Nat) (w : OutPkt), y.nextPacket share = some w → w ∈ y.waiting ∧ w.units ≤ y.credits.getD w.vc 0 ∧
      y.waiting.find? (fun z => z.vc = w.vc) = some w ∧
      let starts (h : OutPkt) : Bool := h.vc < 6 && y.waiting.find? (fun z => z.vc = h.vc) == some h && h.units ≤ y.credits.getD h.vc 0
      let longest := ((y.waiting.filter starts).map (fun h => (h.bytes.length + h.left + 511) / 512 + 1)).foldl max 0
      let lacks (z : OutPkt) : Nat := share z.ctx - (y.senders.take (100 - longest)).count z.ctx
      ∀ h ∈ y.waiting, starts h = true → ∀ z ∈ y.waiting, z.vc = h.vc → z.ctx < 16 → 0 < lacks z →
        ∃ z' ∈ y.waiting, z'.vc = w.vc ∧ z'.ctx < 16 ∧ lacks z ≤ lacks z') ∧
    (s.linkUp port = true → x.sending = none → x.nextPacket (s.portShare port) = none → (∀ v < 6, x.owed.getD v 0 = 0) →
      exec (.linkFrameTx t port) s = .next (u.setPort port (fun y => { y with lastTx := frameBytes 0 y.rxSeq 1 0 0 [] }))) ∧
    (x.link = .up → exec (.retrainEntry t port true) s = .next ((u.count .PORT_RETRAINS (port / 2) (port % 2) 1).setPort port
      (fun y => { y with link := .retrain, retrainFt := u.ft, naks := [] }))) ∧
    (∀ last, x.link = .retrain → u.ft ≤ x.retrainFt + 2000000 →
      (s.isDarzil port = false → exec (.retrainDone t port last) s = .next (u.setPort port (fun y => { y with link := .up }))) ∧
      (s.isDarzil port = true → (∀ e ∈ q, e.bad = false) → ∃ s' : State,
        exec (.retrainDone t port last) s = .next s' ∧ (s'.port port).link = .up ∧ (s'.port port).reported = some x.rxSeq ∧ s'.mem = s.mem ∧
        (s'.queue (.portReplay port)).entries = kept (last % 65536))) ∧
    (x.link = .retrain → (u.ft < x.retrainFt + 2000000 → exec (.portDown t port) s = .next u) ∧
      (x.retrainFt + 2000000 ≤ u.ft → ∃ s' : State, exec (.portDown t port) s = .next s' ∧ (s'.port port).link = .down ∧
        (s'.port port).waiting = [] ∧ (s'.port port).sending = none ∧ (s'.port port).inbox = [] ∧
        (s'.queue (.portReplay port)).entries = [] ∧ ∀ k ∈ s.heldTransfers port, k ≠ noUnit → (s'.unit k).running = none)) ∧
    (∀ peer, s.portMode port = 1 → x.link = .down ∨ x.link = .training → exec (.linkTrained t port true peer) s =
      .next ((u.setPort port (fun y => { y with
        link := .up, trained := true, peer := some (peer % 2 ^ 14), txSeq := 0, rxSeq := 65535
        credits := List.replicate 6 1024, owed := List.replicate 6 0 })).notePorts (port / 2)))

/-- Requests at their home, and what comes back (R299, R303 to R305, R310, R311, R317). A packet for another package goes on by the
route table, with its age below the limit, also while the rest of it still arrives (R300); a request that no window admits is refused with
ERROR code ADDRESS and nothing applied; READ, WRITE, WRITE_MASKED, ATOMIC and ARRIVAL do what their type says and are answered; a fenced read
that finds another epoch is recorded by its channel and refused (R195, log 95); a response frees the tag of its request, which goes on, also
that of a repair or of Meilamo (R302, log 88), and an ERROR or an age of 2,000,000 ns ends it. -/
def Obligations.RequestsAreServedAndAnswered : Prop :=
  ∀ (s w : State) (t port : Nat) (pkt : List Byte) (k : Pkt), s.ports.length = 16 → let u := s.advance t
    let from' (typ : Nat) : Prop := u.takePkt port [typ] pkt = (w, some k) ∧ k.body.length = payloadLen k
    let admits (need : Nat) : Prop := w.admitting k (max k.len 1) need ≠ []
    let lines (most : Nat) : Prop := k.addr % 64 = 0 ∧ k.len % 64 = 0 ∧ 64 ≤ k.len ∧ k.len ≤ most ∧ isRegAddr k.addr = false
    let same (z : State) : Prop := z.ports = w.ports ∧ z.routes = s.routes ∧ z.ctxs = s.ctxs
    let outside (z : State) : Prop := ∀ a, a < k.addr ∨ k.addr + k.len ≤ a → z.peek a = s.peek a
    let tagged (r : Req) : Prop := (s.port k.port).tags.find? (fun r => r.tag = k.tag && r.birth == k.birth) = some r
    let freed (r : Req) : State := w.setPort k.port (fun x => { x with
      tags := x.tags.filter (fun q => q ≠ r)
      late := (if r.lost || (k.typ == 0x8F && k.ops == 3) then [r] else []) ++ x.late.filter (fun q => w.reqAge q < 2000000) })
    (∀ p, parsePkt pkt = some k → port < 16 → k.typ ≠ 0 → k.dst ≠ s.pkgId →
      let units := ceilDiv (32 + payloadLen k) 64
      let out (left : Nat) : OutPkt := { vc := u.vcOut p k, left := left, units := units, came := some (port, k.vc)
                                         bytes := pkt.take 1 ++ leBytes 1 (u.vcOut p k) ++ pkt.drop 2 ++
                                           (if left = 0 then List.replicate (stepBytes pkt.length - pkt.length) 0#8 else []) }
      ((s.port port).first s.pkgId pkt = true → let v := u.setPort port (fun x => { x with inbox := x.inbox.erase pkt })
        (1999000 ≤ u.age k → exec (.packetRelay t port pkt) s =
          .next ((v.count .PORT_EXPIRED (port / 2) (port % 2) 1).giveBack (some (port, k.vc)) units)) ∧
        (2 ≤ pkt.length → u.age k < 1999000 → u.route k.dst = some p → exec (.packetRelay t port pkt) s =
          .next (v.setPort p (fun x => { x with waiting := x.waiting ++ [out 0] }))) ∧
        (u.age k < 1999000 → u.route k.dst = none → classOf k.typ = 0 → exec (.packetRelay t port pkt) s =
          .next (((v.count .PORT_NO_ROUTE (port / 2) (port % 2) 1).giveBack (some (port, k.vc)) units).answer port k 0x8F 3 []))) ∧
      ((s.port port).first s.pkgId pkt = false → (s.port port).receiving = pkt →
        { s.port port with inbox := (s.port port).inbox ++ [pkt] : PortSt }.first s.pkgId pkt = true → 2 ≤ pkt.length →
        pkt.length < stepBytes (32 + payloadLen k) → u.age k < 1999000 → u.route k.dst = some p →
        let left := stepBytes (32 + payloadLen k) - pkt.length
        exec (.packetRelay t port pkt) s = .next (((u.setPort port (fun x => { x with receiving := [] })).setPort p
          (fun x => { x with waiting := x.waiting ++ [out left] })).setPort port
          (fun x => { x with relay := some { out := some p, vc := k.vc, units := units, left := left } })))) ∧
    (let refused : State := (w.count .PORT_REFUSED (port / 2) (port % 2) 1).answer port k 0x8F 1 [];
      isRegAddr k.addr = false → (from' 1 → ¬admits 2 → exec (.pktRead t port pkt) s = .next refused) ∧
      (from' 2 → ¬admits 4 → exec (.pktWrite t port pkt) s = .next refused) ∧
      (from' 3 → ¬admits 4 → exec (.pktWriteMasked t port pkt) s = .next refused) ∧
      (from' 4 → ¬admits 8 → exec (.pktAtomic t port pkt) s = .next refused) ∧
      (from' 5 → ¬admits 4 → exec (.pktArrival t port pkt) s = .next refused)) ∧
    (∀ x : RegRef, isRegAddr k.addr = true → k.len = 8 → k.addr % 8 = 0 → regAt k.addr = some x →
      (from' 1 → admits 18 → exec (.pktRead t port pkt) s = .next ((w.readReg x).1.answer port k 0x81 0 (leBytes 8 (w.readReg x).2))) ∧
      (from' 2 → admits 20 → exec (.pktWrite t port pkt) s = .next ((w.writeReg x (leNat k.body)).answer port k 0x82 0 []))) ∧
    (from' 1 → lines 4096 → admits 2 → s.memoryQuiet →
      (∀ a found, bitOf k.ops 6 = true → w.fenceHit k.epoch [(k.addr, k.len)] = some (a, found) → let ch := (w.channelAt a).1
        exec (.pktRead t port pkt) s = .next ((w.raise stEpochFence (unitId (ch / 64) clsSTK (ch % 64)) 0xFF 1 a
          (k.epoch + 2 ^ 32 * found)).answer port k 0x8F 4 [])) ∧
      (bitOf k.ops 6 = false ∨ w.fenceHit k.epoch [(k.addr, k.len)] = none → ∃ z : State, same z ∧ z.mem = s.mem ∧
        exec (.pktRead t port pkt) s = .next (z.answer port k 0x81 0 (s.peekBytes k.addr k.len)))) ∧
    (from' 2 → lines 4096 → admits 4 → s.memoryQuiet → ∃ z : State, same z ∧ z.peekBytes k.addr k.len = k.body ∧ outside z ∧
      exec (.pktWrite t port pkt) s = .next (z.answer port k 0x82 0 [])) ∧
    (from' 3 → lines 2048 → admits 4 → s.memoryQuiet → ∃ z : State, same z ∧ outside z ∧
      (∀ i < k.len, z.peek (k.addr + i) =
        if bitOf (fieldAt k.body (k.len + 8 * (i / 64)) 8) (i % 64) then k.body.getD i 0#8 else s.peek (k.addr + i)) ∧
      exec (.pktWriteMasked t port pkt) s = .next (z.answer port k 0x82 0 [])) ∧
    (∀ (f : Option Fmt) (n : Nat), from' 4 → lines 4096 → isTier1 k.addr = true → admits 8 → atomType (k.ops % 8) = some (f, n) → s.memoryQuiet →
      ∃ z : State, same z ∧ outside z ∧
        (∀ i < k.len / n, z.numAt n (k.addr + n * i) =
          (atomElem f n (bitsOf k.ops 4 3) (s.numAt n (k.addr + n * i)) (fieldAt k.body (n * i) n)).1) ∧
        exec (.pktAtomic t port pkt) s = .next (if bitOf k.ops 5 then z.answer port k 0x84 0 (s.peekBytes k.addr k.len)
          else z.answer port k 0x82 0 [])) ∧
    (∀ c, from' 5 → admits 4 → isTier1 k.addr = true ∨ isWs k.addr = true → (w.winOwners (w.admitting k 1 4)).eraseDups = [c] →
      (s.ctx c).flag (w.homeDie k.addr) k.flag < 65535 → exec (.pktArrival t port pkt) s =
        .next ((w.setCtx c (fun x => x.setFlag (w.homeDie k.addr) k.flag ((s.ctx c).flag (w.homeDie k.addr) k.flag + 1))).answer port k 0x85 0 [])) ∧
    (∀ r, tagged r →
      (u.takePkt port [0x81] pkt = (w, some k) → r.typ = 1 → exec (.pktReadData t port pkt) s = .next ((freed r).answered r (some k.body))) ∧
      (u.takePkt port [0x82] pkt = (w, some k) → r.typ ∈ [2, 3, 4, 6] → exec (.pktWriteAck t port pkt) s = .next ((freed r).answered r none)) ∧
      (u.takePkt port [0x84] pkt = (w, some k) → r.typ = 4 → exec (.pktAtomicData t port pkt) s = .next ((freed r).answered r (some k.body))) ∧
      (u.takePkt port [0x85] pkt = (w, some k) → r.typ = 5 → exec (.pktArrivalAck t port pkt) s = .next ((freed r).answered r none)) ∧
      (u.takePkt port [0x8F] pkt = (w, some k) → k.ops ∈ [1, 2, 3, 4] → exec (.pktError t port pkt) s = .next ((freed r).requestFails r
        (if k.ops = 1 then stTranslationFault else if k.ops = 2 then stMemUncorrectable else if k.ops = 3 then stFabricTimeout else stEpochFence)))) ∧
    (∀ (r : Req) (run : Running) (data : Option (List Byte)) (n first : Nat) (fl : List Fly) (b arr : Bool), r.ended = false → r.part < 2 →
      (s.unit r.unit).running = some run → run.prog = .moving n fl b first arr →
      ((s.answered r data).unit r.unit).running = some { run with prog := .moving n (fl.map (fun x => if x.tile = r.tile
        then { x with awaits := x.awaits - 1, got := x.got ++ (match data with | some d => [(r.part, d)] | none => []) } else x)) b first arr }) ∧
    (∀ (r : Req) (run : Running) (y : Sweep) (data : List Byte), r.ended = false → r.part = 5 → s.sweeps r.unit 4 = some (run, y) →
      s.answered r (some data) = s.setProg r.unit (.sweeping { y with awaits := y.awaits - 1, got := y.got ++ [(r.tile, data)] })) ∧
    (∀ (r : Req) (data : Option (List Byte)) (code : Nat), r.ended = false → r.part = 4 →
      s.answered r data = { s with mgmt := { s.mgmt with farDone := s.mgmt.farDone ++
        [(r.addr, match data with | some bs => .value (leNat bs) | none => .none)] } } ∧
      s.requestFails r code = { s with mgmt := { s.mgmt with farDone := s.mgmt.farDone ++ [(r.addr, .failed code)] } }) ∧
    (u.takePkt port [0x81] pkt = (w, some k) → (∀ r ∈ (s.port k.port).tags, r.tag ≠ k.tag ∨ r.birth ≠ k.birth) →
      exec (.pktReadData t port pkt) s = .next (w.count .PORT_RSP_DROP (port / 2) (port % 2) 1)) ∧
    (∀ tag r, (s.port port).tags.find? (fun r => r.tag = tag) = some r → let age := (u.ft + 2 ^ 32 - r.birth) % 2 ^ 32
      (age < 2000000 → exec (.requestTimeout t port tag) s = .next u) ∧
      (2000000 ≤ age → exec (.requestTimeout t port tag) s = .next (((u.setPort port (fun x => { x with tags := x.tags.filter (fun q => q ≠ r) })).count
        .PORT_TIMEOUTS (port / 2) (port % 2) 1).requestFails r stFabricTimeout)))

/-- The settings of the ports (R290, R299, R311, R313 to R315) and Ethernet mode (R291, R292): a PORT_CTRL that changes takes the link
down, a disabled port counts as brought up (R433), and no port setting changes while a fabric context is ARMED or RUNNING; a window whose owner does not own all of its range is not
enabled; a page goes to ENGINE once none of its lines is cached. A frame is sent with its frame check sequence, its descriptor is DONE
and the consumer index moves; a received frame lands in its buffer. -/
def Obligations.PortsTakeTheirSettings : Prop :=
  ∀ (s : State) (t : Nat), Sparse.wf 0#64 s.regs = true → s.ports.length = 16 → let u := s.advance t
    (∀ port v, port < 16 → let v' := v &&& 0xFFFF13
      (v' = s.reg .PORT_CTRL (port / 2) (port % 2) ∨ s.fabricActive = true → exec (.portCtrlWrite t port v) s = .next u) ∧
      (v' ≠ s.reg .PORT_CTRL (port / 2) (port % 2) → s.fabricActive = false → ∃ s' : State, exec (.portCtrlWrite t port v) s = .next s' ∧
        s'.reg .PORT_CTRL (port / 2) (port % 2) = v' ∧ (s'.port port).waiting = [] ∧
        (s.boot.portsLoaded = true → (∀ p ∈ [2 * (port / 2), 2 * (port / 2) + 1], s'.portMode p = 0 ∨ (s.port p).trained = true) →
          bitOf (s'.reg .DIE_STATUS (port / 2) 0) 4 = true) ∧
        (s'.port port).link = if v % 4 = 0 then .disabled else .training)) ∧
    (∀ v, exec (.portPkgCtrlWrite t v) s = .next (if s.anyActive then u else u.setReg .PORT_PKG_CTRL 0 0 (v % 2))) ∧
    (∀ v, Sparse.wf 0 s.routes = true → ∃ s' : State, exec (.portRouteDataWrite t v) s = .next s' ∧ { s' with routes := s.routes } = u ∧
      ∀ dst, Sparse.at? 0 s'.routes dst = if dst = s.reg .PORT_ROUTE_SEL 0 0 % 2 ^ 14 then v &&& 0x8F else Sparse.at? 0 s.routes dst) ∧
    (∀ v, Sparse.wf 0 s.bias = true → ∃ s' : State, exec (.portBiasDataWrite t v) s = .next s' ∧ { s' with bias := s.bias } = u ∧
      ∀ page, Sparse.at? 0 s'.bias page = if page ≠ s.reg .PORT_BIAS_SEL 0 0 % 2 ^ 14 then Sparse.at? 0 s.bias page
        else if bitOf v 0 = false then 0 else if Sparse.at? 0 s.bias page = 1 then 1 else 2) ∧
    (∀ page, Sparse.wf 0 s.bias = true → Sparse.at? 0 s.bias page = 2 → s.hcx.busy = [] → s.hcx.msgs = [] → s.hcx.reqs = [] → s.hcx.dir = [] →
      s.hcx.slc = [] → ∃ s' : State, exec (.biasFlipDone t page) s = .next s' ∧ { s' with bias := s.bias } = u ∧
        ∀ p, Sparse.at? 0 s'.bias p = if p = page then 1 else Sparse.at? 0 s.bias p) ∧
    (∀ win v, win < 64 → let r := s.reg .PORT_WIN_RANGE 0 win
      let base := bitsOf r 19 0
      let limit := bitsOf r 51 32
      let c := bitsOf v 11 8
      let owns : Prop := (s.ctx c).created = true ∧ base ≤ limit ∧ ∀ i, base ≤ i → i ≤ limit → s.unitIn c i = true
      ∃ s' : State, exec (.portWinCtrlWrite t win v) s = .next s' ∧ { s' with regs := s.regs } = u ∧
        (bitOf v 0 = true → bitOf v 12 = false ∨ owns → s'.reg .PORT_WIN_CTRL 0 win = v &&& 0x1F1F) ∧
        (bitOf v 0 = true → bitOf v 12 = true → ¬owns → bitOf (s'.reg .PORT_WIN_CTRL 0 win) 0 = false ∧
          bitOf (s'.reg .PORT_WIN_CTRL 0 win) 13 = true) ∧
        (bitOf v 0 = false → bitOf (s'.reg .PORT_WIN_CTRL 0 win) 0 = false)) ∧
    (∀ port v, port < 16 → 2 ≤ s.portMode port → (s.port port).producers.length = 16 → s.memoryQuiet →
      let a := 512 * (s.reg .PORT_ETH_RINGS (port / 2) (port % 2) / 512) + 32 * (v % 16) + 12
      isTier1 a = true ∨ isWs a = true → ∃ s' : State, exec (.portEthDoorbell t port v) s = .next s' ∧ s'.mem = s.mem ∧
        (s'.port port).producers.getD (v % 16) 0 = s.numAt 4 a ∧
        ∀ k, k ≠ v % 16 → (s'.port port).producers.getD k 0 = (s.port port).producers.getD k 0) ∧
    (∀ (port a base n cons : Nat) (w : State), s.ethUp port = true → s.memoryQuiet → State.ethPick port [7, 6, 5, 4, 3, 2, 1, 0] u = (w, some (a, base, n, cons)) →
      let d := base + cons % n * 16
      let buf := s.numAt 8 d
      let len := s.numAt 2 (d + 8)
      60 ≤ len → len ≤ 9212 → isTier1 buf = true ∨ isWs buf = true → (isTier1 d = true ∨ isWs d = true) → rangesApart d 16 a 32 →
      (isTier1 (d + 15) = true ∨ isWs (d + 15) = true) → (isTier1 (buf + len - 1) = true ∨ isWs (buf + len - 1) = true) →
      ∃ s' : State, exec (.ethFrameTx t port) s = .next s' ∧ (s'.port port).lastTx = s.peekBytes buf len ++ fcs (s.peekBytes buf len) ∧
        s'.numAt 1 (d + 10) = 1 ∧ s'.numAt 4 (a + 16) = (cons + 1) % n ∧
        ∀ b, b ≠ d + 10 → (b < a + 16 ∨ a + 20 ≤ b) → s'.peek b = s.peek b) ∧
    (∀ (port a base n cons : Nat) (frame : List Byte) (w : State), s.ethUp port = true → s.memoryQuiet → let bs := frame.take (frame.length - 4)
      64 ≤ frame.length → frame.length ≤ 9216 → frame.drop (frame.length - 4) = fcs bs → be16 bs 12 ≠ 0x8808 →
      let prio := if be16 bs 12 = 0x8100 then be16 bs 14 / 8192 else 0
      u.ethRing port (8 + prio) = (w, some (a, base, n, cons)) → (s.port port).posted (8 + prio) (a, base, n, cons) = true →
      let d := base + cons % n * 16
      let buf := s.numAt 8 d
      bs.length ≤ s.numAt 2 (d + 8) → isTier1 buf = true ∨ isWs buf = true → isTier1 d = true ∨ isWs d = true →
      isTier1 (d + 15) = true ∨ isWs (d + 15) = true → isTier1 (buf + bs.length - 1) = true ∨ isWs (buf + bs.length - 1) = true →
      rangesApart d 16 a 32 → rangesApart buf bs.length a 32 → rangesApart buf bs.length d 16 →
      ∃ s' : State, exec (.ethFrameRx t port frame) s = .next s' ∧ s'.peekBytes buf bs.length = bs ∧ s'.numAt 2 (d + 8) = bs.length ∧
        s'.numAt 1 (d + 10) = 1 ∧ s'.numAt 4 (a + 16) = (cons + 1) % n) ∧
    (∀ (port : Nat) (frame : List Byte), s.ethUp port = true → frame.drop (frame.length - 4) ≠ fcs (frame.take (frame.length - 4)) →
      exec (.ethFrameRx t port frame) s = .next (u.count .PORT_ETH_DROP (port / 2) (port % 2) 1))

/-! Vector engines (chapter 06). -/

/-- A kernel's turn (R147 to R151, R163 to R169). RUN copies the words, checks them and starts at word 0 with A0 to A5 loaded. The row of
the opcode that the kernel has reached ends the kernel or waits when a check of the instruction's start says so, and carries it out once its
transfer is over and its cycles have passed within the budget; then the kernel goes on to the next word, round its LOOPs; a row of another
opcode does nothing; END ends the kernel; a stop with a status code fails the pour; a wait lasts until VE_WAIT_RESUME finds it over and
counts its cycles; BUDGET cycles after launch the kernel is late. The control instructions complete, and change the registers that their
rules name. -/
def Obligations.KernelsRunTheirInstructions : Prop :=
  (∀ (s w : State) (t unit : Nat) (r : Running) (bs : List Byte) (x : Xfer), let u := s.advance t
    let d := r.held.bytes
    let e := engineOf unit
    let y := u.moveTo e r (u.ran (unitDie unit) r.arith) x
    let copy := 32 + y.upTo
    let ws := (List.range (kLen d)).map (fun i => fieldAt bs (16 * i) 16)
    let w' := w.mend (fun v => match v with | .ins e' _ => e' = e | _ => false)
    s.runsPour unit clsVE 1 r → r.prog = .copying x →
    (y.over = false ∨ u.passed (unitDie unit) r.arith copy = false → exec (.runKernel t unit) s = .next u) ∧
    (y.over = true → u.passed (unitDie unit) r.arith copy = true → u.load (wsAt (unitDie unit) (kProg d)) (kLen d * 16) = (w, some bs) →
      (kernelOk ws = false → exec (.runKernel t unit) s = .next (w'.failPour unit stBadParam 0 0)) ∧
      (kernelOk ws = true → ∃ s' : State, exec (.runKernel t unit) s = .next s' ∧ s'.mem = w.mem ∧ s'.ctxs = w.ctxs ∧
        (∃ r' v z, (s'.unit unit).running = some r' ∧ r'.held = r.held ∧ z.upTo = copy ∧ r'.prog = .kernel ws 0 [] copy v z) ∧
        (s'.eng e).a.take 6 = (List.range 6).map (fun j => fieldAt d (16 + 8 * j) 8) ∧
        (s'.eng e).a.drop 6 = (w.eng e).a.drop 6))) ∧
  (∀ (s : State) (i : Instr) (t engine op pc used : Nat) (r : Running) (ws : List Nat) (loops : List LoopSt) (wait : VWait) (x : Xfer),
    let u := s.advance t
    let ve := veUnit engine
    let l := laneAt engine r ws pc
    let y := u.moveTo engine r (u.ran (engine / 48) r.arith) x
    let cycles := u.laneCycles l (y.upTo - used)
    let ready : Prop := y.over = true ∧ used + cycles ≤ kBudget r.held.bytes ∧ u.passed (engine / 48) r.arith (used + cycles) = true
    vectorRow i = some (t, engine, op) → s.runsKernel engine r ws pc loops used wait x →
    (l.i.op ≠ op ∨ wait = .queue ∨ wait = .segment ∨ u.passed (engine / 48) r.arith used = false → exec i s = .next u) ∧
    (l.i.op = op → wait = .none ∨ wait = .share → u.passed (engine / 48) r.arith used = true →
      (∀ code, u.startCheck l = some (.fail code) → exec i s = .next (u.failPour ve code 0 0)) ∧
      (∀ v, u.startCheck l = some (.wait v) → exec i s = .next (u.setProg ve (.kernel ws pc loops used v x))) ∧
      (u.startCheck l = none →
        (¬ready → ∃ (s' : State) (v : VWait), exec i s = .next s' ∧ s'.mem = s.mem ∧ s'.engs = s.engs ∧ s'.ctxs = s.ctxs ∧
          ∃ r', (s'.unit ve).running = some r' ∧ r'.held = r.held ∧ r'.prog = .kernel ws pc loops used v y) ∧
        (ready → (∀ v, u.fetchIns engine pc = (v, true) → exec i s = .next (v.failPour ve stMemUncorrectable 0 0)) ∧
          (∀ v, u.fetchIns engine pc = (v, false) →
            (∀ (w : State), v.runIns l = (w, none) →
              (∃ r', (w.unit ve).running = some r' ∧ r'.held = r.held ∧ r'.launched = r.launched ∧ r'.arith = r.arith) →
              ∃ s' : State, exec i s = .next s' ∧ s'.mem = w.mem ∧ s'.engs = w.engs ∧ s'.ctxs = w.ctxs ∧
                (op = 0x4F → s'.endedOn ve r) ∧
                (op = 0x42 → s'.kernelAt engine r ws (pc + 1) (⟨pc + 1, pc + 1 + l.i.imm % 64, l.i.cnt % 4096⟩ :: loops) (used + cycles)) ∧
                (op ≠ 0x4F → op ≠ 0x42 → s'.kernelAt engine r ws (loopNext loops pc).1 (loopNext loops pc).2 (used + cycles))) ∧
            (∀ (w : State) (code : Nat), v.runIns l = (w, some (.fail code)) → exec i s = .next (w.failPour ve code 0 0)) ∧
            (∀ (w : State) (k : VWait), v.runIns l = (w, some (.wait k)) → exec i s = .next (w.setProg ve (.kernel ws pc loops used k x)))))))) ∧
  (∀ (s : State) (t engine pc used : Nat) (r : Running) (ws : List Nat) (loops : List LoopSt) (wait : VWait) (x : Xfer), let u := s.advance t
    let ve := veUnit engine
    let die := engine / 48
    let e := engine % 48
    let l := laneAt engine r ws pc
    let n := u.ran die r.arith - used
    let budget := kBudget r.held.bytes
    let counter : Reg := if wait = .segment then .VE_ACC_WAIT else .VE_TQ_WAIT
    let late (z : State) (n : Nat) : State :=
      ((z.count .VE_BUSY die e n).count .PLAN_LATE die r.held.ctx 1).failPour ve stLateInput r.held.pour.offset 0
    s.runsKernel engine r ws pc loops used wait x →
    (u.waitOver l wait x = false → exec (.veWaitResume t engine) s = .next u) ∧
    (u.waitOver l wait x = true → wait = .share → exec (.veWaitResume t engine) s = .next (u.setProg ve (.kernel ws pc loops used .none x))) ∧
    (u.waitOver l wait x = true → wait ≠ .share → ∃ s' : State, exec (.veWaitResume t engine) s = .next s' ∧ s'.mem = s.mem ∧ s'.engs = s.engs ∧
      s'.kernelAt engine r ws pc loops (used + n) ∧
      (Sparse.wf 0#64 s.regs = true → s.reg counter die e + n < countMax → s'.reg counter die e = s.reg counter die e + n)) ∧
    (u.passed die r.arith budget = false → exec (.kernelBudgetExpiry t engine) s = .next u) ∧
    (u.passed die r.arith budget = true → exec (.kernelBudgetExpiry t engine) s = .next (late (
      if wait = .queue then u.count .VE_TQ_WAIT die e (budget - used)
      else if wait = .segment then u.count .VE_ACC_WAIT die e (budget - used)
      else u.count .VE_SHARE_WAIT die e (u.moveTo engine r budget x).idle) (budget - used)))) ∧
  (∀ (s : State) (i : Instr) (t engine pc used cycles : Nat) (r : Running) (ws : List Nat) (loops : List LoopSt),
    s.instrDue i t engine r ws pc loops used cycles → let l := laneAt engine r ws pc
    let x := s.eng engine
    let imm := 2 ^ 32 * l.i.imm + l.i.cnt
    let hq := s.queue (.tileHeader engine)
    let dq := s.queue (.tileData engine)
    let n := tileSegs (accShape l.i.imm) (accCode l.i.imm)
    let seg := accSeg l.i.imm
    let kept (s' : State) : Prop := s'.mem = s.mem ∧ s'.ctxs = s.ctxs ∧ ∀ e', e' ≠ engine → s'.eng e' = s.eng e'
    let done (s' : State) : Prop := exec i s = .next s' ∧ kept s' ∧ s'.kernelAt engine r ws (loopNext loops pc).1 (loopNext loops pc).2 (used + cycles)
    let sets (y : EngSt) : Prop := ∃ s' : State, done s' ∧ s'.eng engine = y
    x.a.length = 8 →
    (i = .vSeta t engine → sets { x with a := x.a.set (l.i.dst % 8) imm }) ∧
    (i = .vAdda t engine → sets { x with a := x.a.set (l.i.dst % 8) ((x.a.getD (l.i.dst % 8) 0 + imm) % 2 ^ 64) }) ∧
    (i = .vLoop t engine → ∃ s' : State, exec i s = .next s' ∧ kept s' ∧ s'.eng engine = x ∧
      s'.kernelAt engine r ws (pc + 1) (⟨pc + 1, pc + 1 + l.i.imm % 64, l.i.cnt % 4096⟩ :: loops) (used + cycles)) ∧
    (i = .vSetsr t engine → sets { x with srcTid := l.i.imm % 2 ^ 24, srcBase := 2 ^ 32 * (l.i.imm / 2 ^ 24) + l.i.cnt }) ∧
    (i = .vSetacc t engine → bitOf l.i.imm 14 = true → seg % n = 0 → seg + n ≤ 64 → s.reserved engine seg n = false → ∃ s' : State, done s' ∧
      (s'.eng engine).accImm = l.i.imm ∧ (s'.eng engine).accPos = l.i.cnt ∧
      ∃ tile ∈ (s'.eng engine).tiles, tile.seg = seg ∧ tile.live = true ∧ ∀ p, tile.elems.getD p (0, 0) = (0, 0)) ∧
    (∀ tile, i = .vSetacc t engine → bitOf l.i.imm 14 = false → x.tiles.filter (fun q => q.live && q.overlaps seg n) = [tile] → tile.seg = seg →
      tile.shape = accShape l.i.imm → tile.fmt = accCode l.i.imm → sets { x with accImm := l.i.imm, accPos := l.i.cnt }) ∧
    (∀ h : QEntry, i = .vTqhdr t engine → hq.isEmpty = false → hq.at? hq.rd = some h → h.bad = false → fieldAt h.bytes 30 2 = x.nextSeq →
      ∃ s' : State, done s' ∧ s'.eng engine = { x with
          header := some h.bytes, rowsRead := 0, rowsMark := 0, nextSeq := (x.nextSeq + 1) % 65536
          tileBase := x.tileBase + fieldAt h.bytes 12 2 * (fieldAt h.bytes 28 2 / 64) } ∧
        (s'.queue (.tileHeader engine)).rd = hq.rd + 1 ∧ (s'.queue (.tileData engine)).rd = x.tileBase ∧
        (s'.queue (.tileData engine)).mark = x.tileBase) ∧
    (i = .vTqmark t engine → ∃ s' : State, done s' ∧ (s'.queue (.tileData engine)).mark = dq.rd ∧
      s'.eng engine = { x with rowsMark := x.rowsRead }) ∧
    (i = .vTqrewind t engine → ∃ s' : State, done s' ∧ (s'.queue (.tileData engine)).rd = dq.mark ∧
      s'.eng engine = { x with rowsRead := x.rowsMark }) ∧
    (i = .vTqrel t engine → hq.Ordered (queueDepth (.tileHeader engine)) → dq.Ordered (queueDepth (.tileData engine)) → ∃ s' : State, done s' ∧
      (s'.queue (.tileHeader engine)).rp = hq.rd ∧ (s'.queue (.tileData engine)).rp = dq.rd ∧ (s'.queue (.tileData engine)).mark = dq.rd ∧
      s'.eng engine = { x with rowsMark := x.rowsRead }) ∧
    (i = .vEnd t engine → ∃ s' : State, exec i s = .next s' ∧ kept s' ∧ s'.eng engine = x ∧ s'.endedOn (veUnit engine) r))

/-- What a vector instruction leaves when it completes (R135, R141, R143, R144, R150, R154, R155, R157, R160 to R162, R166, R170): every active
element of the destination is the exact result rounded once to the working type, or the move, comparison or selection; an element that the
masks leave out, every other register and memory keep their values, and the kernel goes on. First for count mode on V registers, then for
every operand of count mode (working store, the immediate, tile rows, the accumulator file), then for the slots of tensor mode, where the
blocks of a scaled slot get one scale each and their pads 0. A reduction puts its result in element 0 (the index, as INT32, and then the
value of an argmax or argmin), the identity when nothing is active, and its status word at A7 or STATUS. It holds for ADD, SUB, MUL, FMA,
MIN, MAX, ABS, NEG, MOV, CMPEQ, CMPNE, CMPLT, CMPLE, SEL, EXP2, EXP, LOG2, LOG, RCP, SQRT, RSQRT, DIV, SIN, COS, TANH, RSUM, RPROD, RMAX,
RMIN, RARGMAX and RARGMIN. Which masked elements cut the chunks of a sum, how the index of an argmax reaches a format below 32 bits, and
that a MOV between scaled slots of one format converts, is the model's choice (logs 73, 74, 76). -/
def Obligations.VectorResultsAreRoundedOnce : Prop :=
  ∀ (s : State) (i : Instr) (t engine pc used cycles : Nat) (r : Running) (ws : List Nat) (loops : List LoopSt) (cls : OpCls) (m : Nat),
    s.instrDue i t engine r ws pc loops used cycles → let l := laneAt engine r ws pc
    let x := s.eng engine
    opInfo l.i.op = some (cls, m) → l.i.cnt ≤ 4096 ∨ l.i.mode = 1 → Sparse.wf 0 x.v = true → x.k.length = 7 →
    let src (j k : Nat) : Val := valOf l.f (l.vreg s j k)
    let active (k : Nat) : Bool := decide (k < l.i.cnt) && x.mask l.i.mask k
    let reg (z : State) (j k : Nat) : Nat := Sparse.at? 0 (z.eng engine).v (4096 * j + k)
    let result (k : Nat) : Nat := match cls with
      | .move => l.vreg s l.i.s0 k
      | .sel => if (match selOf l.i.s2 with | some (.k n) => x.mask n k | _ => false) then l.vreg s l.i.s0 k else l.vreg s l.i.s1 k
      | _ => (vop l.i.op l.f (l.kmode s k) (src l.i.s0 k) (src l.i.s1 k) (src l.i.s2 k)).bits
    let done (s' : State) : Prop := exec i s = .next s' ∧ s'.ctxs = s.ctxs ∧ (∀ e, e ≠ engine → s'.eng e = s.eng e) ∧
      (s'.eng engine).a = x.a ∧ s'.kernelAt engine r ws (loopNext loops pc).1 (loopNext loops pc).2 (used + cycles)
    (l.i.mode = 0 → (∀ y ∈ l.i.sources, y < 16) →
    (i ∈ [Instr.vAdd t engine, .vSub t engine, .vMul t engine, .vFma t engine, .vMin t engine, .vMax t engine, .vAbs t engine, .vNeg t engine,
        .vMov t engine, .vSel t engine, .vExp2 t engine, .vExp t engine, .vLog2 t engine, .vLog t engine, .vRcp t engine, .vSqrt t engine,
        .vRsqrt t engine, .vDiv t engine, .vSin t engine, .vCos t engine, .vTanh t engine] → l.i.dst < 16 →
      ∃ s' : State, done s' ∧ s'.mem = s.mem ∧ (s'.eng engine).k = x.k ∧
        ∀ j < 16, ∀ k < 4096, reg s' j k = if j = l.i.dst ∧ active k = true then result k else reg s j k) ∧
    (∀ n, i ∈ [Instr.vCmpeq t engine, .vCmpne t engine, .vCmplt t engine, .vCmple t engine] → l.i.dst = 16 + n → 0 < n → n < 8 →
      ∃ s' : State, done s' ∧ s'.mem = s.mem ∧ (s'.eng engine).v = x.v ∧
        ∀ j < 8, ∀ k < 4096, (s'.eng engine).mask j k =
          if j = n ∧ active k = true then vcmp l.i.op (src l.i.s0 k) (src l.i.s1 k) else x.mask j k) ∧
    (∀ a7, i ∈ [Instr.vRsum t engine, .vRprod t engine, .vRmax t engine, .vRmin t engine, .vRargmax t engine, .vRargmin t engine] →
      l.i.dst < 16 → x.a.getD 7 0 = a7 → a7 % 8 = 0 → s.laneBanks l a7 8 = true → s.errorFree →
      let es := (List.range l.i.cnt).map (fun k => if active k then some (src l.i.s0 k, k) else none)
      let out := reduceResult l.i.op (formOf l.f) l.f l.f true (l.kmode s 0) (l.kmode s 1) es
      ∃ s' : State, done s' ∧ (s'.eng engine).k = x.k ∧
        s'.numAt 8 (wsAt l.die a7) = statusWord [(out.2.2, out.1.any (fun q => q.nonfin))] ∧
        (∀ j < 16, ∀ k < 4096, reg s' j k = if j = l.i.dst ∧ k < out.1.length then (out.1.getD k ⟨0, false, false⟩).bits else reg s j k) ∧
        (∀ b, b < wsAt l.die a7 ∨ wsAt l.die a7 + 8 ≤ b → s'.cell b = s.cell b))) ∧
    (insOk (ws.getD pc 0) = true → cls ≠ .ctl → (s.advance t).startCheck l = none → s.readable → s.errorFree → x.tilesOk →
      (s.queue (.tileData engine)).Ordered (queueDepth (.tileData engine)) →
      let w := fmtWidth l.mf / 8
      let uses (sel : Nat) : Bool := (l.i.dst :: l.i.sources).contains sel
      -- the pointers of the accumulator and of the tile rows, and the accumulator elements, after a count-mode instruction that writes `put`
      let moved (s' : State) (put : Nat → Option Nat) : Prop :=
        (s'.eng engine).accPos = x.accPos + (if uses 0x22 then l.i.cnt else 0) ∧
        (∀ q, x.tile = some q → (s'.queue (.tileData engine)).rd = (s.queue (.tileData engine)).rd +
          (if uses 0x21 then l.i.cnt / q.cols * q.rowEntries else 0)) ∧
        ∀ p, s'.accCell engine p = match (if l.i.dst = 0x22 ∧ x.accPos ≤ p then put (p - x.accPos) else none) with
          | some v => x.accPut (s.accCell engine p) v
          | none => s.accCell engine p
      (l.i.mode = 0 → cls ≠ .red → cls ≠ .cmp → ∃ s' : State, done s' ∧ (s'.eng engine).k = x.k ∧
        moved s' (fun k => if active k then some (s.countValue l k) else none) ∧
        (∀ j < 16, ∀ k < 4096, reg s' j k = if j = l.i.dst ∧ active k = true then s.countValue l k else reg s j k) ∧
        (∀ n, selOf l.i.dst = some (.w n) → let a := wsAt l.die (x.a.getD n 0)
          (∀ k < l.i.cnt, s'.numAt w (a + w * k) = if active k then s.countValue l k else s.numAt w (a + w * k)) ∧
          ∀ b, b < a ∨ a + w * l.i.cnt ≤ b → s'.cell b = s.cell b) ∧
        ((∀ n, selOf l.i.dst ≠ some (.w n)) → s'.mem = s.mem)) ∧
      (∀ n, l.i.mode = 0 → cls = .cmp → selOf l.i.dst = some (.k n) → ∃ s' : State, done s' ∧ s'.mem = s.mem ∧ (s'.eng engine).v = x.v ∧
        moved s' (fun _ => none) ∧
        ∀ j < 8, ∀ k < 4096, (s'.eng engine).mask j k = if j = n ∧ active k = true then decide (s.countValue l k = 1) else x.mask j k) ∧
      (l.i.mode = 0 → cls = .red →
        let a7 := wsAt l.die (x.a.getD 7 0)
        let df := s.opFmt l l.i.dst
        let raw : Bool := l.i.dst < 16 || (decide (l.i.dst ≠ 0x22) && decide (32 ≤ fmtWidth l.mf))
        let es := (List.range l.i.cnt).map (fun k => if active k then
          some (valOf l.f ((s.countElem l l.i.s0 k).to l.f (l.kmode s k)).bits, k) else none)
        let out := reduceResult l.i.op (formOf (s.opFmt l l.i.s0)) df df raw (l.dstMode s 0) (l.dstMode s 1) es
        let bits (k : Nat) : Nat := (out.1.getD k ⟨0, false, false⟩).bits
        (∀ n, selOf l.i.dst = some (.w n) → rangesApart (wsAt l.die (x.a.getD n 0)) (w * 2) a7 8) →
        ∃ s' : State, done s' ∧ (s'.eng engine).k = x.k ∧ moved s' (fun k => if k < out.1.length then some (bits k) else none) ∧
          s'.numAt 8 a7 = statusWord [(out.2.2, out.1.any (fun q => q.nonfin))] ∧
          (∀ j < 16, ∀ k < 4096, reg s' j k = if j = l.i.dst ∧ k < out.1.length then bits k else reg s j k) ∧
          (∀ n, selOf l.i.dst = some (.w n) → ∀ k < out.1.length, s'.numAt w (wsAt l.die (x.a.getD n 0) + w * k) = bits k) ∧
          ∀ b, (b < a7 ∨ a7 + 8 ≤ b) → (∀ n, selOf l.i.dst = some (.w n) →
            b < wsAt l.die (x.a.getD n 0) ∨ wsAt l.die (x.a.getD n 0) + w * out.1.length ≤ b) → s'.cell b = s.cell b) ∧
      (∀ (d : Tensor) (sp : List Nat) (n : Nat), l.i.mode = 1 → cls = .cmp → parseTensor (s.peekBytes (wsAt l.die l.i.cnt) 320) = some d →
        d.space l.i false = some sp → selOf l.i.dst = some (.k n) → ∃ s' : State, done s' ∧ s'.mem = s.mem ∧ (s'.eng engine).v = x.v ∧
        ∀ j < 8, ∀ k < 4096, (s'.eng engine).mask j k = if j = n ∧ k < volume sp ∧ s.positionOn l d sp k = true then
          decide ((s.tensorValue l d sp (l.kmode s k) k).bits = 1) else x.mask j k) ∧
      (∀ (d : Tensor) (sp : List Nat) (dst : Slot), l.i.mode = 1 → parseTensor (s.peekBytes (wsAt l.die l.i.cnt) 320) = some d →
        d.space l.i (cls == .red) = some sp → d.slot l.i.dst = some dst →
        let dsp := dst.sizes
        let at' (k : Nat) : List Nat := coords dsp k
        let mode (k : Nat) : RMode := dst.mode s l (at' k)
        let red : Bool := cls == .red
        let src := (d.slot l.i.s0).getD dst
        let df := s.slotFmt l dst
        let line (k : Nat) : List (Option (Val × Nat)) := s.tensorRow l d sp (mode k) (at' k)
        let raw : Bool := !dst.acc && decide (32 ≤ fmtWidth df)
        let whole (k : Nat) : Rounded × Bool := let wm := if dst.acc then .rne else mode k
          let o := reduceResult l.i.op (formOf (s.slotFmt l src)) df l.f raw wm wm (line k)
          (o.1.headD ⟨0, false, false⟩, o.2.2)
        let on (k : Nat) : Bool := red || s.positionOn l d sp k
        let value (k : Nat) : SElem := if red then (blockResult l.i.op (formOf (s.slotFmt l src)) df (line k)).1 else s.tensorValue l d sp (mode k) k
        let put (k : Nat) : Nat := if red then (whole k).1.bits else if cls = .cmp then (value k).bits
          else ((value k).to df (if dst.acc then .rne else mode k)).bits
        -- the block of a position: where it starts, its positions, and their values
        let c0 (k : Nat) : Nat := k % dsp.getD 0 1
        let block (k : Nat) : List Nat := (countFrom (k - c0 k % 32) 32).filter (fun j => decide (j / dsp.getD 0 1 = k / dsp.getD 0 1))
        let vals (k : Nat) : List Val := (block k).map (fun j => if on j then (value j).val else (s.slotValue l dst (at' j)).val)
        let scaleOf (k : Nat) : Nat := if dst.f = .gq8 then s.numAt 1 (wsAt l.die (dst.soff + dst.pos (at' k) / 32)) else blockScale dst.f (vals k)
        let elems (k : Nat) : List Rounded := blockElems dst.f (scaleOf k) (vals k) ((block k).map mode)
        let elem (k : Nat) : Rounded := (elems k).getD (c0 k % 32) ⟨0, false, false⟩
        let writes (k : Nat) : List (Nat × Nat) := dst.bytesOf l true (at' k)
        let reads (k : Nat) : List (Nat × Nat) := if red then
            (List.range (sp.getD d.rdim 1)).flatMap (fun j => (d.sources l.i).flatMap (fun q => q.bytesOf l false ((at' k).set d.rdim j)))
          else (d.sources l.i).flatMap (fun q => q.bytesOf l false (at' k))
        -- no position touches what another one writes, but within one block
        (∀ k < volume dsp, ∀ k' < volume dsp, k ≠ k' → dst.scaled = false ∨ k' ∉ block k → ∀ a ∈ writes k, ∀ b ∈ reads k' ++ writes k',
          rangesApart a.1 a.2 b.1 b.2) →
        (dst.scaled = true → ∀ k < volume dsp, ∀ a ∈ writes k, ∀ b ∈ writes k, a ≠ b → rangesApart a.1 a.2 b.1 b.2) →
        (red = true → ∀ k < volume dsp, ∀ a ∈ writes k, rangesApart a.1 a.2 (wsAt l.die d.status) 8) →
        ∃ s' : State, done s' ∧ (s'.eng engine).k = x.k ∧ (s'.eng engine).v = x.v ∧
          (∀ p, s'.accCell engine p = if dst.acc = true ∧ p < volume dsp ∧ on p = true then x.accPut (s.accCell engine p) (put p) else s.accCell engine p) ∧
          (dst.acc = false → dst.scaled = false → ∀ k < volume dsp,
            s'.slotBits l dst (dst.pos (at' k)) = if on k then put k else s.slotBits l dst (dst.pos (at' k))) ∧
          (dst.scaled = true → ∀ k < volume dsp, let o := dst.pos (at' k)
            ((block k).any on = false → s'.slotBits l dst o = s.slotBits l dst o ∧
              s'.numAt 1 (wsAt l.die (dst.soff + o / 32)) = s.numAt 1 (wsAt l.die (dst.soff + o / 32))) ∧
            ((block k).any on = true → s'.numAt 1 (wsAt l.die (dst.soff + o / 32)) = scaleOf k ∧
              s'.slotBits l dst o = (if dst.f = .gq8 ∧ on k = false then s.slotBits l dst o else (elem k).bits) ∧
              ∀ j < 32, (block k).length ≤ j → s'.slotBits l dst (o / 32 * 32 + j) = 0)) ∧
          (red = true → s'.numAt 8 (wsAt l.die d.status) = statusWord ((List.range (volume dsp)).map (fun k =>
            ((whole k).2, if dst.scaled then (elem k).nonfin else (whole k).1.nonfin)))) ∧
          ∀ b, (∀ k < volume dsp, ∀ a ∈ writes k, b < a.1 ∨ a.1 + a.2 ≤ b) → (red = true → b < wsAt l.die d.status ∨ wsAt l.die d.status + 8 ≤ b) →
            s'.cell b = s.cell b))

/-! The coherent domain (chapter 12). A line of tier 1 whose page is SHARED, cores that run, and a domain that is up. -/

/-- What a core asks and is told (R334 to R339). A request for a line that nobody holds is granted with the line; for a line that others
hold the home first sends FWD_S, FWD_I or INV, one to each; a request that meets a busy home is answered with NACK and comes again after
its backoff of 32, 64, 128, 256 and then 512 ns. A core that receives a line or a grant has it for 128 ns before it answers an INV or a
forward, and the home is busy until then; its answer carries the line's data, dirty when it was M, or says that it holds nothing. A PUT_M
is never refused, within the hold neither. A store that the core made since makes its copy M, and a clean copy that it dropped is
answered with NOT_PRESENT. An uncorrectable word of the directory entry or of the cached line that a request reads loses the domain (R341).
A line that comes enters the level-1 cache that asked for it, for a line to share either one (log 96).

What a home does with the answers, with engine-side accesses, and when the domain is lost (R334, R335, R341, R342). The last answer
serves the request: DATA_E after the INVs, DATA_S from the owner's dirty data, GRANT to an UPGRADE; an owner that answers NOT_PRESENT is
listed no more. An engine-side access of an unlisted line is served at once, one of an owned line sends a forward first, and one that
finds the line busy waits, a row of its channel too. A lost domain stops the cores and every sweep, ends the engine-side accesses that need
it or wait for it, and fences every context; an error in a level-1 instruction cache drops the line, counts, and loses nothing. -/
def Obligations.CoherentDomain : Prop :=
  (∀ (s : State) (t core ln : Nat), core < 192 → s.coresRun = true → isTier1 (64 * ln) = true → s.isShared (64 * ln) = true → let u := s.advance t
     let room : Prop := (s.hcx.copies.filter (fun c => c.core = core)).length +
       (s.hcx.reqs.filter (fun r => r.core = core && r.kind != .upgrade)).length < 32768
     let quiet : Prop := s.copyOf core ln = none ∧ room ∧ (∀ r ∈ s.hcx.reqs, ¬(r.core = core ∧ r.line = ln)) ∧ (core, ln) ∉ s.hcx.putting
     let idle : Prop := s.homeOp ln = none ∧ ∀ r ∈ s.hcx.reserved, r.1 ≠ ln
     let free : Prop := s.upsets = [] ∧ idle
     let got (kind : MsgKind) (m : CohMsg) : Prop := s.hcx.msgs.find? (fun m => m.kind = kind && m.core == core && m.line == ln) = some m
     let asks (i : Instr) (kind : OpKind) (k : MsgKind) (l : List Nat) : Prop := ∃ s' : State, exec i s = .next s' ∧ s'.mem = s.mem ∧
       s'.hcx.msgs = s.hcx.msgs ++ l.map (fun c => { kind := k, core := c, line := ln }) ∧ s'.hcx.dir = s.hcx.dir ∧
       s'.hcx.copies = s.hcx.copies ∧ ∃ o, s'.homeOp ln = some o ∧ o.missing = l ∧ o.core = core ∧ o.kind = kind ∧ o.granted = false
     (∀ i ∈ [Instr.getS t core ln, .getX t core ln], s.memoryQuiet → s.hcx.busy = [] → s.hcx.reqs = [] → s.hcx.copies = [] → s.hcx.reserved = [] →
       s.hcx.putting = [] → ∃ s' : State, exec i s = .next s' ∧ s'.mem = s.mem ∧ s'.hcx.msgs = [⟨.dataE, core, ln, s.peekBytes (64 * ln) 64⟩] ∧
         s'.homeEntry ln = some (.owned core) ∧ ∃ o, s'.homeOp ln = some o ∧ o.granted = true ∧ o.core = core) ∧
     (∀ k, s.homeEntry ln = some (.owned k) → quiet → free → asks (.getS t core ln) .getS .fwdS [k] ∧ asks (.getX t core ln) .getX .fwdI [k]) ∧
     (∀ l, s.homeEntry ln = some (.shared l) → free → let others := l.filter (fun k => k ≠ core)
       (quiet → others ≠ [] → asks (.getX t core ln) .getX .inv others) ∧
       (∀ c, s.copyOf core ln = some c → c.st = .sharedCopy → (∀ r ∈ s.hcx.reqs, ¬(r.core = core ∧ r.line = ln)) → (core, ln) ∉ s.hcx.putting →
         core ∈ l → (others ≠ [] → asks (.upgrade t core ln) .upgrade .inv others) ∧
         (others = [] → ∃ s' : State, exec (.upgrade t core ln) s = .next s' ∧ s'.hcx.msgs = s.hcx.msgs ++ [⟨.grant, core, ln, []⟩] ∧
           s'.homeEntry ln = some (.owned core) ∧ s'.mem = s.mem)) ∧
       (∀ slc, quiet → s.slcLine ln = some slc → ∃ s' : State, exec (.getS t core ln) s = .next s' ∧
         s'.hcx.msgs = s.hcx.msgs ++ [⟨.dataS, core, ln, slc.bytes⟩] ∧ s'.homeEntry ln = some (addSharer core (some (.shared l))) ∧ s'.mem = s.mem)) ∧
     (quiet → idle → ((∃ x ∈ s.upsets, x.1 = .dir ln ∧ 2 ≤ popCount 64 x.2) ∨
         (∃ l slc, s.homeEntry ln = some (.shared l) ∧ s.slcLine ln = some slc ∧ (s.badWord (64 * ln) 64).isSome = true)) →
       ∃ s' : State, exec (.getS t core ln) s = .next s' ∧ s'.hcx.down = some (1, u.ft) ∧ s'.coresRun = false) ∧
     (∀ o, quiet → s.homeOp ln = some o → (o.core ≠ core ∨ o.acc.isSome = true ∨ o.kind = .evict ∨ (o.granted = true ∧ ∀ m ∈ s.hcx.msgs, m.core = core →
         m.line ≠ ln)) → Sparse.wf 0#64 s.regs = true → s.reg .HCX_DIR_NACKS (s.lineHome ln) 0 + 1 < countMax → ∀ (i : Instr) (kind : OpKind), (i = .getS t core ln ∧ kind = .getS) ∨
       (i = .getX t core ln ∧ kind = .getX) → ∃ s' : State, exec i s = .next s' ∧ s'.hcx.msgs = s.hcx.msgs ++ [⟨.nack, core, ln, []⟩] ∧
         s'.hcx.busy = s.hcx.busy ∧ s'.hcx.dir = s.hcx.dir ∧ s'.mem = s.mem ∧
         s'.reg .HCX_DIR_NACKS (s.lineHome ln) 0 = s.reg .HCX_DIR_NACKS (s.lineHome ln) 0 + 1 ∧ ∃ r ∈ s'.hcx.reqs, r.core = core ∧ r.line = ln ∧ r.kind = kind ∧ r.nacks = 1) ∧
     (∀ m, got .nack m → Sparse.wf 0#64 s.regs = true → s.reg .HCX_CORE_NACKED (core / 24) (core % 24) + 1 < countMax → ∃ s' : State, exec (.nackRx t core ln) s = .next s' ∧ s'.hcx.msgs = s.hcx.msgs.erase m ∧
       s'.hcx.reqs = s.hcx.reqs.map (fun r => if r.core = core ∧ r.line = ln then { r with retryAt := some (u.ft + backoff r.nacks) } else r) ∧
       s'.reg .HCX_CORE_NACKED (core / 24) (core % 24) = s.reg .HCX_CORE_NACKED (core / 24) (core % 24) + 1 ∧
       [1, 2, 3, 4, 5, 6].map backoff = [32, 64, 128, 256, 512, 512]) ∧
     (∀ r a, s.hcx.reqs.find? (fun r => r.core = core && r.line == ln) = some r → r.retryAt = some a →
       (u.ft < a → exec (.nackBackoffExpiry t core ln) s = .next u) ∧
       (a ≤ u.ft → exec (.nackBackoffExpiry t core ln) s = .next (({ u with hcx := { u.hcx with
         reqs := u.hcx.reqs.map (fun x => if x = r then { x with retryAt := none } else x) } } : State).homeRequest core ln r.kind).loseFound)) ∧
     (∀ (i : CoreDid → Instr) (kind : MsgKind) (m : CohMsg), (i = (fun did => .inv t core ⟨ln, did⟩) ∧ kind = .inv) ∨ (i = .fwdS t core ln ∧ kind = .fwdS) ∨
         (i = .fwdI t core ln ∧ kind = .fwdI) → got kind m →
       (s.copyOf core ln = none → ∀ did, ∃ s' : State, exec (i did) s = .next s' ∧ s'.hcx.msgs = s.hcx.msgs.erase m ++ [⟨.notPresent, core, ln, []⟩]) ∧
       (∀ c, s.copyOf core ln = some c → (u.ft < c.holdEnd → ∃ s' : State, exec (i .nothing) s = .next s' ∧ s'.hcx.msgs = s.hcx.msgs.erase m ∧
           { c with due := some kind } ∈ s'.hcx.copies) ∧
         (c.holdEnd ≤ u.ft → s.hcx.copies.Nodup → ∃ s' : State, exec (i .nothing) s = .next s' ∧ s'.hcx.msgs = s.hcx.msgs.erase m ++
           [⟨if kind = .inv then .invAck else if c.st = .modified then .wbDirty else .wbClean, core, ln, if kind = .inv then [] else c.bytes⟩] ∧
           (kind = .fwdS → { c with st := .sharedCopy, due := none } ∈ s'.hcx.copies) ∧ (kind ≠ .fwdS → c ∉ s'.hcx.copies)) ∧
         (s.hcx.copies.filter (fun x => x.core = core && x.line == ln) = [c] → c.holdEnd ≤ u.ft → (∀ bs : List Byte, kind ≠ .inv → c.st ≠ .sharedCopy → bs.length = 64 →
             ∃ s' : State, exec (i (.stored bs)) s = .next s' ∧ s'.hcx.msgs = s.hcx.msgs.erase m ++ [⟨.wbDirty, core, ln, bs⟩] ∧
               s'.copyOf core ln = if kind = .fwdS then some { c with st := .sharedCopy, bytes := bs, due := none } else none) ∧
           (c.st ≠ .modified → c.due = none → ∃ s' : State, exec (i .dropped) s = .next s' ∧ s'.copyOf core ln = none ∧
             s'.hcx.msgs = s.hcx.msgs.erase m ++ [⟨.notPresent, core, ln, []⟩])))) ∧
     (∀ (i : Instr) (kind : MsgKind) (st : CopySt) (m : CohMsg), (i = .dataS t core ln ∧ kind = .dataS ∧ st = .sharedCopy) ∨
         (i = .dataE t core ln ∧ kind = .dataE ∧ st = .exclusive) → got kind m → ∃ s' : State, exec i s = .next s' ∧
         (∃ c, s'.copyOf core ln = some c ∧ c.st = st ∧ c.bytes = m.bytes ∧ c.holdEnd = u.ft + 128 ∧ c.due = none ∧
           (kind = .dataE → c.l1 = true) ∧ (c.l1 = true ∨ (core, ln) ∈ s'.hcx.l1i)) ∧
         s'.hcx.msgs = s.hcx.msgs.erase m ∧ ∀ r ∈ s'.hcx.reqs, ¬(r.core = core ∧ r.line = ln)) ∧
     (∀ m c, got .grant m → s.copyOf core ln = some c → ∃ s' : State, exec (.grant t core ln) s = .next s' ∧
       s'.copyOf core ln = some { c with st := .exclusive, holdEnd := u.ft + 128, l1 := true }) ∧
     (∀ c, s.copyOf core ln = some c → (u.ft < c.holdEnd → exec (.coreHoldEnd t core ln) s = .next u) ∧
       (∀ o, c.holdEnd ≤ u.ft → c.due = none → s.homeOp ln = some o → o.granted = true → o.core = core → o.since ≤ u.ft → o.putAcks = [] →
         (∀ m ∈ s.hcx.msgs, m.line ≠ ln) → (∀ x ∈ s.hcx.busy, x.behind ≠ some ln) → (∀ r ∈ s.hcx.reserved, r.1 ≠ ln) →
         (∀ e ∈ s.hcx.engineWait, e.1 ≠ ln) → ∃ s' : State, exec (.coreHoldEnd t core ln) s = .next s' ∧ s'.homeOp ln = none ∧
           s'.hcx.dir = s.hcx.dir ∧ s'.hcx.copies = s.hcx.copies ∧ s'.mem = s.mem)) ∧
     (∀ c data, s.copyOf core ln = some c → c.st ≠ .sharedCopy → data.length = 64 → s.hcx.copies.Nodup →
       let kept : List CohMsg := if c.due.isSome then [⟨.notPresent, core, ln, []⟩] else []
       (s.homeOp ln = none → ∀ slc, s.slcLine ln = some slc → ∃ s' : State, exec (.putM t core ln data) s = .next s' ∧ c ∉ s'.hcx.copies ∧
         (core, ln) ∈ s'.hcx.putting ∧ s'.homeEntry ln = none ∧ s'.hcx.msgs = s.hcx.msgs ++ kept ++ [⟨.putAck, core, ln, []⟩] ∧
         (s'.slcLine ln).map (fun x => (x.bytes, x.dirty)) = some (data, true) ∧ s'.mem = s.mem) ∧
       (∀ o, s.homeOp ln = some o → ∃ s' : State, exec (.putM t core ln data) s = .next s' ∧ c ∉ s'.hcx.copies ∧
         s'.hcx.msgs = s.hcx.msgs ++ kept ∧ ∃ o', s'.homeOp ln = some o' ∧ o'.putAcks = o.putAcks ++ [core])) ∧
     (∀ m, got .putAck m → ∃ s' : State, exec (.putAck t core ln) s = .next s' ∧ (core, ln) ∉ s'.hcx.putting ∧ s'.hcx.copies = s.hcx.copies ∧
       s'.hcx.msgs = s.hcx.msgs.erase m)) ∧
  (∀ (s : State) (t core ln : Nat), core < 192 → isTier1 (64 * ln) = true → s.isShared (64 * ln) = true → s.hcx.running = true → let u := s.advance t
     let got (kind : MsgKind) (m : CohMsg) : Prop := s.hcx.msgs.find? (fun m => m.kind = kind && m.core == core && m.line == ln) = some m
     let acc (w : Option (List Byte)) : EngAcc := match w with | some bs => .write 0 bs false | none => .read none
     (∀ m o, s.coresRun = true → s.upsets = [] → got .invAck m → s.homeOp ln = some o → o.granted = false → o.behind = none → o.missing.Nodup → core ∈ o.missing →
       (o.missing ≠ [core] → ∃ s' : State, exec (.invAck t core ln) s = .next s' ∧ s'.hcx.msgs = s.hcx.msgs.erase m ∧ s'.hcx.dir = s.hcx.dir ∧
         ∃ o', s'.homeOp ln = some o' ∧ o'.missing = o.missing.erase core ∧ o'.kind = o.kind) ∧
       (∀ slc, o.missing = [core] → s.slcLine ln = some slc → (o.kind = .getX → ∃ s' : State, exec (.invAck t core ln) s = .next s' ∧
           s'.hcx.msgs = s.hcx.msgs.erase m ++ [⟨.dataE, o.core, ln, slc.bytes⟩] ∧ s'.homeEntry ln = some (.owned o.core)) ∧
         (o.kind = .upgrade → (s.copyOf o.core ln).isSome = true → ∃ s' : State, exec (.invAck t core ln) s = .next s' ∧
           s'.hcx.msgs = s.hcx.msgs.erase m ++ [⟨.grant, o.core, ln, []⟩] ∧ s'.homeEntry ln = some (.owned o.core)))) ∧
     (∀ m o slc, s.coresRun = true → s.upsets = [] → got .wbDirty m → s.homeOp ln = some o → o.granted = false → o.behind = none → o.missing = [core] →
       s.slcLine ln = some slc →
       (o.kind = .getS → o.core ≠ core → ∃ s' : State, exec (.dataWb t core ln) s = .next s' ∧
         s'.hcx.msgs = s.hcx.msgs.erase m ++ [⟨.dataS, o.core, ln, m.bytes⟩] ∧ s'.homeEntry ln = some (.shared [core, o.core]) ∧
         (s'.slcLine ln).map (fun x => (x.bytes, x.dirty)) = some (m.bytes, true)) ∧
       (o.kind = .getX → ∃ s' : State, exec (.dataWb t core ln) s = .next s' ∧
         s'.hcx.msgs = s.hcx.msgs.erase m ++ [⟨.dataE, o.core, ln, m.bytes⟩] ∧ s'.homeEntry ln = some (.owned o.core))) ∧
     (∀ m o slc, s.coresRun = true → s.upsets = [] → got .notPresent m → s.homeOp ln = some o → o.granted = false → o.behind = none → o.missing = [core] →
       s.slcLine ln = some slc → s.homeEntry ln = some (.owned core) → Sparse.wf 0#64 s.regs = true → s.reg .HCX_NOT_PRESENT (s.lineHome ln) 0 + 1 < countMax →
       (o.kind = .getX → ∃ s' : State, exec (.notPresent t core ln) s = .next s' ∧
         s'.hcx.msgs = s.hcx.msgs.erase m ++ [⟨.dataE, o.core, ln, slc.bytes⟩] ∧ s'.homeEntry ln = some (.owned o.core) ∧
         s'.reg .HCX_NOT_PRESENT (s.lineHome ln) 0 = s.reg .HCX_NOT_PRESENT (s.lineHome ln) 0 + 1) ∧
       (o.kind = .getS → ∃ s' : State, exec (.notPresent t core ln) s = .next s' ∧
         s'.hcx.msgs = s.hcx.msgs.erase m ++ [⟨.dataS, o.core, ln, slc.bytes⟩] ∧ s'.homeEntry ln = some (.shared [o.core]))) ∧
     (s.memoryQuiet → s.hcx.busy = [] → (∃ s' : State, exec (.engineSnoopAccess t ln none) s = .next s' ∧
         s'.resp = .bytes (s.peekBytes (64 * ln) 64) ∧ s'.mem = s.mem) ∧
       ∀ bs : List Byte, bs.length = 64 → ∃ s' : State, exec (.engineSnoopAccess t ln (some bs)) s = .next s' ∧ s'.peekBytes (64 * ln) 64 = bs ∧
         ∀ a, a < 64 * ln ∨ 64 * ln + 64 ≤ a → s'.cell a = s.cell a) ∧
     (∀ k, s.coresRun = true → s.upsets = [] → s.homeEntry ln = some (.owned k) → s.homeOp ln = none → ∀ w : Option (List Byte), (∀ bs, w = some bs → 0 < bs.length ∧ bs.length ≤ 64) →
       ∃ s' : State, exec (.engineSnoopAccess t ln w) s = .next s' ∧ s'.mem = s.mem ∧ s'.hcx.dir = s.hcx.dir ∧
         s'.hcx.msgs = s.hcx.msgs ++ [⟨if w.isSome then .fwdI else .fwdS, k, ln, []⟩] ∧ ∃ o, s'.homeOp ln = some o ∧ o.missing = [k] ∧ o.acc = some (acc w)) ∧
     (∀ o, s.coresRun = true → s.homeOp ln = some o →
       let waits (x : EngAcc) : State := { u with hcx := { u.hcx with engineWait := u.hcx.engineWait ++ [(ln, x)] } }
       (∀ w : Option (List Byte), (∀ bs, w = some bs → 0 < bs.length ∧ bs.length ≤ 64) → exec (.engineSnoopAccess t ln w) s = .next (waits (acc w))) ∧
       exec (.channelLineRead t (64 * ln) none) s = .next (waits (.read none))) ∧
     (∀ d, s.hcx.down = some d → ∀ w : Option (List Byte), (∀ bs, w = some bs → 0 < bs.length ∧ bs.length ≤ 64) →
       (∃ k, s.homeEntry ln = some (.owned k)) ∨ (s.homeOp ln).isSome = true ∨ ((s.homeEntry ln).isSome = true ∧ w.isSome = true) → exec (.engineSnoopAccess t ln w) s =
       .next { u with resp := .failed stContextFenced }) ∧
     (∀ cause unit, s.coresRun = true → let due : Prop := cause = 1 ∨ (cause = 3 ∧ ∃ r ∈ s.hcx.reqs, r.line = ln ∧ r.since + 20000 ≤ u.ft) ∨
         (cause = 4 ∧ ∃ r ∈ s.hcx.reserved, r.1 = ln ∧ r.2.2 + 20000 ≤ u.ft) ∨ (cause = 2 ∧ ∃ o, s.homeOp ln = some o ∧ o.missing ≠ [] ∧
           o.since + 20000 ≤ u.ft ∧ ∀ k ∈ o.missing, ∀ c, s.copyOf k ln = some c → c.holdEnd + 20000 ≤ u.ft)
       (cause = 5 → exec (.domainTimeout t cause ln unit) s = .next ((u.count .HCX_ECC_UNCORR (unitDie unit) 0 1).setHcx (fun h => { h with
         l1i := h.l1i.filter (fun e => e ≠ (24 * unitDie unit + unitInst unit, ln)) }))) ∧
       (¬due → cause ≠ 5 → exec (.domainTimeout t cause ln unit) s = .next u) ∧
       (due → ∃ s' : State, exec (.domainTimeout t cause ln unit) s = .next s' ∧ s'.hcx.down = some (cause, u.ft) ∧ s'.coresRun = false ∧
         s'.hcx.engineWait = [] ∧ (∀ o ∈ s'.hcx.busy, o.acc = none) ∧
         (s.hcx.engineWait ≠ [] ∨ (∃ o ∈ s.hcx.busy, o.acc.isSome = true) → s'.resp = .failed stContextFenced) ∧ (∀ v r w, (s.unit v).running = some r → r.prog = .sweeping w → (s'.unit v).running = none) ∧
         (s.errorFree → s.wcb = [] → (∀ e ∈ s.units, ∀ r, e.2.running = some r → ∀ w, r.prog ≠ .sweeping w) → ∀ c < 16, (s.ctx c).created = true → (s.ctx c).haltPending = false → (s.ctx c).st ≠ .halting → (s.ctx c).st ≠ .faulted →
           (s'.ctx c).st = .faulted ∧ (s'.ctx c).lastCode = stContextFenced))))

/-! Bridges (chapter 01). -/

/-- A bridge direction (R20 to R28, R465, R466): a good frame leaves the sender's retry buffer once those before it have; a bad one counts
and is asked for again, and a frame whose CRC fails on three replays in a row retires its group; more than 16 errors of a lane within
1,000,000 ns mark it, and with no context armed on either die the lowest free spare takes its place, the group out of service for 2,048 ns;
without a free spare the group is retired. The frames in flight on a group that leaves service go over the other groups, at once or as soon
as those have room, so that none is lost. A group out of service carries nothing, and every ARMED or RUNNING context that no longer fits is ended; one
that has ended for the other direction of the pair then waits for this one no more (R468). Traffic between two dies
crosses the row of its source and then the column bridge. Frame numbers, the group that takes a frame over, and the second lane marked
while one spare is left are the model's (logs 18, 65). -/
def Obligations.BridgesReplayRepairAndRetire : Prop :=
  (∀ a < 8, ∀ b < 8, (route a b).length = hops a b ∧ (∀ d ∈ route a b, dirExists d = true) ∧
    (route a b).foldl (fun x d => if d.die = x then (receiver d).1 else 8) a = b ∧
    (∀ i, i + 1 < (route a b).length → ((route a b).getD i ⟨0, 0⟩).slot ≠ 2)) ∧
  ∀ (s : State) (t group : Nat) (d : Dir), dirExists d = true → group < 64 → bitOf (s.dir d).retired group = false →
    Sparse.wf 0 (s.dir d).spares = true → let u := s.advance t
    let b := s.dir d
    let q := QueueId.bridgeRetry d.die d.slot group
    let x := s.queue q
    let (rd, rs) := receiver d
    let kept (s' : State) (e : QEntry) : Prop := e ∈ (s'.dir d).displaced ∨ ∃ g, e ∈ (s'.queue (.bridgeRetry d.die d.slot g)).entries
    let counts (s' : State) (r : Reg) (n : Nat) : Prop := Sparse.wf 0#64 s.regs = true → s.reg r rd rs + n < countMax → s'.reg r rd rs = s.reg r rd rs + n
    let moved (s' : State) : Prop := (∀ e ∈ s.inFlight d group, kept s' e) ∧ (s'.queue q).entries = [] ∧
      ((∃ g ∈ s.otherGroups d group, (s.queue (.bridgeRetry d.die d.slot g)).held + (s.inFlight d group).length ≤ 32) →
        (s'.dir d).displaced = b.displaced) ∧
      (∀ a ∈ (s'.dir d).awaiting, a.1.1 ≠ group) ∧ ∀ a ∈ (s'.dir d).acked, a.1 ≠ group
    let retires (i : Instr) : Prop := ∃ s' : State, exec i s = .next s' ∧ (s'.dir d).lost = b.lost + 1 ∧ bitOf (s'.dir d).retired group = true ∧
      moved s' ∧ (∀ m ∈ (s'.dir d).marked, m.1 ≠ group) ∧ (∀ m ∈ (s'.dir d).repairing, m.1 ≠ group) ∧
      (∀ c < 16, (s.ctx c).active = true → (s.ctx c).misfits (dirIndex d) (b.lost + 1) = true → (s'.ctx c).active = false) ∧
      ∀ c < 16, ∀ f, (s.ctx c).created = true → (s.ctx c).hasFailed = true → (s.ctx c).degraded = some (dirIndex d ^^^ 1, f) →
        (s.ctx c).misfits (dirIndex d) (b.lost + 1) = true → (s'.ctx c).degraded = none
    let past (r : Nat × Nat) : Prop := r.1 = group ∧ r.2 + 2048 ≤ u.ft
    (b.serves group = false → exec (.bridgeReplay t d group) s = .next u ∧ ∀ frame ok, exec (.bridgeFrameRx t d group frame ok) s = .next u) ∧
    (b.serves group = true →
      exec (.bridgeReplay t d group) s = .next (u.setQueue q (fun x => { x with mark := x.rp, rd := x.rp })) ∧
      (x.Ordered (queueDepth q) → (∀ e ∈ x.entries, e.bad = false) → ∀ frame,
        let accepted (k : Nat) : Prop := frameNo (x.rp + k) = frame ∨ (group, frameNo (x.rp + k)) ∈ b.acked
        let sent (k : Nat) : Prop := x.rp + k < x.rd ∨ ∃ j, k ≤ j ∧ j < x.entries.length ∧ frameNo (x.rp + j) = frame
        ∃ (s' : State) (n : Nat) (more : List QEntry), exec (.bridgeFrameRx t d group frame true) s = .next s' ∧ n ≤ x.entries.length ∧
          (s'.queue q).entries = x.entries.drop n ++ more ∧ (∀ e ∈ more, e ∈ b.displaced) ∧ (∀ e ∈ b.displaced, kept s' e) ∧
          (s'.queue q).rp = x.rp + n ∧ (∀ k < n, accepted k ∧ sent k) ∧ (n < x.entries.length → ¬(accepted n ∧ sent n)) ∧
          (∀ k, n ≤ k → k < x.entries.length → frameNo (x.rp + k) = frame → (group, frame) ∈ (s'.dir d).acked) ∧
          (∀ a ∈ (s'.dir d).awaiting, a.1 ≠ (group, frame)) ∧ (s'.dir d).retired = b.retired ∧ s'.mem = s.mem ∧ s'.ctxs = s.ctxs) ∧
      ((∀ e ∈ x.entries, e.bad = false) → ∀ frame, let n := match b.awaiting.find? (fun a => a.1 = (group, frame)) with | some a => a.2 + 1 | none => 0
        (n < 3 → ∃ s' : State, exec (.bridgeFrameRx t d group frame false) s = .next s' ∧ (s'.dir d).retired = b.retired ∧
          (s'.queue q).entries = x.entries ∧ (s'.queue q).rp = x.rp ∧
          (s'.dir d).awaiting.find? (fun a => a.1 = (group, frame)) = some ((group, frame), n) ∧
          (∀ k, k ≠ (group, frame) → (s'.dir d).awaiting.find? (fun a => a.1 = k) = b.awaiting.find? (fun a => a.1 = k)) ∧
          counts s' .BRG_CRC_ERR 1 ∧ counts s' .BRG_REPLAYS 1 ∧ s'.mem = s.mem ∧ s'.ctxs = s.ctxs) ∧
        (3 ≤ n → retires (.bridgeFrameRx t d group frame false)))) ∧
    (∀ lane errors, lane < 68 → let sum := b.laneErrors u.ft (68 * group + lane) + errors
      let i := Instr.laneMarkRepair t ⟨d, group, lane⟩ errors
      let only (s' : State) : Prop := exec i s = .next s' ∧ { s' with bridges := s.bridges } = u ∧ (s'.dir d).retired = b.retired
      (sum ≤ 16 → ∃ s' : State, only s' ∧ (s'.dir d).laneErrors u.ft (68 * group + lane) = sum ∧ (s'.dir d).marked = b.marked ∧
        (s'.dir d).spares = b.spares) ∧
      (16 < sum → (group, lane) ∉ b.marked →
        (b.idleSpare group lane = true → ∃ s' : State, only s' ∧ (s'.dir d).marked = b.marked ∧ (s'.dir d).spare group (lane - 64) = failedSpare) ∧
        (b.idleSpare group lane = false → b.freeSpare group = none → retires i) ∧
        (∀ k, b.idleSpare group lane = false → b.freeSpare group = some k →
          ((s.dieArmed d.die = true ∨ s.dieArmed (receiver d).1 = true) → ∃ s' : State, only s' ∧ (s'.dir d).marked = b.marked ++ [(group, lane)] ∧
            (s'.dir d).spares = b.spares) ∧
          (s.dieArmed d.die = false → s.dieArmed (receiver d).1 = false → b.marked = [] → ∃ s' : State, exec i s = .next s' ∧ moved s' ∧
            (s'.dir d).marked = [] ∧ (s'.dir d).retired = b.retired ∧ (s'.dir d).repairing = (group, u.ft) :: b.repairing ∧
            (s'.dir d).serves group = false ∧ s'.mem = s.mem ∧ s'.ctxs = s.ctxs ∧
            (s'.dir d).spare group k = (if lane < 64 then lane + 1 else b.spare group (lane - 64)) ∧
            (64 ≤ lane → (s'.dir d).spare group (lane - 64) = failedSpare) ∧
            ∀ g j, (g, j) ≠ (group, k) → (g, 64 + j) ≠ (group, lane) → g < 64 → j < 4 → (s'.dir d).spare g j = b.spare g j)))) ∧
    ((∀ r ∈ b.repairing, ¬past r) → exec (.bridgeRepairDone t d group) s = .next u) ∧
      ((∃ r ∈ b.repairing, past r) → ∃ s' : State, exec (.bridgeRepairDone t d group) s = .next s' ∧
        (∀ r, r ∈ (s'.dir d).repairing ↔ r ∈ b.repairing ∧ ¬past r) ∧
        ((∀ r ∈ b.repairing, r.1 = group → past r) → (s'.dir d).serves group = true) ∧
        counts s' .BRG_REPAIRS (b.repairing.countP (fun r => r.1 = group && decide (r.2 + 2048 ≤ u.ft))) ∧
        (∀ e ∈ b.displaced, kept s' e) ∧ (s'.dir d).spares = b.spares ∧ (s'.dir d).retired = b.retired ∧ s'.mem = s.mem ∧ s'.ctxs = s.ctxs)

/-! The board's interfaces (chapter 18). -/

/-- The I3C target (R476 to R478). It answers only while its supplies are there and Meilamo runs; the common command codes set and clear
the dynamic address and the in-band interrupts, and return what R476 gives; a private write of the selector 0x01 and one whole packet is
handed over, any other is dropped and counts, and while 16 replies are unread none is taken; a private read returns the oldest reply. What
GETPID, GETBCR, GETDCR and GETSTATUS return is fixed by the part and open here (log 2).

The management data port (R479 to R483). SET_ADDR sets the address that WRITE_DATA and READ_DATA go on from; a write enters the write
path with its address and is applied from there in order; a read returns the bytes in address order, and from the first that is not ready
on 0xFF, where one of its lines is recalled, waits at its home or lies in a stack asleep (all are ready otherwise, R482); the second window
reads and writes 8 bytes at MDP_H_ADDR, which moves on, and its entry goes ahead of those that the QSPI stored at the same FT (log 105); an
access that cannot be served sets the error fields and writes nothing. -/
def Obligations.TheBoardReadsAndWrites : Prop :=
  (∀ (s : State) (t : Nat), let u := s.advance t
     let v : State := { u with mgmt := { u.mgmt with returned := none } }
     let reads (i : Instr) (bs : List Byte) : Prop := exec i s = .next { u with mgmt := { u.mgmt with returned := some bs } }
     (s.boardLive = false → ∀ a st e bs, ∀ i ∈ [Instr.entdaa t a, .setdasa t st a, .rstdaa t, .enec t e, .disec t e, .getpid t, .getbcr t, .getdcr t,
       .getstatus t, .getmwl t, .getmrl t, .i3cPrivateWrite t bs, .i3cPrivateRead t], exec i s = .next v) ∧
     (s.boardLive = true →
       (∀ a, exec (.entdaa t a) s = .next { v with mgmt := { v.mgmt with dynAddr := some (s.mgmt.dynAddr.getD (a % 128)) } }) ∧
       (∀ st a, exec (.setdasa t st a) s = .next (if st = 0x58 + s.pins.straps ∧ s.mgmt.dynAddr = none
         then { v with mgmt := { v.mgmt with dynAddr := some (a % 128) } } else v)) ∧
       exec (.rstdaa t) s = .next { v with mgmt := { v.mgmt with dynAddr := none } } ∧
       (∀ e, exec (.enec t e) s = .next { v with mgmt := { v.mgmt with ibiOn := s.mgmt.ibiOn || bitOf e 0 } }) ∧
       (∀ e, exec (.disec t e) s = .next { v with mgmt := { v.mgmt with ibiOn := s.mgmt.ibiOn && !bitOf e 0 } }) ∧
       (∃ bs, bs.length = 6 ∧ reads (.getpid t) bs) ∧ (∃ b, reads (.getbcr t) [b]) ∧ (∃ b, reads (.getdcr t) [b]) ∧
       (∃ bs, bs.length = 2 ∧ reads (.getstatus t) bs) ∧ reads (.getmwl t) [0x02#8, 0x01#8] ∧ reads (.getmrl t) [0x00#8, 0x20#8] ∧
       (∀ bs, 16 ≤ s.mgmt.replies.length → exec (.i3cPrivateWrite t bs) s = .next v) ∧
       (∀ bs : List Byte, s.mgmt.replies.length < 16 → fieldAt bs 0 1 ≠ 1 ∨ bs.length ≠ 65 + fieldAt bs 3 2 →
         exec (.i3cPrivateWrite t bs) s = .next (({ u with mgmt := { u.mgmt with returned := some [] } } : State).count .MDP_I3C_DROPPED 0 0 1)) ∧
       (∀ bs : List Byte, s.mgmt.replies.length < 16 → bs.length ≤ 513 → fieldAt bs 0 1 = 1 → bs.length = 65 + fieldAt bs 3 2 →
         exec (.i3cPrivateWrite t bs) s = .next (({ u with mgmt := { u.mgmt with
           waiting := s.mgmt.waiting ++ [bs.drop 1], returned := some [] } } : State).serveBoard)) ∧
       (s.mgmt.replies = [] → reads (.i3cPrivateRead t) []) ∧
       (∀ r rest, s.mgmt.replies = r :: rest → s.mgmt.waiting = [] → exec (.i3cPrivateRead t) s =
         .next { u with mgmt := { u.mgmt with replies := rest, returned := some r } }))) ∧
  (∀ (s : State) (t : Nat), s.boardLive = true → Sparse.wf 0#64 s.regs = true → s.reg .MDP_Q_TXNS 0 0 + 1 < countMax → let u := s.advance t
     let a := s.reg .MDP_Q_ADDR 0 0
     let h := s.reg .MDP_H_ADDR 0 0
     let q := s.queue .dataPort
     let failed (s' : State) (src code : Nat) : Prop := s'.mgmt.err = true ∧ s'.mgmt.lastErr = code ∧ s'.mgmt.errSrc = src ∧ s'.mem = s.mem
     (∀ bs : List Byte, ∃ s' : State, exec (.mdpSetAddr t bs) s = .next s' ∧ s'.reg .MDP_Q_TXNS 0 0 = s.reg .MDP_Q_TXNS 0 0 + 1 ∧
       (bs.length = 8 → leNat bs < 2 ^ 44 → s'.reg .MDP_Q_ADDR 0 0 = leNat bs ∧ s'.mgmt.err = s.mgmt.err) ∧
       (bs.length ≠ 8 ∨ 2 ^ 44 ≤ leNat bs → s'.reg .MDP_Q_ADDR 0 0 = a ∧ failed s' 1 stBadParam)) ∧
     (∀ bs : List Byte, a < 2 ^ 44 → bs.length = 8 → a % 8 = 0 → q.packer = [] → q.entries.length = q.wr - q.rp → q.wr - q.rp < 1024 →
       ∃ s' : State, exec (.mdpWriteData t bs) s = .next s' ∧ s'.mem = s.mem ∧ s'.reg .MDP_Q_ADDR 0 0 = (a + 8) % 2 ^ 44 ∧
         (s'.queue .dataPort).entries = q.entries ++ [{ bytes := bs, valid := 255, last := true, addr := a, window := 1 }]) ∧
     (∀ bs : List Byte, 0 < bs.length → bs.length ≤ 4096 → isRegAddr a = true → a % 8 ≠ 0 ∨ bs.length % 8 ≠ 0 →
       ∃ s' : State, exec (.mdpWriteData t bs) s = .next s' ∧ failed s' 1 stBadParam ∧ s'.queue .dataPort = q) ∧
     (q.isEmpty = true → exec (.mdpWriteApply t) s = .next u) ∧
     (∀ (e : QEntry) (rest : List QEntry), q.isEmpty = false → q.entries = e :: rest → q.rp < q.wr → e.bad = false → e.bytes.length = 8 → e.valid = 255 →
       q.rd ≤ q.wr → s.mdpReach e.addr 8 = stOk → s.memoryQuiet → (isRegAddr e.addr = false → isTier1 e.addr = true ∨ isWs e.addr = true →
         isTier1 (e.addr + 7) = true ∨ isWs (e.addr + 7) = true → ∃ s' : State, exec (.mdpWriteApply t) s = .next s' ∧
           s'.peekBytes e.addr 8 = e.bytes ∧ (s'.queue .dataPort).entries = rest ∧ ∀ b, b < e.addr ∨ e.addr + 8 ≤ b → s'.peek b = s.peek b) ∧
       (∀ x, isRegAddr e.addr = true → regAt e.addr = some x → exec (.mdpWriteApply t) s = .next (((u.setQueue .dataPort (fun q =>
         RunQ.release false (q.rp + 1) { q with rd := max q.rd (q.rp + 1), wrSeen := max q.wrSeen (q.rp + 1) })).count .MDP_WQ_ECC_CORR 0 0 e.corr).writeReg
           x (leNat e.bytes)))) ∧
     (∀ (e : QEntry) (rest : List QEntry), q.isEmpty = false → q.entries = e :: rest → q.rp < q.wr → e.bad = false → e.valid = 255 → e.bytes.length = 8 →
       isAssigned e.addr = false → ∃ s' : State, exec (.mdpWriteApply t) s = .next s' ∧ failed s' e.window stTranslationFault) ∧
     (∀ n ready, q.entries = [] → 0 < n → n ≤ 4096 → isTier1 a = true ∨ isWs a = true → isTier1 (a + n - 1) = true ∨ isWs (a + n - 1) = true →
       s.boot.st ≠ .hold → s.memoryQuiet →
       let got : Nat := if ∀ ln ∈ linesOf a n, isTier1 (64 * ln) = true → (s.channelAt (64 * ln)).1 / 32 ∉ s.asleep then n else ready
       ∃ s' : State, exec (.mdpReadData t n ready) s = .next s' ∧ s'.mem = s.mem ∧
         s'.mgmt.returned = some ((s.peekBytes a n).take got ++ List.replicate (n - got) 0xFF#8) ∧ s'.reg .MDP_Q_ADDR 0 0 = (a + n) % 2 ^ 44 ∧
         s'.mgmt.underrun = (s.mgmt.underrun || decide (got < n))) ∧
     (∃ s' : State, exec (.mdpReadStatus t) s = .next s' ∧ s'.mem = s.mem ∧ s'.mgmt.returned = some (leBytes 8 (s.view ⟨.MDP_STATUS, 0, 0⟩))) ∧
     (isTier1 h = true ∨ isWs h = true → h % 8 = 0 → s.boot.st ≠ .hold → s.memoryQuiet → ∃ s' : State, exec (.mdpHDataAccess t none) s = .next s' ∧
       s'.mem = s.mem ∧ s'.resp = .value (s.numAt 8 h) ∧ s'.reg .MDP_H_ADDR 0 0 = (h + 8) % 2 ^ 44) ∧
     (∀ v, q.entries.length = q.wr - q.rp → q.wr - q.rp < 1024 →
       let old := q.entries.length - (if s.mgmt.qStored.1 = u.ft then s.mgmt.qStored.2 else 0)
       ∃ s' : State, exec (.mdpHDataAccess t (some v)) s = .next s' ∧ s'.mem = s.mem ∧
       s'.reg .MDP_H_ADDR 0 0 = (h + 8) % 2 ^ 44 ∧
       (s'.queue .dataPort).entries = q.entries.take old ++ [{ bytes := leBytes 8 (v % 2 ^ 64), valid := 255, last := true, addr := h, window := 2 }] ++
         q.entries.drop old))

/-! Invariants of every step. -/

/-- Every step keeps the canonical form of the stores and the number of the parts (log 4): tier 0 and tier 1, the registers, the flash, the
route table and the page bias list rising addresses and no value that an unlisted one reads as; there are 16 contexts, 17 rings, 8 dies with
translation caches and power managers, and 16 ports. -/
def Obligations.EveryStepKeepsTheStoresCanonical : Prop :=
  ∀ (s s' : State), s.canonical → step s = .next s' → s'.canonical

/-- No step turns time or a fuse back, whatever resets it makes: AON never decreases, the minimum SVN never falls, a burned key slot stays
burned (R37, R428, R438), and the commands behind the one carried out still wait, in their order. -/
def Obligations.NoStepTurnsTimeOrFusesBack : Prop :=
  ∀ (s s' : State), step s = .next s' → s.aon ≤ s'.aon ∧ s.svnMin ≤ s'.svnMin ∧
    (∀ i < 8, bitOf s.revoked i = true → bitOf s'.revoked i = true) ∧ s'.pending = s.pending.tail
end

