-- ==== Sys2Proof/Laws/KeptBase.lean ====
section
/-!
SUPPORT. What an operation keeps: the waiting commands, FT, AON, the flash and the fuses (`State.kept`).
-/
namespace Sys2Proof.Machine
/-- What no ordinary operation touches: the waiting commands, the clocks, the flash and the fuses. -/
structure Kept where
  pending : List Instr
  ft : Nat
  aon : Nat
  flash : Sparse Byte
  svnMin : Nat
  revoked : Nat

def State.kept (s : State) : Kept := ⟨s.pending, s.ft, s.aon, s.flash, s.svnMin, s.revoked⟩


@[simp ↓] theorem foldl_kept {α : Type} (f : State → α → State) (h : ∀ s x, (f s x).kept = s.kept) (l : List α) (s : State) :
    (l.foldl f s).kept = s.kept := by
  induction l generalizing s with
  | nil => rfl
  | cons a l ih => simp [ih, h]


@[simp] theorem kept_mk (x0 x1 x2 x3 x4 x5 x6 x7 x8 x9 x10 x11 x12 x13 x14 x15 x16 x17 x18 x19 x20 x21 x22 x23 x24 x25 x26 x27 x28 x29 x30 x31 x32 x33 x34 x35 x36 x37 x38 x39 x40 x41 x42 x43 x44 x45) : State.kept ⟨x0, x1, x2, x3, x4, x5, x6, x7, x8, x9, x10, x11, x12, x13, x14, x15, x16, x17, x18, x19, x20, x21, x22, x23, x24, x25, x26, x27, x28, x29, x30, x31, x32, x33, x34, x35, x36, x37, x38, x39, x40, x41, x42, x43, x44, x45⟩ = ⟨x0, x1, x2, x10, x28, x29⟩ := rfl

@[simp] theorem kept_fold (s : State) : (⟨s.pending, s.ft, s.aon, s.flash, s.svnMin, s.revoked⟩ : Kept) = s.kept := rfl

@[simp ↓] theorem kept_ite (c : Prop) [Decidable c] (a b : State) : (if c then a else b).kept = if c then a.kept else b.kept := by
  split <;> rfl

@[simp ↓] theorem kept_ite_fst {α : Type} (c : Prop) [Decidable c] (a b : State × α) :
    (if c then a else b).1.kept = if c then a.1.kept else b.1.kept := by split <;> rfl

@[simp ↓] theorem foldl_kept_pair {α β : Type} (f : State × β → α → State × β) (h : ∀ s x, (f s x).1.kept = s.1.kept) (l : List α)
    (s : State × β) : (l.foldl f s).1.kept = s.1.kept := by
  induction l generalizing s with
  | nil => rfl
  | cons a l ih => simp [ih, h]
end Sys2Proof.Machine
end

