-- ==== Sys2Proof/Laws/KeptOps.lean ====
section
/-!
SUPPORT. The operations of Sys2Proof/Machine/Ops.lean keep `State.kept`.
-/
namespace Sys2Proof.Machine

@[simp ↓] theorem setCtx_kept (s : State) (c : Nat) (f : Ctx → Ctx) :
    (State.setCtx s c f).kept = (s).kept := by simp only [State.setCtx]; (repeat' split) <;> simp [*]

@[simp ↓] theorem setUnit_kept (s : State) (u : Nat) (f : UnitSt → UnitSt) :
    (State.setUnit s u f).kept = (s).kept := by simp only [State.setUnit]; (repeat' split) <;> simp [*]

@[simp ↓] theorem setQueue_kept (s : State) (q : QueueId) (f : RunQ → RunQ) :
    (State.setQueue s q f).kept = (s).kept := by simp only [State.setQueue]; (repeat' split) <;> simp [*]

@[simp ↓] theorem setDie_kept (s : State) (d : Nat) (f : DiePwr → DiePwr) :
    (State.setDie s d f).kept = (s).kept := by simp only [State.setDie]; (repeat' split) <;> simp [*]

@[simp ↓] theorem setRing_kept (s : State) (r : Nat) (f : Ring → Ring) :
    (State.setRing s r f).kept = (s).kept := by simp only [State.setRing]; (repeat' split) <;> simp [*]

@[simp ↓] theorem setBridge_kept (s : State) (die slot : Nat) (f : BridgeSt → BridgeSt) :
    (State.setBridge s die slot f).kept = (s).kept := by simp only [State.setBridge]; (repeat' split) <;> simp [*]

@[simp ↓] theorem free_kept (s : State) (bound : Nat) :
    (State.free s bound).2.kept = (s).kept := by simp only [State.free]; (repeat' split) <;> simp [*]

@[simp ↓] theorem setReg_kept (s : State) (r : Reg) (die slot v : Nat) :
    (State.setReg s r die slot v).kept = (s).kept := by simp only [State.setReg]; (repeat' split) <;> simp [*]

@[simp ↓] theorem notify_kept (s : State) (die : Nat) :
    (State.notify s die).kept = (s).kept := by simp only [State.notify]; (repeat' split) <;> simp [*]

@[simp ↓] theorem inject_kept (s : State) (die target index : Nat) :
    (State.inject s die target index).2.kept = (s).kept := by simp only [State.inject]; (repeat' split) <;> simp [*]

@[simp ↓] theorem happen_kept (a0 : Nat) (a1 : Ev) (a2 : State) :
    (State.happen a0 a1 a2).kept = (a2).kept := by
  induction a0 generalizing a1 a2 with
  | zero => rfl
  | succ k ih => cases a1 <;> (simp only [State.happen]; (repeat' split) <;> simp [*])

@[simp ↓] theorem count_kept (s : State) (r : Reg) (die slot n : Nat) :
    (State.count s r die slot n).kept = (s).kept := by simp only [State.count]; (repeat' split) <;> simp [*]

@[simp ↓] theorem raise_kept (s : State) (code unit ctx severity address detail : Nat) :
    (State.raise s code unit ctx severity address detail).kept = (s).kept := by simp only [State.raise]; (repeat' split) <;> simp [*]

@[simp ↓] theorem charge_kept (s : State) (die acct cls n : Nat) :
    (State.charge s die acct cls n).kept = (s).kept := by unfold State.charge; (repeat' (first | split | extract_lets)) <;> (try simp only [Prod.ext_iff] at *) <;> (repeat cases ‹_ ∧ _›) <;> (try subst_vars) <;> simp +zetaDelta [*]

@[simp ↓] theorem retiredCycles_kept (s : State) (n : Nat) :
  (State.retiredCycles s n).2.kept = (s).kept := by simp only [State.retiredCycles]; (repeat' split) <;> simp [*]

@[simp ↓] theorem settle_kept (s : State) (d : Nat) :
  (State.settle s d).kept = (s).kept := by simp only [State.settle]; (repeat' split) <;> simp [*]

@[simp ↓] theorem settleAll_kept (s : State) :
  (State.settleAll s).kept = (s).kept := by simp only [State.settleAll]; (repeat' split) <;> simp [*]

@[simp ↓] theorem leaveDies_kept (s : State) (c : Nat) :
  (State.leaveDies s c).kept = (s).kept := by simp only [State.leaveDies]; (repeat' split) <;> simp [*]

@[simp ↓] theorem setLevel_kept (s : State) (d : Nat) (l : Nat) :
  (State.setLevel s d l).kept = (s).kept := by simp only [State.setLevel]; (repeat' split) <;> simp [*]

@[simp ↓] theorem mend_kept (s : State) (p : StoredWord → Bool) :
  (State.mend s p).kept = (s).kept := by simp only [State.mend]; (repeat' split) <;> simp [*]

@[simp ↓] theorem countErr_kept (s : State) (corrected : Bool) (a n : Nat) :
    (State.countErr s corrected a n).kept = (s).kept := by simp only [State.countErr]; (repeat' split) <;> simp [*]

@[simp ↓] theorem touchStack_kept (s : State) (a : Nat) :
    (State.touchStack s a).kept = (s).kept := by simp only [State.touchStack]; (repeat' split) <;> simp [*]

@[simp ↓] theorem countLines_kept (s : State) (write : Bool) (a n : Nat) :
    (State.countLines s write a n).kept = (s).kept := by simp only [State.countLines]; (repeat' split) <;> simp [*]

@[simp ↓] theorem storeCells_kept (s : State) (a : Nat) (bs : List Byte) :
    (State.storeCells s a bs).kept = (s).kept := by simp only [State.storeCells]; (repeat' split) <;> simp [*]

@[simp ↓] theorem toDram_kept (s : State) (ln : Nat) (bs : List Byte) :
  (State.toDram s ln bs).kept = (s).kept := by simp only [State.toDram]; (repeat' split) <;> simp [*]

@[simp ↓] theorem setEntry_kept (s : State) (ln : Nat) (w : Wcb) :
    (State.setEntry s ln w).kept = (s).kept := by simp only [State.setEntry]; (repeat' split) <;> simp [*]

@[simp ↓] theorem dropEntry_kept (s : State) (ln : Nat) :
    (State.dropEntry s ln).kept = (s).kept := by simp only [State.dropEntry]; (repeat' split) <;> simp [*]

@[simp ↓] theorem setMgmt_kept (s : State) (f : Mgmt → Mgmt) :
  (State.setMgmt s f).kept = (s).kept := by simp only [State.setMgmt]; (repeat' split) <;> simp [*]

@[simp ↓] theorem setHcx_kept (s : State) (f : Hcx → Hcx) :
    (State.setHcx s f).kept = (s).kept := by simp only [State.setHcx]; (repeat' split) <;> simp [*]

@[simp ↓] theorem setFenced_kept (s : State) :
    (State.setFenced s).kept = (s).kept := by simp only [State.setFenced]; (repeat' split) <;> simp [*]

@[simp ↓] theorem mendSlc_kept (s : State) (ln : Nat) :
  (State.mendSlc s ln).kept = (s).kept := by simp only [State.mendSlc]; (repeat' split) <;> simp [*]

@[simp ↓] theorem putLine_kept (s : State) (ln : Nat) (bs : List Byte) :
    (State.putLine s ln bs).kept = (s).kept := by simp only [State.putLine]; (repeat' split) <;> simp [*]

@[simp ↓] theorem mergeCopy_kept (s : State) (ln : Nat) (bs : List Byte) :
  (State.mergeCopy s ln bs).kept = (s).kept := by simp only [State.mergeCopy]; (repeat' split) <;> simp [*]

@[simp ↓] theorem homeWrite_kept (s : State) (ln : Nat) (bs : List Byte) :
    (State.homeWrite s ln bs).kept = (s).kept := by simp only [State.homeWrite]; (repeat' split) <;> simp [*]

@[simp ↓] theorem takeDirty_kept (s : State) (ln : Nat) :
    (State.takeDirty s ln).1.kept = (s).kept := by simp only [State.takeDirty]; (repeat' split) <;> simp [*]

@[simp ↓] theorem snoopRead_kept (s : State) (ln : Nat) :
    (State.snoopRead s ln).kept = (s).kept := by simp only [State.snoopRead]; (repeat' split) <;> simp [*]

@[simp ↓] theorem snoopWrite_kept (s : State) (a : Nat) (bs : List Byte) :
    (State.snoopWrite s a bs).kept = (s).kept := by simp only [State.snoopWrite]; (repeat' split) <;> simp [*]

@[simp ↓] theorem findError_kept (s : State) (ln : Nat) :
  (State.findError s ln).kept = (s).kept := by simp only [State.findError]; (repeat' split) <;> simp [*]

@[simp ↓] theorem countCorr_kept (s : State) (w : Nat) :
  (State.countCorr s w).kept = (s).kept := by simp only [State.countCorr]; (repeat' split) <;> simp [*]

@[simp ↓] theorem load_kept (s : State) (a n : Nat) :
    (State.load s a n).1.kept = (s).kept := by
  simp only [State.load]
  split
  · simp
  · split <;> simp [apply_ite]

end Sys2Proof.Machine
end

