-- ==== Sys2Proof/Laws/KeptMem.lean ====
section
/-!
SUPPORT. The operations of Sys2Proof/Machine/Mem.lean keep `State.kept`.
-/
namespace Sys2Proof.Machine

@[simp ↓] theorem mergeWrite_kept (s : State) (a : Nat) (bs : List Byte) (w : Wcb) :
  (State.mergeWrite s a bs w).1.kept = (s).kept := by simp only [State.mergeWrite]; (repeat' split) <;> simp [*]

@[simp ↓] theorem mergeWaiting_kept (ln : Nat) (a0 : List (Nat × List Byte)) (a1 : State) :
  (State.mergeWaiting ln a0 a1).1.kept = (a1).kept := by 
  induction a0 generalizing ln a1 with
  | nil => simp [State.mergeWaiting]
  | cons x l ih => simp only [State.mergeWaiting]; (repeat' split) <;> (try simp only [Prod.ext_iff] at *) <;> (repeat cases ‹_ ∧ _›) <;> (try subst_vars) <;> simp [*]

@[simp ↓] theorem finishFill_kept (s : State) (ln : Nat) :
  (State.finishFill s ln).1.kept = (s).kept := by simp only [State.finishFill]; (repeat' split) <;> ((try simp only [Prod.ext_iff] at *) <;> (repeat cases ‹_ ∧ _›) <;> (try subst_vars) <;> simp [*])

@[simp ↓] theorem writeOut_kept (lost : State → Nat → State) (s : State) (ln : Nat) (hlost : ∀ s x, (lost s x).kept = s.kept) :
  (State.writeOut lost s ln).kept = (s).kept := by simp only [State.writeOut]; (repeat' split) <;> simp [*]

@[simp ↓] theorem flushEntry_kept (lost : State → Nat → State) (s : State) (ln : Nat) (h0 : ∀ s v0, (lost s v0).kept = (s).kept) :
    (State.flushEntry lost s ln).kept = (s).kept := by unfold State.flushEntry; (repeat' (first | split | extract_lets)) <;> (try simp only [Prod.ext_iff] at *) <;> (repeat cases ‹_ ∧ _›) <;> (try subst_vars) <;> simp +zetaDelta [*]

@[simp ↓] theorem makeRoom_kept (lost : State → Nat → State) (s : State) (ch : Nat) (h0 : ∀ s v0, (lost s v0).kept = (s).kept) :
    (State.makeRoom lost s ch).kept = (s).kept := by simp only [State.makeRoom]; (repeat' split) <;> simp [*]

@[simp ↓] theorem copyRoom_kept (lost : State → Nat → State) (s : State) (a : Nat) (n : Nat) (hlost : ∀ s x, (lost s x).kept = s.kept) :
  (State.copyRoom lost s a n).kept = (s).kept := by simp only [State.copyRoom]; (repeat' split) <;> simp [*]

@[simp ↓] theorem holdLine_kept (lost : State → Nat → State) (s : State) (ln ch : Nat) (h0 : ∀ s v0, (lost s v0).kept = (s).kept) :
    (State.holdLine lost s ln ch).1.kept = (s).kept := by simp only [State.holdLine]; (repeat' split) <;> ((try simp only [Prod.ext_iff] at *) <;> (repeat cases ‹_ ∧ _›) <;> subst_vars <;> simp [*])

@[simp ↓] theorem saveLine_kept (lost : State → Nat → State) (s : State) (a : Nat) (bs : List Byte) (h0 : ∀ s v0, (lost s v0).kept = (s).kept) :
    (State.saveLine lost s a bs).1.kept = (s).kept := by simp only [State.saveLine]; (repeat' split) <;> simp [*]

@[simp ↓] theorem putWs_kept (s : State) (a : Nat) (bs : List Byte) :
    (State.putWs s a bs).1.kept = (s).kept := by simp only [State.putWs]; (repeat' split) <;> simp [*]

@[simp ↓] theorem getWs_kept (s : State) (a n : Nat) :
    (State.getWs s a n).1.kept = (s).kept := by simp only [State.getWs]; (repeat' split) <;> simp [*]

@[simp ↓] theorem saveWs_kept (s : State) (a : Nat) (bs : List Byte) :
    (State.saveWs s a bs).1.kept = (s).kept := by simp only [State.saveWs]; (repeat' split) <;> ((try simp only [Prod.ext_iff] at *) <;> (repeat cases ‹_ ∧ _›) <;> subst_vars <;> simp [*])

@[simp ↓] theorem saveWith_kept (lost : State → Nat → State) (s : State) (a : Nat) (bs : List Byte) (h0 : ∀ s v0, (lost s v0).kept = (s).kept) :
    (State.saveWith lost s a bs).1.kept = (s).kept := by simp only [State.saveWith]; (repeat' split) <;> simp [*]

@[simp ↓] theorem walk_kept (need : Need) (va : Nat) (a0 : State) (a1 : List (Nat × Nat × Nat)) (a2 : Nat) :
    (State.walk need va a0 a1 a2).1.kept = (a0).kept := by
  induction a1 generalizing need va a0 a2 with
  | nil => simp [State.walk]
  | cons x l ih => simp only [State.walk]; (repeat' split) <;> simp [*]

@[simp ↓] theorem walkFrom_kept (s : State) (need : Need) (c va : Nat) :
    (State.walkFrom s need c va).1.kept = (s).kept := by simp only [State.walkFrom]; (repeat' split) <;> simp [*]

@[simp ↓] theorem tcRead_kept (s : State) (die : Nat) (c : Nat) (va : Nat) :
  (State.tcRead s die c va).1.kept = (s).kept := by simp only [State.tcRead]; (repeat' split) <;> simp [*]

@[simp ↓] theorem translate_kept (s : State) (die c va : Nat) (need : Need) :
    (State.translate s die c va need).1.kept = (s).kept := by unfold State.translate; (repeat' (first | split | extract_lets)) <;> (try simp only [Prod.ext_iff] at *) <;> (repeat cases ‹_ ∧ _›) <;> (try subst_vars) <;> simp +zetaDelta [*]

@[simp ↓] theorem translateLocal_kept (s : State) (die c va : Nat) (need : Need) :
    (State.translateLocal s die c va need).1.kept = (s).kept := by simp only [State.translateLocal]; (repeat' split) <;> simp [*]

@[simp ↓] theorem loadVa_kept (s : State) (die c va n : Nat) :
    (State.loadVa s die c va n).1.kept = (s).kept := by simp only [State.loadVa]; (repeat' split) <;> simp [*]

@[simp ↓] theorem replyI3c_kept (s : State) (r : Reply) :
    (State.replyI3c s r).kept = (s).kept := by simp only [State.replyI3c]; (repeat' split) <;> simp [*]

@[simp ↓] theorem replyControl_kept (lost : State → Nat → State) (s : State) (r : Reply) (hlost : ∀ s x, (lost s x).kept = s.kept) :
  (State.replyControl lost s r).kept = (s).kept := by simp only [State.replyControl]; (repeat' split) <;> ((try simp only [Prod.ext_iff] at *) <;> (repeat cases ‹_ ∧ _›) <;> (try subst_vars) <;> simp [*])

@[simp ↓] theorem eventControl_kept (lost : State → Nat → State) (s : State) (r : Reply) (h0 : ∀ s v0, (lost s v0).kept = (s).kept) :
    (State.eventControl lost s r).kept = (s).kept := by simp only [State.eventControl]; (repeat' split) <;> simp [*]

@[simp ↓] theorem ringFault_kept (lost : State → Nat → State) (s : State) (c code va : Nat) (h0 : ∀ s v0, (lost s v0).kept = (s).kept) :
    (State.ringFault lost s c code va).kept = (s).kept := by simp only [State.ringFault]; (repeat' split) <;> simp [*]

@[simp ↓] theorem replyWith_kept (lost : State → Nat → State) (s : State) (ring : Nat) (r : Reply) (h0 : ∀ s v0, (lost s v0).kept = (s).kept) :
    (State.replyWith lost s ring r).kept = (s).kept := by simp only [State.replyWith]; (repeat' split) <;> simp [*]

@[simp ↓] theorem eventWith_kept (lost : State → Nat → State) (s : State) (c : Nat) (r : Reply) (h0 : ∀ s v0, (lost s v0).kept = (s).kept) :
    (State.eventWith lost s c r).kept = (s).kept := by simp only [State.eventWith]; (repeat' split) <;> simp [*]

@[simp ↓] theorem finishWith_kept (lost : State → Nat → State) (s : State) (o : OutCmd) (status param detail : Nat) (h0 : ∀ s v0, (lost s v0).kept = (s).kept) :
    (State.finishWith lost s o status param detail).kept = (s).kept := by simp only [State.finishWith]; (repeat' split) <;> simp [*]

@[simp ↓] theorem drainFences_kept (lost : State → Nat → State) (s : State) (ring k : Nat) (h0 : ∀ s v0, (lost s v0).kept = (s).kept) :
    (State.drainFences lost s ring k).kept = (s).kept := by
  induction k generalizing s with
  | zero => simp [State.drainFences]
  | succ n ih => simp only [State.drainFences]; (repeat' split) <;> simp [*]

@[simp ↓] theorem fencesWith_kept (lost : State → Nat → State) (s : State) (h0 : ∀ s v0, (lost s v0).kept = (s).kept) :
    (State.fencesWith lost s).kept = (s).kept := by simp [State.fencesWith, *]

@[simp ↓] theorem withdraw_kept (s : State) (c : Nat) :
    (State.withdraw s c).kept = (s).kept := by simp only [State.withdraw]; (repeat' split) <;> simp [*]

@[simp ↓] theorem withdrawFrom_kept (s : State) (c : Nat) (first : Nat) :
  (State.withdrawFrom s c first).kept = (s).kept := by simp only [State.withdrawFrom]; (repeat' split) <;> simp [*]

@[simp ↓] theorem countWait_kept (s : State) (u : Nat) :
    (State.countWait s u).kept = (s).kept := by simp only [State.countWait]; (repeat' split) <;> simp [*]

@[simp ↓] theorem noteWait_kept (s : State) (e : Nat) :
  (State.noteWait s e).kept = (s).kept := by simp only [State.noteWait]; (repeat' split) <;> simp [*]

@[simp ↓] theorem dropDrain_kept (s : State) (u : Nat) :
    (State.dropDrain s u).kept = (s).kept := by simp only [State.dropDrain]; (repeat' split) <;> simp [*]

@[simp ↓] theorem dropDrains_kept (s : State) (c : Nat) :
    (State.dropDrains s c).kept = (s).kept := by simp only [State.dropDrains]; (repeat' split) <;> simp [*]

@[simp ↓] theorem endRequests_kept (s : State) (u : Nat) :
    (State.endRequests s u).kept = (s).kept := by simp only [State.endRequests]; (repeat' split) <;> simp [*]

@[simp ↓] theorem loseRequests_kept (s : State) (u : Nat) :
  (State.loseRequests s u).kept = (s).kept := by simp only [State.loseRequests]; (repeat' split) <;> simp [*]

@[simp ↓] theorem linkLost_kept (s : State) (p u : Nat) :
    (State.linkLost s p u).kept = (s).kept := by simp only [State.linkLost]; (repeat' split) <;> simp [*]

@[simp ↓] theorem dropHeld_kept (s : State) (c : Nat) :
    (State.dropHeld s c).kept = (s).kept := by simp only [State.dropHeld]; (repeat' split) <;> simp [*]

@[simp ↓] theorem becomeFaulted_kept (lost : State → Nat → State) (s : State) (c code unit seq offset : Nat) (h0 : ∀ s v0, (lost s v0).kept = (s).kept) :
    (State.becomeFaulted lost s c code unit seq offset).kept = (s).kept := by simp only [State.becomeFaulted]; (repeat' split) <;> simp [*]

@[simp ↓] theorem faultCtxWith_kept (lost : State → Nat → State) (s : State) (c code unit address detail offset : Nat) (h0 : ∀ s v0, (lost s v0).kept = (s).kept) :
    (State.faultCtxWith lost s c code unit address detail offset).kept = (s).kept := by simp only [State.faultCtxWith]; (repeat' split) <;> simp [*]

@[simp ↓] theorem lineLostWith_kept (lost : State → Nat → State) (s : State) (ln : Nat) (h0 : ∀ s v0, (lost s v0).kept = (s).kept) :
    (State.lineLostWith lost s ln).kept = (s).kept := by simp only [State.lineLostWith]; (repeat' split) <;> simp [*]

@[simp ↓] theorem lineLostIn_kept (n : Nat) (s : State) (ln : Nat) : (State.lineLostIn n s ln).kept = (s).kept := by
  induction n generalizing s ln with
  | zero => simp only [State.lineLostIn]; (repeat' split) <;> simp [*]
  | succ n ih => simp [State.lineLostIn, ih]

@[simp ↓] theorem lineLost_kept (s : State) (ln : Nat) : (State.lineLost s ln).kept = (s).kept := by simp [State.lineLost]

@[simp ↓] theorem save_kept (s : State) (a : Nat) (bs : List Byte) :
    (State.save s a bs).1.kept = (s).kept := by simp only [State.save]; (repeat' split) <;> simp [*]

@[simp ↓] theorem finish_kept (s : State) (o : OutCmd) (status param detail : Nat) :
    (State.finish s o status param detail).kept = (s).kept := by simp only [State.finish]; (repeat' split) <;> simp [*]

@[simp ↓] theorem event_kept (s : State) (c : Nat) (r : Reply) :
    (State.event s c r).kept = (s).kept := by simp only [State.event]; (repeat' split) <;> simp [*]

@[simp ↓] theorem faultCtx_kept (s : State) (c code unit address detail offset : Nat) :
    (State.faultCtx s c code unit address detail offset).kept = (s).kept := by simp only [State.faultCtx]; (repeat' split) <;> simp [*]

@[simp ↓] theorem closeWindows_kept (s : State) (c : Nat) :
  (State.closeWindows s c).kept = (s).kept := by simp only [State.closeWindows]; (repeat' split) <;> simp [*]

@[simp ↓] theorem arrive_kept (s : State) (c die f unit : Nat) :
    (State.arrive s c die f unit).kept = (s).kept := by simp only [State.arrive]; (repeat' split) <;> simp [*]

end Sys2Proof.Machine
end

