-- ==== Sys2Proof/Laws/KeptQueue.lean ====
section
/-!
SUPPORT. The operations of Sys2Proof/Machine/Queue.lean keep `State.kept`.
-/
namespace Sys2Proof.Machine

@[simp ↓] theorem queuePut_kept (s : State) (id : QueueId) (e : QEntry) :
  (State.queuePut s id e).kept = (s).kept := by simp only [State.queuePut]; (repeat' split) <;> simp [*]

@[simp ↓] theorem queuePack_kept (s : State) (id : QueueId) (addr window : Nat) (a0 : Nat) (a1 : List Byte) (a2 : Bool) :
    (State.queuePack s id addr window a0 a1 a2).kept = (s).kept := by
  induction a0 generalizing s id addr window a1 a2 with
  | zero => simp [State.queuePack]
  | succ n ih => simp only [State.queuePack]; (repeat' split) <;> simp [*]

@[simp ↓] theorem emptyQueue_kept (s : State) (id : QueueId) :
    (State.emptyQueue s id).kept = (s).kept := by simp only [State.emptyQueue]; (repeat' split) <;> simp [*]

@[simp ↓] theorem queueEcc_kept (s : State) (id : QueueId) (n : Nat) :
    (State.queueEcc s id n).kept = (s).kept := by simp only [State.queueEcc]; (repeat' split) <;> simp [*]

@[simp ↓] theorem beforeRelease_kept (s : State) (a0 : QueueId) :
  (State.beforeRelease s a0).kept = (s).kept := by simp only [State.beforeRelease]; (repeat' split) <;> simp [*]

@[simp ↓] theorem releaseTo_kept (s : State) (id : QueueId) (p : Nat) :
  (State.releaseTo s id p).kept = (s).kept := by simp only [State.releaseTo]; (repeat' split) <;> simp [*]

@[simp ↓] theorem queueStatusWrite_kept (s : State) (id : QueueId) (v : Nat) :
    (State.queueStatusWrite s id v).kept = (s).kept := by simp only [State.queueStatusWrite]; (repeat' split) <;> simp [*]

@[simp ↓] theorem edgeReleases_kept (s : State) (t : Nat) (id : QueueId) : (State.edgeReleases s t id).kept = (s).kept := by
  simp only [State.edgeReleases]
  split
  · exact foldl_kept _ (fun s c => by split <;> (try split) <;> simp) _ _
  · rfl

end Sys2Proof.Machine
end

