-- ==== Sys2Proof/Laws/KeptAccept.lean ====
section
/-!
SUPPORT. The operations of Sys2Proof/Machine/Accept.lean keep `State.kept`.
-/
namespace Sys2Proof.Machine

@[simp ↓] theorem enroll_kept (s : State) (c : Cmd) (op : Nat) :
    (State.enroll s c op).2.kept = (s).kept := by simp only [State.enroll]; (repeat' split) <;> simp [*]

@[simp ↓] theorem serveMemory_kept (s : State) (die : Nat) :
  (State.serveMemory s die).1.kept = (s).kept := by simp only [State.serveMemory]; (repeat' split) <;> simp [*]

@[simp ↓] theorem accept_kept (s : State) (c : Cmd) (op : Nat) (body : OutCmd → State → State) (h0 : ∀ o s, (body o s).kept = (s).kept) :
    (State.accept s c op body).kept = (s).kept := by simp only [State.accept]; (repeat' split) <;> simp [*]

@[simp ↓] theorem postRecover_kept (c : Nat) (a0 : Nat) (a1 : State) :
    (State.postRecover c a0 a1).kept = (a1).kept := by
  induction a0 generalizing c a1 with
  | zero => simp [State.postRecover]
  | succ n ih => simp only [State.postRecover]; (repeat' split) <;> simp [*]

@[simp ↓] theorem recovered_kept (s : State) (c : Nat) :
    (State.recovered s c).kept = (s).kept := by simp only [State.recovered]; (repeat' split) <;> simp [*]

@[simp ↓] theorem command_kept (s : State) (c : Cmd) (op : Nat) (body : OutCmd → State → State) (h0 : ∀ o s, (body o s).kept = (s).kept) :
    (State.command s c op body).kept = (s).kept := by simp only [State.command]; (repeat' split) <;> simp [*]

@[simp ↓] theorem fences_kept (s : State) :
    (State.fences s).kept = (s).kept := by simp only [State.fences]; (repeat' split) <;> simp [*]

@[simp ↓] theorem complete_kept (s : State) (o : OutCmd) (status param detail : Nat) :
    (State.complete s o status param detail).kept = (s).kept := by simp only [State.complete]; (repeat' split) <;> simp [*]

end Sys2Proof.Machine
end

