-- ==== Sys2Proof/Laws/KeptPower.lean ====
section
/-!
SUPPORT. The operations of Sys2Proof/Machine/Power.lean keep `State.kept`.
-/
namespace Sys2Proof.Machine

@[simp ↓] theorem writeCap_kept (s : State) (v : Nat) :
    (State.writeCap s v).kept = (s).kept := by simp only [State.writeCap]; (repeat' split) <;> simp [*]

@[simp ↓] theorem flushDie_kept (s : State) (d : Nat) :
    (State.flushDie s d).kept = (s).kept := by simp only [State.flushDie]; (repeat' split) <;> simp [*]

@[simp ↓] theorem flushStack_kept (s : State) (st : Nat) :
    (State.flushStack s st).kept = (s).kept := by simp only [State.flushStack]; (repeat' split) <;> simp [*]

@[simp ↓] theorem loseComputeDie_kept (s : State) (d : Nat) :
    (State.loseComputeDie s d).kept = (s).kept := by simp only [State.loseComputeDie]; (repeat' split) <;> simp [*]

@[simp ↓] theorem beginExit_kept (s : State) (d : Nat) :
    (State.beginExit s d).kept = (s).kept := by simp only [State.beginExit]; (repeat' split) <;> simp [*]

@[simp ↓] theorem wakeDies_kept (s : State) (c : Nat) :
    (State.wakeDies s c).kept = (s).kept := by simp only [State.wakeDies]; (repeat' split) <;> simp [*]

@[simp ↓] theorem doSetLtv_kept (s : State) (o : OutCmd) (mask ltv : Nat) :
    (State.doSetLtv s o mask ltv).kept = (s).kept := by simp only [State.doSetLtv]; (repeat' split) <;> simp [*]

@[simp ↓] theorem doEnergyQuery_kept (s : State) (o : OutCmd) (c : Nat) :
    (State.doEnergyQuery s o c).kept = (s).kept := by simp only [State.doEnergyQuery]; (repeat' split) <;> simp [*]

@[simp ↓] theorem takeSample_kept (s : State) (die sensor temp : Nat) :
    (State.takeSample s die sensor temp).kept = (s).kept := by simp only [State.takeSample]; (repeat' split) <;> simp [*]

end Sys2Proof.Machine
end

