-- ==== Sys2Proof/Laws/KeptUnit.lean ====
section
/-!
SUPPORT. The operations of Sys2Proof/Machine/Unit.lean keep `State.kept`.
-/
namespace Sys2Proof.Machine

@[simp ↓] theorem saveRange_kept (die c : Nat) (need : Need) (a0 : Nat) (a1 : State) (a2 : Nat) (a3 : List Byte) :
    (State.saveRange die c need a0 a1 a2 a3).1.kept = (a1).kept := by
  induction a0 generalizing die c need a1 a2 a3 with
  | zero => simp [State.saveRange]
  | succ n ih => simp only [State.saveRange]; (repeat' split) <;> (first | ((try simp only [Prod.ext_iff] at *) <;> (repeat cases ‹_ ∧ _›) <;> subst_vars <;> simp [*]) | (refine (foldl_kept _ ?_ _ _).trans ?_ <;> (intros; (repeat' split) <;> ((try simp only [Prod.ext_iff] at *) <;> (repeat cases ‹_ ∧ _›) <;> subst_vars <;> simp [*]))) | (refine (foldl_kept_pair _ ?_ _ _).trans ?_ <;> (intros; (repeat' split) <;> ((try simp only [Prod.ext_iff] at *) <;> (repeat cases ‹_ ∧ _›) <;> subst_vars <;> simp [*]))))

@[simp ↓] theorem saveVa_kept (s : State) (die c va : Nat) (bs : List Byte) :
    (State.saveVa s die c va bs).1.kept = (s).kept := by simp only [State.saveVa]; (repeat' split) <;> simp [*]

@[simp ↓] theorem setProg_kept (s : State) (u : Nat) (p : Prog) :
    (State.setProg s u p).kept = (s).kept := by simp only [State.setProg]; (repeat' split) <;> simp [*]

@[simp ↓] theorem dropRunning_kept (s : State) (u : Nat) :
    (State.dropRunning s u).kept = (s).kept := by simp only [State.dropRunning]; (repeat' split) <;> simp [*]

@[simp ↓] theorem ended_kept (s : State) (u : Nat) :
    (State.ended s u).kept = (s).kept := by simp only [State.ended]; (repeat' split) <;> simp [*]

@[simp ↓] theorem failPour_kept (s : State) (u code address detail : Nat) :
    (State.failPour s u code address detail).kept = (s).kept := by simp only [State.failPour]; (repeat' split) <;> simp [*]

@[simp ↓] theorem setEng_kept (s : State) (e : Nat) (f : EngSt → EngSt) :
    (State.setEng s e f).kept = (s).kept := by simp only [State.setEng]; (repeat' split) <;> simp [*]

@[simp ↓] theorem resetEngine_kept (fresh : Bool) (s : State) (e : Nat) :
    (State.resetEngine fresh s e).kept = (s).kept := by simp only [State.resetEngine]; (repeat' split) <;> simp [*]

@[simp ↓] theorem clearEngine_kept (s : State) (e : Nat) :
    (State.clearEngine s e).kept = (s).kept := by simp only [State.clearEngine]; (repeat' split) <;> simp [*]

@[simp ↓] theorem clearEngines_kept (s : State) (c : Nat) :
    (State.clearEngines s c).kept = (s).kept := by simp only [State.clearEngines]; (repeat' split) <;> simp [*]

@[simp ↓] theorem freshEngines_kept (s : State) (c : Nat) :
    (State.freshEngines s c).kept = (s).kept := by simp only [State.freshEngines]; (repeat' split) <;> simp [*]

@[simp ↓] theorem loaded_kept (s : State) (c : Nat) :
    (State.loaded s c).kept = (s).kept := by simp only [State.loaded]; (repeat' split) <;> simp [*]

end Sys2Proof.Machine
end

