-- ==== Sys2Proof/Laws/KeptBridge.lean ====
section
/-!
SUPPORT. The operations of Sys2Proof/Machine/Bridge.lean keep `State.kept`.
-/
namespace Sys2Proof.Machine

@[simp ↓] theorem setDir_kept (s : State) (d : Dir) (f : BridgeSt → BridgeSt) :
    (State.setDir s d f).kept = (s).kept := by simp only [State.setDir]; (repeat' split) <;> simp [*]

@[simp ↓] theorem replayOver_kept (d : Dir) (group : Nat) (a0 : List QEntry) (a1 : State) :
  (State.replayOver d group a0 a1).1.kept = (a1).kept := by 
  induction a0 generalizing d group a1 with
  | nil => simp [State.replayOver]
  | cons x l ih => simp only [State.replayOver]; (repeat' split) <;> (try simp only [Prod.ext_iff] at *) <;> (repeat cases ‹_ ∧ _›) <;> (try subst_vars) <;> simp [*]

@[simp ↓] theorem rehome_kept (s : State) (d : Dir) :
  (State.rehome s d).kept = (s).kept := by simp only [State.rehome]; (repeat' split) <;> simp [*]

@[simp ↓] theorem clearGroup_kept (s : State) (d : Dir) (group : Nat) :
  (State.clearGroup s d group).kept = (s).kept := by simp only [State.clearGroup]; (repeat' split) <;> simp [*]

@[simp ↓] theorem retire_kept (s : State) (d : Dir) (group : Nat) :
    (State.retire s d group).kept = (s).kept := by unfold State.retire; (repeat' (first | split | extract_lets)) <;> (try simp only [Prod.ext_iff] at *) <;> (repeat cases ‹_ ∧ _›) <;> (try subst_vars) <;> simp +zetaDelta [*]

@[simp ↓] theorem startRepair_kept (s : State) (d : Dir) (group lane : Nat) :
    (State.startRepair s d group lane).kept = (s).kept := by simp only [State.startRepair]; (repeat' split) <;> simp [*]

@[simp ↓] theorem repairMarked_kept (s : State) (d : Dir) :
    (State.repairMarked s d).kept = (s).kept := by simp only [State.repairMarked]; (repeat' split) <;> simp [*]

@[simp ↓] theorem bridgeBoundary_kept (s : State) (die : Nat) :
    (State.bridgeBoundary s die).kept = (s).kept := by simp only [State.bridgeBoundary]; (repeat' split) <;> simp [*]

@[simp ↓] theorem markLane_kept (s : State) (d : Dir) (group lane : Nat) :
    (State.markLane s d group lane).kept = (s).kept := by simp only [State.markLane]; (repeat' split) <;> simp [*]

@[simp ↓] theorem releaseAcked_kept (s : State) (d : Dir) (group : Nat) :
  (State.releaseAcked s d group).kept = (s).kept := by simp only [State.releaseAcked]; (repeat' split) <;> simp [*]

@[simp ↓] theorem readFrame_kept (s : State) (d : Dir) (group : Nat) (frame : Nat) :
  (State.readFrame s d group frame).1.kept = (s).kept := by simp only [State.readFrame]; (repeat' split) <;> simp [*]

@[simp ↓] theorem bytesLost_kept (a0 : List Nat) (a1 : State) :
  (State.bytesLost a0 a1).kept = (a1).kept := by 
  induction a0 generalizing a1 with
  | nil => simp [State.bytesLost]
  | cons x l ih => simp only [State.bytesLost]; (repeat' split) <;> (try simp only [Prod.ext_iff] at *) <;> (repeat cases ‹_ ∧ _›) <;> (try subst_vars) <;> simp [*]

@[simp ↓] theorem emptyFrame_kept (s : State) :
  (State.emptyFrame s).kept = (s).kept := by simp only [State.emptyFrame]; (repeat' split) <;> simp [*]

@[simp ↓] theorem takeFrame_kept (s : State) (d : Dir) (group : Nat) (frame : Nat) :
  (State.takeFrame s d group frame).kept = (s).kept := by simp only [State.takeFrame]; (repeat' split) <;> simp [*]

@[simp ↓] theorem framePays_kept (s : State) (die : Nat) :
  (State.framePays s die).kept = (s).kept := by simp only [State.framePays]; (repeat' split) <;> simp [*]

end Sys2Proof.Machine
end

