-- ==== Sys2Proof/Laws/KeptMould.lean ====
section
/-!
SUPPORT. The operations of Sys2Proof/Machine/Mould.lean keep `State.kept`.
-/
namespace Sys2Proof.Machine

@[simp ↓] theorem loadRange_kept (die c : Nat) (a0 : Nat) (a1 : State) (a2 : Nat) (a3 : Nat) :
    (State.loadRange die c a0 a1 a2 a3).1.kept = (a1).kept := by
  induction a0 generalizing die c a1 a2 a3 with
  | zero => simp [State.loadRange]
  | succ n ih => simp only [State.loadRange]; (repeat' split) <;> (first | ((try simp only [Prod.ext_iff] at *) <;> (repeat cases ‹_ ∧ _›) <;> subst_vars <;> simp [*]) | (refine (foldl_kept _ ?_ _ _).trans ?_ <;> (intros; (repeat' split) <;> ((try simp only [Prod.ext_iff] at *) <;> (repeat cases ‹_ ∧ _›) <;> subst_vars <;> simp [*]))) | (refine (foldl_kept_pair _ ?_ _ _).trans ?_ <;> (intros; (repeat' split) <;> ((try simp only [Prod.ext_iff] at *) <;> (repeat cases ‹_ ∧ _›) <;> subst_vars <;> simp [*]))))

@[simp ↓] theorem readVa_kept (s : State) (die c va n : Nat) :
    (State.readVa s die c va n).1.kept = (s).kept := by simp only [State.readVa]; (repeat' split) <;> simp [*]

@[simp ↓] theorem readMany_kept (die c : Nat) (a0 : List (Nat × Nat)) (a1 : State) :
    (State.readMany die c a0 a1).1.kept = (a1).kept := by
  induction a0 generalizing die c a1 with
  | nil => simp [State.readMany]
  | cons x l ih => simp only [State.readMany]; (repeat' split) <;> (first | ((try simp only [Prod.ext_iff] at *) <;> (repeat cases ‹_ ∧ _›) <;> subst_vars <;> simp [*]) | (refine (foldl_kept _ ?_ _ _).trans ?_ <;> (intros; (repeat' split) <;> ((try simp only [Prod.ext_iff] at *) <;> (repeat cases ‹_ ∧ _›) <;> subst_vars <;> simp [*]))) | (refine (foldl_kept_pair _ ?_ _ _).trans ?_ <;> (intros; (repeat' split) <;> ((try simp only [Prod.ext_iff] at *) <;> (repeat cases ‹_ ∧ _›) <;> subst_vars <;> simp [*]))))

@[simp ↓] theorem allot_kept (s : State) (c die n : Nat) :
    (State.allot s c die n).1.kept = (s).kept := by simp only [State.allot]; (repeat' split) <;> simp [*]

@[simp ↓] theorem allotAll_kept (s : State) (c : Nat) (counts : List Nat) :
    (State.allotAll s c counts).1.kept = (s).kept := by simp only [State.allotAll]; (first | ((try simp only [Prod.ext_iff] at *) <;> (repeat cases ‹_ ∧ _›) <;> subst_vars <;> simp [*]) | (refine (foldl_kept _ ?_ _ _).trans ?_ <;> (intros; (repeat' split) <;> ((try simp only [Prod.ext_iff] at *) <;> (repeat cases ‹_ ∧ _›) <;> subst_vars <;> simp [*]))) | (refine (foldl_kept_pair _ ?_ _ _).trans ?_ <;> (intros; (repeat' split) <;> ((try simp only [Prod.ext_iff] at *) <;> (repeat cases ‹_ ∧ _›) <;> subst_vars <;> simp [*]))))

@[simp ↓] theorem unbindTags_kept (s : State) (c : Nat) :
    (State.unbindTags s c).kept = (s).kept := by simp only [State.unbindTags]; (repeat' split) <;> simp [*]

@[simp ↓] theorem readRegions_kept (s : State) (c unit desc : Nat) :
    (State.readRegions s c unit desc).1.kept = (s).kept := by simp only [State.readRegions]; (repeat' split) <;> (first | ((try simp only [Prod.ext_iff] at *) <;> (repeat cases ‹_ ∧ _›) <;> subst_vars <;> simp [*]) | (refine (foldl_kept _ ?_ _ _).trans ?_ <;> (intros; (repeat' split) <;> ((try simp only [Prod.ext_iff] at *) <;> (repeat cases ‹_ ∧ _›) <;> subst_vars <;> simp [*]))) | (refine (foldl_kept_pair _ ?_ _ _).trans ?_ <;> (intros; (repeat' split) <;> ((try simp only [Prod.ext_iff] at *) <;> (repeat cases ‹_ ∧ _›) <;> subst_vars <;> simp [*]))))

@[simp ↓] theorem buildRegions_kept (s : State) (c : Nat) (pours : List Pour) :
    (State.buildRegions s c pours).kept = (s).kept := by simp only [State.buildRegions]; (repeat' split) <;> simp [*]

@[simp ↓] theorem loadTables_kept (s : State) (o : OutCmd) (c : Nat) (image : List Byte) :
    (State.loadTables s o c image).kept = (s).kept := by unfold State.loadTables; (repeat' (first | split | extract_lets)) <;> (try simp only [Prod.ext_iff] at *) <;> (repeat cases ‹_ ∧ _›) <;> (try subst_vars) <;> simp +zetaDelta [*]

@[simp ↓] theorem doLoadMould_kept (s : State) (o : OutCmd) (c va : Nat) :
    (State.doLoadMould s o c va).kept = (s).kept := by unfold State.doLoadMould; (repeat' (first | split | extract_lets)) <;> (try simp only [Prod.ext_iff] at *) <;> (repeat cases ‹_ ∧ _›) <;> (try subst_vars) <;> simp +zetaDelta [*]

@[simp ↓] theorem doArmAt_kept (s : State) (o : OutCmd) (c ftStart heatBase : Nat) (localArm : Bool) :
    (State.doArmAt s o c ftStart heatBase localArm).kept = (s).kept := by simp only [State.doArmAt]; (repeat' split) <;> simp [*]

@[simp ↓] theorem amend_kept (s : State) (o o' : OutCmd) :
    (State.amend s o o').kept = (s).kept := by simp only [State.amend]; (repeat' split) <;> simp [*]

@[simp ↓] theorem haltTakes_kept (s : State) (c : Nat) (heat : Nat) (first : Nat) :
  (State.haltTakes s c heat first).kept = (s).kept := by simp only [State.haltTakes]; (repeat' split) <;> simp [*]

@[simp ↓] theorem doHalt_kept (s : State) (o : OutCmd) (c : Nat) :
    (State.doHalt s o c).kept = (s).kept := by simp only [State.doHalt]; (repeat' split) <;> simp [*]

@[simp ↓] theorem doStage_kept (s : State) (o : OutCmd) (c : Nat) (items : List StageItem) :
    (State.doStage s o c items).kept = (s).kept := by simp only [State.doStage]; (repeat' split) <;> simp [*]

@[simp ↓] theorem doCommitAt_kept (s : State) (o : OutCmd) (c t : Nat) :
    (State.doCommitAt s o c t).kept = (s).kept := by simp only [State.doCommitAt]; (repeat' split) <;> simp [*]

@[simp ↓] theorem doCommitCancel_kept (s : State) (o : OutCmd) (c : Nat) :
    (State.doCommitCancel s o c).kept = (s).kept := by simp only [State.doCommitCancel]; (repeat' split) <;> simp [*]

@[simp ↓] theorem applySetting_kept (s : State) (c : Nat) (g : Setting) :
    (State.applySetting s c g).kept = (s).kept := by simp only [State.applySetting]; (repeat' split) <;> simp [*]

@[simp ↓] theorem keepOld_kept (s : State) (c t : Nat) :
    (State.keepOld s c t).kept = (s).kept := by simp only [State.keepOld]; (repeat' split) <;> simp [*]

@[simp ↓] theorem applyBy_kept (s : State) (c : Nat) (ft : Nat) :
  (State.applyBy s c ft).kept = (s).kept := by simp only [State.applyBy]; (repeat' split) <;> simp [*]

@[simp ↓] theorem applyDue_kept (s : State) (c : Nat) :
    (State.applyDue s c).kept = (s).kept := by simp only [State.applyDue]; (repeat' split) <;> simp [*]

end Sys2Proof.Machine
end

