-- ==== Sys2Proof/Laws/KeptMatrix.lean ====
section
/-!
SUPPORT. The operations of Sys2Proof/Machine/Matrix.lean keep `State.kept`.
-/
namespace Sys2Proof.Machine

@[simp ↓] theorem loadEach_kept (n : Nat) (a0 : List Nat) (a1 : State) :
    (State.loadEach n a0 a1).1.kept = (a1).kept := by
  induction a0 generalizing n a1 with
  | nil => simp [State.loadEach]
  | cons x l ih => simp only [State.loadEach]; (repeat' split) <;> (first | ((try simp only [Prod.ext_iff] at *) <;> (repeat cases ‹_ ∧ _›) <;> subst_vars <;> simp [*]) | (refine (foldl_kept _ ?_ _ _).trans ?_ <;> (intros; (repeat' split) <;> ((try simp only [Prod.ext_iff] at *) <;> (repeat cases ‹_ ∧ _›) <;> subst_vars <;> simp [*]))) | (refine (foldl_kept_pair _ ?_ _ _).trans ?_ <;> (intros; (repeat' split) <;> ((try simp only [Prod.ext_iff] at *) <;> (repeat cases ‹_ ∧ _›) <;> subst_vars <;> simp [*]))))

@[simp ↓] theorem loadRows_kept (s : State) (die off stride n rows : Nat) :
    (State.loadRows s die off stride n rows).1.kept = (s).kept := by simp only [State.loadRows]; (repeat' split) <;> simp [*]

@[simp ↓] theorem loadOpd_kept (s : State) (die : Nat) (o : Opd) (rows n : Nat) :
    (State.loadOpd s die o rows n).1.kept = (s).kept := by simp only [State.loadOpd]; (repeat' split) <;> ((try simp only [Prod.ext_iff] at *) <;> (repeat cases ‹_ ∧ _›) <;> subst_vars <;> simp [*])

@[simp ↓] theorem followShare_kept (s : State) (e : Nat) :
  (State.followShare s e).kept = (s).kept := by simp only [State.followShare]; (repeat' split) <;> simp [*]

@[simp ↓] theorem readSegs_kept (s : State) (e : Nat) (seg : Nat) (n : Nat) :
  (State.readSegs s e seg n).1.kept = (s).kept := by simp only [State.readSegs]; (repeat' split) <;> simp [*]

@[simp ↓] theorem writeSegs_kept (s : State) (e : Nat) (seg : Nat) (n : Nat) :
  (State.writeSegs s e seg n).kept = (s).kept := by simp only [State.writeSegs]; (repeat' split) <;> simp [*]

@[simp ↓] theorem finishMatrix_kept (s : State) (u : Nat) (d : Prod) (product : Bool) (cycles : Nat) :
    (State.finishMatrix s u d product cycles).kept = (s).kept := by simp only [State.finishMatrix]; (repeat' split) <;> simp [*]

@[simp ↓] theorem drainStalls_kept (s : State) (u : Nat) (steps : List DrainStep) (hdr : Option (List Byte)) (start : Nat) :
  (State.drainStalls s u steps hdr start).kept = (s).kept := by simp only [State.drainStalls]; (repeat' split) <;> simp [*]

@[simp ↓] theorem drainStep_kept (s : State) (u : Nat) (p : DrainStep) :
  (State.drainStep s u p).1.kept = (s).kept := by simp only [State.drainStep]; (repeat' split) <;> simp [*]

@[simp ↓] theorem drainRows_kept (u : Nat) (d : Prod) (o : Drn) (product : Bool) (start : Nat) (a0 : List DrainStep) (a1 : State) :
  (State.drainRows u d o product start a0 a1).kept = (a1).kept := by 
  induction a0 generalizing u d o product start a1 with
  | nil => simp [State.drainRows]
  | cons x l ih => simp only [State.drainRows]; (repeat' split) <;> (try simp only [Prod.ext_iff] at *) <;> (repeat cases ‹_ ∧ _›) <;> (try subst_vars) <;> simp [*]

@[simp ↓] theorem drainOut_kept (s : State) (u : Nat) (d : Prod) (o : Drn) (product : Bool) (steps : List DrainStep) (hdr : Option (List Byte)) (start : Nat) :
  (State.drainOut s u d o product steps hdr start).kept = (s).kept := by simp only [State.drainOut]; (repeat' split) <;> simp [*]

@[simp ↓] theorem gqScales_kept (s : State) (die : Nat) (o : Drn) :
    (State.gqScales s die o).1.kept = (s).kept := by simp only [State.gqScales]; (repeat' split) <;> simp [*]

@[simp ↓] theorem drainTile_kept (s : State) (u : Nat) (r : Running) (d : Prod) (o : Drn) (product : Bool) (t : Tile) :
    (State.drainTile s u r d o product t).kept = (s).kept := by unfold State.drainTile; (repeat' (first | split | extract_lets)) <;> (try simp only [Prod.ext_iff] at *) <;> (repeat cases ‹_ ∧ _›) <;> (try subst_vars) <;> simp +zetaDelta [*]

@[simp ↓] theorem payProduct_kept (s : State) (u : Nat) (all : Bool) :
  (State.payProduct s u all).kept = (s).kept := by simp only [State.payProduct]; (repeat' split) <;> simp [*]

@[simp ↓] theorem reportsDue_kept (s : State) (t : Nat) :
  (State.reportsDue s t).kept = (s).kept := by simp only [State.reportsDue]; (repeat' split) <;> simp [*]

end Sys2Proof.Machine
end

