-- ==== Sys2Proof/Laws/KeptTime.lean ====
section
/-!
SUPPORT. The operations of Sys2Proof/Machine/Time.lean keep `State.kept`.
-/
namespace Sys2Proof.Machine

@[simp ↓] theorem setFtu_kept (s : State) (f : FtUnit → FtUnit) :
    (State.setFtu s f).kept = (s).kept := by simp only [State.setFtu]; (repeat' split) <;> simp [*]

@[simp ↓] theorem setPort_kept (s : State) (p : Nat) (f : PortSt → PortSt) :
    (State.setPort s p f).kept = (s).kept := by simp only [State.setPort]; (repeat' split) <;> simp [*]

@[simp ↓] theorem takeAck_kept (s : State) (p : Nat) (ack : Nat) :
  (State.takeAck s p ack).kept = (s).kept := by simp only [State.takeAck]; (repeat' split) <;> simp [*]

@[simp ↓] theorem takeTime_kept (s : State) (p : Nat) (b : Beacon) :
  (State.takeTime s p b).kept = (s).kept := by simp only [State.takeTime]; (repeat' split) <;> simp [*]

@[simp ↓] theorem holdover_kept (s : State) :
    (State.holdover s).kept = (s).kept := by simp only [State.holdover]; (repeat' split) <;> simp [*]

@[simp ↓] theorem goFree_kept (s : State) :
    (State.goFree s).kept = (s).kept := by simp only [State.goFree]; (repeat' split) <;> simp [*]

@[simp ↓] theorem relayBeacon_kept (s : State) (seq : Nat) :
    (State.relayBeacon s seq).kept = (s).kept := by simp only [State.relayBeacon]; (repeat' split) <;> simp [*]

@[simp ↓] theorem hear_kept (s : State) (port : Nat) (b : Beacon) (src : Nat) :
  (State.hear s port b src).kept = (s).kept := by simp only [State.hear]; (repeat' split) <;> simp [*]

@[simp ↓] theorem follow_kept (s : State) (h : Heard) :
  (State.follow s h).kept = (s).kept := by simp only [State.follow]; (repeat' split) <;> simp [*]

end Sys2Proof.Machine
end

