-- ==== Sys2Proof/Laws/KeptPacket.lean ====
section
/-!
SUPPORT. The operations of Sys2Proof/Machine/Packet.lean keep `State.kept`.
-/
namespace Sys2Proof.Machine

@[simp ↓] theorem countPort_kept (s : State) (r : Reg) (p n : Nat) :
    (State.countPort s r p n).kept = (s).kept := by simp only [State.countPort]; (repeat' split) <;> simp [*]

@[simp ↓] theorem enqueue_kept (s : State) (p : Nat) (ctx : Nat) (k : Pkt) :
  (State.enqueue s p ctx k).kept = (s).kept := by simp only [State.enqueue]; (repeat' split) <;> simp [*]

@[simp ↓] theorem sendRouted_kept (s : State) (at' : Nat) (k : Pkt) :
    (State.sendRouted s at' k).kept = (s).kept := by simp only [State.sendRouted]; (repeat' split) <;> simp [*]

@[simp ↓] theorem issue_kept (s : State) (p : Nat) (k : Pkt) (r : Req) :
    (State.issue s p k r).1.kept = (s).kept := by simp only [State.issue]; (repeat' split) <;> simp [*]

@[simp ↓] theorem answer_kept (s : State) (at' : Nat) (q : Pkt) (typ ops : Nat) (body : List Byte) :
    (State.answer s at' q typ ops body).kept = (s).kept := by simp only [State.answer]; (repeat' split) <;> simp [*]

@[simp ↓] theorem takePkt_kept (s : State) (p : Nat) (typs : List Nat) (bytes : List Byte) :
    (State.takePkt s p typs bytes).1.kept = (s).kept := by simp only [State.takePkt]; (repeat' split) <;> simp [*]

end Sys2Proof.Machine
end

