-- ==== Sys2Proof/Laws/KeptExchange.lean ====
section
/-!
SUPPORT. The operations of Sys2Proof/Machine/Exchange.lean keep `State.kept`.
-/
namespace Sys2Proof.Machine

@[simp ↓] theorem bindTag_kept (s : State) (c tag : Nat) :
    (State.bindTag s c tag).1.kept = (s).kept := by simp only [State.bindTag]; (repeat' split) <;> simp [*]

@[simp ↓] theorem countAdder_kept (s : State) (r : Reg) (u n : Nat) :
    (State.countAdder s r u n).kept = (s).kept := by simp only [State.countAdder]; (repeat' split) <;> simp [*]

@[simp ↓] theorem loadMany_kept (a0 : List (Nat × Nat)) (a1 : State) :
    (State.loadMany a0 a1).1.kept = (a1).kept := by
  induction a0 generalizing a1 with
  | nil => simp [State.loadMany]
  | cons x l ih => simp only [State.loadMany]; (repeat' split) <;> (first | ((try simp only [Prod.ext_iff] at *) <;> (repeat cases ‹_ ∧ _›) <;> subst_vars <;> simp [*]) | (refine (foldl_kept _ ?_ _ _).trans ?_ <;> (intros; (repeat' split) <;> ((try simp only [Prod.ext_iff] at *) <;> (repeat cases ‹_ ∧ _›) <;> subst_vars <;> simp [*]))) | (refine (foldl_kept_pair _ ?_ _ _).trans ?_ <;> (intros; (repeat' split) <;> ((try simp only [Prod.ext_iff] at *) <;> (repeat cases ‹_ ∧ _›) <;> subst_vars <;> simp [*]))))

@[simp ↓] theorem readAll_kept (s : State) (die : Nat) (l : List (Nat × Nat)) :
    (State.readAll s die l).1.kept = (s).kept := by simp only [State.readAll]; (repeat' split) <;> simp [*]

@[simp ↓] theorem writeAll_kept (die : Nat) (ws : List (Nat × List Byte)) (s : State) :
    (State.writeAll die ws s).1.kept = (s).kept := by simp only [State.writeAll]; (repeat' split) <;> simp [*]

@[simp ↓] theorem onRead_kept (u : Nat) (k : State → List (List Byte) → State) (h : ∀ s l, (k s l).kept = s.kept)
    (x : State × Option (List (List Byte))) : (State.onRead u k x).kept = x.1.kept := by
  rcases x with ⟨s, _ | l⟩ <;> simp [State.onRead, h]

@[simp ↓] theorem onWrite_kept (u : Nat) (k : State → State) (h : ∀ s, (k s).kept = s.kept)
    (x : State × Bool) : (State.onWrite u k x).kept = x.1.kept := by
  rcases x with ⟨s, _ | _⟩ <;> simp [State.onWrite, h]

@[simp ↓] theorem doPack_kept (s : State) (u : Nat) (r : Running) (c : Nat) :
    (State.doPack s u r c).kept = (s).kept := by
  unfold State.doPack
  extract_lets
  refine (onRead_kept _ _ ?_ _).trans (by simp)
  intro s l
  (repeat' (first | split | extract_lets)) <;> simp +zetaDelta

@[simp ↓] theorem doTie_kept (s : State) (u : Nat) (r : Running) :
    (State.doTie s u r).kept = (s).kept := by simp only [State.doTie]; (repeat' split) <;> ((try simp only [Prod.ext_iff] at *) <;> (repeat cases ‹_ ∧ _›) <;> subst_vars <;> simp [*])

@[simp ↓] theorem renewKeys_kept (s : State) (u : Nat) (r : Running) (c h : Nat) (k : State → State) (hk : ∀ s, (k s).kept = s.kept) :
    (State.renewKeys s u r c h k).kept = (s).kept := by
  unfold State.renewKeys
  extract_lets
  refine (onRead_kept _ _ ?_ _).trans (by simp)
  intro s l
  extract_lets
  refine (onRead_kept _ _ ?_ _).trans (by simp)
  intro s l
  (repeat' (first | split | extract_lets))
  · simp
  · refine (onWrite_kept _ _ hk _).trans ?_
    simp +zetaDelta

@[simp ↓] theorem renewSelect_kept (s : State) (u : Nat) (r : Running) (c : Nat) (frac : Nat) :
  (State.renewSelect s u r c frac).kept = (s).kept := by simp only [State.renewSelect]; (repeat' split) <;> simp [*]

@[simp ↓] theorem doRenew_kept (s : State) (u : Nat) (r : Running) (c frac h : Nat) :
    (State.doRenew s u r c frac h).kept = (s).kept := by
  unfold State.doRenew
  refine (onRead_kept _ _ ?_ _).trans (by simp)
  intro s l
  split <;> simp

@[simp ↓] theorem doCombine_kept (s : State) (u : Nat) (r : Running) (sel : List Nat) :
    (State.doCombine s u r sel).kept = (s).kept := by
  unfold State.doCombine
  extract_lets
  refine (onRead_kept _ _ ?_ _).trans (by simp)
  intro s l
  (repeat' (first | split | extract_lets)) <;> simp +zetaDelta

@[simp ↓] theorem admitSeg_kept (s : State) (port : Nat) (g : Seg) :
    (State.admitSeg s port g).1.kept = (s).kept := by simp only [State.admitSeg]; (repeat' split) <;> simp [*]

@[simp ↓] theorem bucketIn_kept (s : State) (port c : Nat) (g : Seg) :
    (State.bucketIn s port c g).kept = (s).kept := by unfold State.bucketIn; (repeat' (first | split | extract_lets)) <;> (try simp only [Prod.ext_iff] at *) <;> (repeat cases ‹_ ∧ _›) <;> (try subst_vars) <;> simp +zetaDelta [*]

@[simp ↓] theorem receiveBucket_kept (s : State) (port : Nat) (g : Seg) :
    (State.receiveBucket s port g).kept = (s).kept := by simp only [State.receiveBucket]; (repeat' split) <;> ((try simp only [Prod.ext_iff] at *) <;> (repeat cases ‹_ ∧ _›) <;> subst_vars <;> simp [*])

@[simp ↓] theorem sendEnds_kept (s : State) (u : Nat) :
    (State.sendEnds s u).kept = (s).kept := by simp only [State.sendEnds]; (repeat' split) <;> simp [*]

@[simp ↓] theorem sendSegs_kept (u : Nat) (r : Running) (n : Nat) (a0 : List Seg) (a1 : Nat) (a2 : State) :
    (State.sendSegs u r n a0 a1 a2).kept = (a2).kept := by
  induction a0 generalizing u r n a1 a2 with
  | nil => simp [State.sendSegs]
  | cons x l ih => simp only [State.sendSegs]; (repeat' split) <;> (first | ((try simp only [Prod.ext_iff] at *) <;> (repeat cases ‹_ ∧ _›) <;> subst_vars <;> simp [*]) | (refine (foldl_kept _ ?_ _ _).trans ?_ <;> (intros; (repeat' split) <;> ((try simp only [Prod.ext_iff] at *) <;> (repeat cases ‹_ ∧ _›) <;> subst_vars <;> simp [*]))) | (refine (foldl_kept_pair _ ?_ _ _).trans ?_ <;> (intros; (repeat' split) <;> ((try simp only [Prod.ext_iff] at *) <;> (repeat cases ‹_ ∧ _›) <;> subst_vars <;> simp [*]))))

@[simp ↓] theorem doSend_kept (s : State) (u : Nat) (r : Running) (i : Nat) :
    (State.doSend s u r i).kept = (s).kept := by
  unfold State.doSend
  extract_lets
  refine (onRead_kept _ _ ?_ _).trans (by simp)
  intro s l
  (repeat' (first | split | extract_lets)) <;> simp +zetaDelta

@[simp ↓] theorem sendGoes_kept (s : State) (u : Nat) :
    (State.sendGoes s u).kept = (s).kept := by simp only [State.sendGoes]; (repeat' split) <;> simp [*]

@[simp ↓] theorem sendWord_kept (s : State) (u c heat tag kind dst w : Nat) :
    (State.sendWord s u c heat tag kind dst w).kept = (s).kept := by simp only [State.sendWord]; (repeat' split) <;> simp [*]

@[simp ↓] theorem setNode_kept (s : State) (n n' : Node) :
    (State.setNode s n n').kept = (s).kept := by simp only [State.setNode]; (repeat' split) <;> simp [*]

@[simp ↓] theorem takeReady_kept (s : State) (c : Nat) (desc : List Byte) :
    (State.takeReady s c desc).1.kept = (s).kept := by simp only [State.takeReady]; (repeat' split) <;> simp [*]

@[simp ↓] theorem localWord_kept (s : State) (n : Node) :
    (State.localWord s n).1.kept = (s).kept := by simp only [State.localWord]; (repeat' split) <;> simp [*]

@[simp ↓] theorem barrierApplies_kept (s : State) (n : Node) (w : Nat) :
    (State.barrierApplies s n w).kept = (s).kept := by simp only [State.barrierApplies]; (repeat' split) <;> simp [*]

@[simp ↓] theorem nodeUp_kept (s : State) (n : Node) :
    (State.nodeUp s n).kept = (s).kept := by unfold State.nodeUp; (repeat' (first | split | extract_lets)) <;> (try simp only [Prod.ext_iff] at *) <;> (repeat cases ‹_ ∧ _›) <;> (try subst_vars) <;> simp +zetaDelta [*]

@[simp ↓] theorem pruneNodes_kept (s : State) (c : Nat) :
    (State.pruneNodes s c).kept = (s).kept := by simp only [State.pruneNodes]; (repeat' split) <;> simp [*]

@[simp ↓] theorem beginNode_kept (s : State) (c unit heat start : Nat) (barrier kept : Bool) (desc : List Byte) :
    (State.beginNode s c unit heat start barrier kept desc).kept = (s).kept := by simp only [State.beginNode]; (repeat' split) <;> simp [*]

@[simp ↓] theorem prepare_kept (s : State) (unit action : Nat) :
    (State.prepare s unit action).kept = (s).kept := by simp only [State.prepare]; (repeat' split) <;> simp [*]

@[simp ↓] theorem keptRole_kept (s : State) (c unit : Nat) (barrier : Bool) :
    (State.keptRole s c unit barrier).kept = (s).kept := by simp only [State.keptRole]; (repeat' split) <;> simp [*]

@[simp ↓] theorem upAt_kept (s : State) (c unit : Nat) (barrier : Bool) :
    (State.upAt s c unit barrier).kept = (s).kept := by simp only [State.upAt]; (repeat' split) <;> simp [*]

@[simp ↓] theorem wordUp_kept (s : State) (c : Nat) (barrier : Bool) (g : Seg) :
    (State.wordUp s c barrier g).kept = (s).kept := by simp only [State.wordUp]; (repeat' split) <;> simp [*]

@[simp ↓] theorem wordDown_kept (s : State) (c : Nat) (barrier : Bool) (g : Seg) :
    (State.wordDown s c barrier g).kept = (s).kept := by simp only [State.wordDown]; (repeat' split) <;> simp [*]

@[simp ↓] theorem takeWord_kept (s : State) (port : Nat) (pkt : List Byte) (kind : Nat) :
    (State.takeWord s port pkt kind).kept = (s).kept := by simp only [State.takeWord]; (repeat' split) <;> ((try simp only [Prod.ext_iff] at *) <;> (repeat cases ‹_ ∧ _›) <;> subst_vars <;> simp [*])

@[simp ↓] theorem settleGated_kept (s : State) (c heat : Nat) (go : Bool) :
    (State.settleGated s c heat go).kept = (s).kept := by simp only [State.settleGated]; (repeat' split) <;> simp [*]

@[simp ↓] theorem applyVerdict_kept (s : State) (n : Node) :
    (State.applyVerdict s n).kept = (s).kept := by unfold State.applyVerdict; (repeat' (first | split | extract_lets)) <;> (try simp only [Prod.ext_iff] at *) <;> (repeat cases ‹_ ∧ _›) <;> (try subst_vars) <;> simp +zetaDelta [*]

@[simp ↓] theorem writeRefCtrl_kept (s : State) (c v : Nat) :
    (State.writeRefCtrl s c v).kept = (s).kept := by simp only [State.writeRefCtrl]; (repeat' split) <;> simp [*]

end Sys2Proof.Machine
end

