-- ==== Sys2Proof/Laws/KeptUpdate.lean ====
section
/-!
SUPPORT. The operations of Sys2Proof/Machine/Update.lean keep `State.kept`.
-/
namespace Sys2Proof.Machine

@[simp ↓] theorem chRead_kept (ch : Nat) (a0 : Nat) (a1 : Nat) (a2 : Nat) (a3 : State) :
    (State.chRead ch a0 a1 a2 a3).1.kept = (a3).kept := by
  induction a0 generalizing ch a1 a2 a3 with
  | zero => simp [State.chRead]
  | succ n ih => simp only [State.chRead]; (repeat' split) <;> (first | ((try simp only [Prod.ext_iff] at *) <;> (repeat cases ‹_ ∧ _›) <;> subst_vars <;> simp [*]) | (refine (foldl_kept _ ?_ _ _).trans ?_ <;> (intros; (repeat' split) <;> ((try simp only [Prod.ext_iff] at *) <;> (repeat cases ‹_ ∧ _›) <;> subst_vars <;> simp [*]))) | (refine (foldl_kept_pair _ ?_ _ _).trans ?_ <;> (intros; (repeat' split) <;> ((try simp only [Prod.ext_iff] at *) <;> (repeat cases ‹_ ∧ _›) <;> subst_vars <;> simp [*]))))

@[simp ↓] theorem chLoad_kept (s : State) (ch off n : Nat) :
    (State.chLoad s ch off n).1.kept = (s).kept := by simp only [State.chLoad]; (repeat' split) <;> simp [*]

@[simp ↓] theorem chWrite_kept (ch : Nat) (a0 : Nat) (a1 : Nat) (a2 : List Byte) (a3 : State) :
    (State.chWrite ch a0 a1 a2 a3).1.kept = (a3).kept := by
  induction a0 generalizing ch a1 a2 a3 with
  | zero => simp [State.chWrite]
  | succ n ih => simp only [State.chWrite]; (repeat' split) <;> (first | ((try simp only [Prod.ext_iff] at *) <;> (repeat cases ‹_ ∧ _›) <;> subst_vars <;> simp [*]) | (refine (foldl_kept _ ?_ _ _).trans ?_ <;> (intros; (repeat' split) <;> ((try simp only [Prod.ext_iff] at *) <;> (repeat cases ‹_ ∧ _›) <;> subst_vars <;> simp [*]))) | (refine (foldl_kept_pair _ ?_ _ _).trans ?_ <;> (intros; (repeat' split) <;> ((try simp only [Prod.ext_iff] at *) <;> (repeat cases ‹_ ∧ _›) <;> subst_vars <;> simp [*]))))

@[simp ↓] theorem chSave_kept (s : State) (ch off : Nat) (bs : List Byte) :
    (State.chSave s ch off bs).1.kept = (s).kept := by simp only [State.chSave]; (repeat' split) <;> simp [*]

@[simp ↓] theorem readBlock_kept (d : Shard) (ch base b : Nat) (a0 : List Nat) (a1 : State) :
    (State.readBlock d ch base b a0 a1).1.kept = (a1).kept := by
  induction a0 generalizing d ch base b a1 with
  | nil => simp [State.readBlock]
  | cons x l ih => simp only [State.readBlock]; (repeat' split) <;> (first | ((try simp only [Prod.ext_iff] at *) <;> (repeat cases ‹_ ∧ _›) <;> subst_vars <;> simp [*]) | (refine (foldl_kept _ ?_ _ _).trans ?_ <;> (intros; (repeat' split) <;> ((try simp only [Prod.ext_iff] at *) <;> (repeat cases ‹_ ∧ _›) <;> subst_vars <;> simp [*]))) | (refine (foldl_kept_pair _ ?_ _ _).trans ?_ <;> (intros; (repeat' split) <;> ((try simp only [Prod.ext_iff] at *) <;> (repeat cases ‹_ ∧ _›) <;> subst_vars <;> simp [*]))))

@[simp ↓] theorem setEpoch_kept (s : State) (r : Region) (e : Nat) :
    (State.setEpoch s r e).kept = (s).kept := by simp only [State.setEpoch]; (repeat' split) <;> simp [*]

@[simp ↓] theorem epochOf_kept (s : State) (ch unit table i : Nat) (raw : List Byte) :
    (State.epochOf s ch unit table i raw).1.kept = (s).kept := by simp only [State.epochOf]; (repeat' split) <;> ((try simp only [Prod.ext_iff] at *) <;> (repeat cases ‹_ ∧ _›) <;> subst_vars <;> simp [*])

@[simp ↓] theorem readTable_kept (ch unit table c : Nat) (a0 : List Nat) (a1 : State) :
    (State.readTable ch unit table c a0 a1).1.kept = (a1).kept := by
  induction a0 generalizing a1 with
  | nil => simp [State.readTable]
  | cons i rest ih =>
    simp only [State.readTable]
    (repeat' split) <;> (try simp only [Prod.ext_iff] at *) <;> (repeat cases ‹_ ∧ _›) <;> (try subst_vars) <;> (try simp [*])

@[simp ↓] theorem countUnit_kept (s : State) (r : Reg) (u n : Nat) :
    (State.countUnit s r u n).kept = (s).kept := by simp only [State.countUnit]; (repeat' split) <;> simp [*]

@[simp ↓] theorem readBlocks_kept (d : Shard) (ch b : Nat) (a0 : List Nat) (a1 : State) :
    (State.readBlocks d ch b a0 a1).1.kept = (a1).kept := by
  induction a0 generalizing d ch b a1 with
  | nil => simp [State.readBlocks]
  | cons x l ih => simp only [State.readBlocks]; (repeat' split) <;> (first | ((try simp only [Prod.ext_iff] at *) <;> (repeat cases ‹_ ∧ _›) <;> subst_vars <;> simp [*]) | (refine (foldl_kept _ ?_ _ _).trans ?_ <;> (intros; (repeat' split) <;> ((try simp only [Prod.ext_iff] at *) <;> (repeat cases ‹_ ∧ _›) <;> subst_vars <;> simp [*]))) | (refine (foldl_kept_pair _ ?_ _ _).trans ?_ <;> (intros; (repeat' split) <;> ((try simp only [Prod.ext_iff] at *) <;> (repeat cases ‹_ ∧ _›) <;> subst_vars <;> simp [*]))))

@[simp ↓] theorem loadTwo_kept (s : State) (a n a' n' : Nat) :
    (State.loadTwo s a n a' n').1.kept = (s).kept := by simp only [State.loadTwo]; (repeat' split) <;> ((try simp only [Prod.ext_iff] at *) <;> (repeat cases ‹_ ∧ _›) <;> subst_vars <;> simp [*])

@[simp ↓] theorem gradsOf_kept (u : Nat) (d : Shard) (p : Hyper) (b : Nat) (x : State × Option (List Byte × List Byte)) :
    (gradsOf u d p b x).1.kept = x.1.kept := by
  rcases x with ⟨s, _ | ⟨q, sc⟩⟩ <;> simp only [gradsOf]
  split <;> simp

@[simp ↓] theorem readGrads_kept (s : State) (u : Nat) (d : Shard) (p : Hyper) (b : Nat) :
    (State.readGrads s u d p b).1.kept = (s).kept := by simp only [State.readGrads]; (repeat' split) <;> simp [*]

@[simp ↓] theorem readM2_kept (s : State) (d : Shard) (ch b : Nat) (fact : Bool) :
    (State.readM2 s d ch b fact).1.kept = (s).kept := by simp only [State.readM2]; (repeat' split) <;> ((try simp only [Prod.ext_iff] at *) <;> (repeat cases ‹_ ∧ _›) <;> subst_vars <;> simp [*])

@[simp ↓] theorem momentPhase_kept (s : State) (u : Nat) (d : Shard) (p : Hyper) (e b : Nat) :
    (State.momentPhase s u d p e b).1.kept = (s).kept := by unfold State.momentPhase; (repeat' (first | split | extract_lets)) <;> (try simp only [Prod.ext_iff] at *) <;> (repeat cases ‹_ ∧ _›) <;> (try subst_vars) <;> simp +zetaDelta [*]

@[simp ↓] theorem weightPhase_kept (s : State) (u : Nat) (d : Shard) (p : Hyper) (e b : Nat) (old : Bool) :
    (State.weightPhase s u d p e b old).1.kept = (s).kept := by unfold State.weightPhase; (repeat' (first | split | extract_lets)) <;> (try simp only [Prod.ext_iff] at *) <;> (repeat cases ‹_ ∧ _›) <;> (try subst_vars) <;> simp +zetaDelta [*]

@[simp ↓] theorem copyPhase_kept (s : State) (u : Nat) (d : Shard) (seed heat b : Nat) :
    (State.copyPhase s u d seed heat b).1.kept = (s).kept := by unfold State.copyPhase; (repeat' (first | split | extract_lets)) <;> (try simp only [Prod.ext_iff] at *) <;> (repeat cases ‹_ ∧ _›) <;> (try subst_vars) <;> simp +zetaDelta [*]

@[simp ↓] theorem digestBlock_kept (s : State) (ch : Nat) (d : Shard) (fact : Bool) (b : Nat) :
    (State.digestBlock s ch d fact b).1.kept = (s).kept := by simp only [State.digestBlock]; (repeat' split) <;> ((try simp only [Prod.ext_iff] at *) <;> (repeat cases ‹_ ∧ _›) <;> subst_vars <;> simp [*])

@[simp ↓] theorem digestWords_kept (ch : Nat) (d : Shard) (fact : Bool) (a0 : List Nat) (a1 : State) :
    (State.digestWords ch d fact a0 a1).1.kept = (a1).kept := by
  induction a0 generalizing ch d fact a1 with
  | nil => simp [State.digestWords]
  | cons x l ih => simp only [State.digestWords]; (repeat' split) <;> (first | ((try simp only [Prod.ext_iff] at *) <;> (repeat cases ‹_ ∧ _›) <;> subst_vars <;> simp [*]) | (refine (foldl_kept _ ?_ _ _).trans ?_ <;> (intros; (repeat' split) <;> ((try simp only [Prod.ext_iff] at *) <;> (repeat cases ‹_ ∧ _›) <;> subst_vars <;> simp [*]))) | (refine (foldl_kept_pair _ ?_ _ _).trans ?_ <;> (intros; (repeat' split) <;> ((try simp only [Prod.ext_iff] at *) <;> (repeat cases ‹_ ∧ _›) <;> subst_vars <;> simp [*]))))

@[simp ↓] theorem digestPhase_kept (s : State) (u : Nat) (d : Shard) (fact : Bool) (e : Nat) (heat : Nat) :
  (State.digestPhase s u d fact e heat).1.kept = (s).kept := by simp only [State.digestPhase]; (repeat' split) <;> ((try simp only [Prod.ext_iff] at *) <;> (repeat cases ‹_ ∧ _›) <;> (try subst_vars) <;> simp [*])

@[simp ↓] theorem readDigests_kept (ch : Nat) (a0 : List Region) (a1 : State) :
  (State.readDigests ch a0 a1).1.kept = (a1).kept := by 
  induction a0 generalizing ch a1 with
  | nil => simp [State.readDigests]
  | cons x l ih => simp only [State.readDigests]; (repeat' split) <;> (try simp only [Prod.ext_iff] at *) <;> (repeat cases ‹_ ∧ _›) <;> (try subst_vars) <;> simp [*]

@[simp ↓] theorem putDigest_kept (s : State) (u : Nat) (d : Nat) :
  (State.putDigest s u d).kept = (s).kept := by simp only [State.putDigest]; (repeat' split) <;> simp [*]

@[simp ↓] theorem keepDigest_kept (s : State) (u : Nat) :
  (State.keepDigest s u).1.kept = (s).kept := by simp only [State.keepDigest]; (repeat' split) <;> ((try simp only [Prod.ext_iff] at *) <;> (repeat cases ‹_ ∧ _›) <;> (try subst_vars) <;> simp [*])

@[simp ↓] theorem digestEnds_kept (s : State) (u : Nat) :
  (State.digestEnds s u).kept = (s).kept := by simp only [State.digestEnds]; (repeat' split) <;> ((try simp only [Prod.ext_iff] at *) <;> (repeat cases ‹_ ∧ _›) <;> (try subst_vars) <;> simp [*])

@[simp ↓] theorem sweepFails_kept (s : State) (u : Nat) (x : SweepErr) :
    (State.sweepFails s u x).kept = (s).kept := by simp only [State.sweepFails]; (repeat' split) <;> simp [*]

@[simp ↓] theorem sweepPhase_kept (s : State) (u : Nat) (x : Ctx) (e heat : Nat) (resume old : Bool) (r : Region) (b k : Nat) :
    (State.sweepPhase s u x e heat resume old r b k).1.kept = (s).kept := by simp only [State.sweepPhase]; (repeat' split) <;> ((try simp only [Prod.ext_iff] at *) <;> (repeat cases ‹_ ∧ _›) <;> subst_vars <;> simp [*])

@[simp ↓] theorem issueWrites_kept (ch : Nat) (a0 : Nat) (a1 : List (Nat × List Byte)) (a2 : State) :
    (State.issueWrites ch a0 a1 a2).1.kept = (a2).kept := by
  induction a0 generalizing a1 a2 with
  | zero => simp [State.issueWrites]
  | succ n ih =>
    cases a1 with
    | nil => simp [State.issueWrites]
    | cons w l =>
      simp only [State.issueWrites]
      (repeat' split) <;> (rename_i h; have h := congrArg (fun p => p.1.kept) h; simp at h; simp [ih, h])

@[simp ↓] theorem fillBuffer_kept (s : State) (u : Nat) :
  (State.fillBuffer s u).kept = (s).kept := by simp only [State.fillBuffer]; (repeat' split) <;> simp [*]

@[simp ↓] theorem issueLeft_kept (s : State) (u : Nat) (n : Nat) (w : Sweep) :
  (State.issueLeft s u n w).1.kept = (s).kept := by simp only [State.issueLeft]; (repeat' split) <;> simp [*]

@[simp ↓] theorem nextPhase_kept (s : State) (u : Nat) (table : Nat) (x : Ctx) (e : Nat) (heat : Nat) (resume : Bool) (w : Sweep) :
  (State.nextPhase s u table x e heat resume w).1.kept = (s).kept := by simp only [State.nextPhase]; (repeat' split) <;> ((try simp only [Prod.ext_iff] at *) <;> (repeat cases ‹_ ∧ _›) <;> (try subst_vars) <;> simp [*])

/-- What a computation that answers `x` in a state keeps. -/

theorem kept_of_eq {α : Type} {p : State × α} {s t : State} {x : α} (h : p = (s, x)) (k : p.1.kept = t.kept) : s.kept = t.kept := by
  rw [← k, h]

@[simp ↓] theorem sweepPhases_kept (u table : Nat) (x : Ctx) (e heat : Nat) (resume : Bool) (lines : Nat) (a0 : Nat) (a1 : Sweep) (a2 : State) :
    (State.sweepPhases u table x e heat resume lines a0 a1 a2).kept = (a2).kept := by
  induction a0 generalizing a1 a2 with
  | zero =>
    simp only [State.sweepPhases]
    split
    · simp
    · split
      · rename_i h; simp [kept_of_eq h (nextPhase_kept ..)]
      · rename_i h
        have h1 := kept_of_eq h (nextPhase_kept ..)
        split <;> (rename_i h2; simp [kept_of_eq h2 (issueLeft_kept ..), h1])
  | succ n ih =>
    simp only [State.sweepPhases]
    split
    · simp
    · split
      · rename_i h; simp [kept_of_eq h (nextPhase_kept ..)]
      · rename_i h
        have h1 := kept_of_eq h (nextPhase_kept ..)
        split <;> (rename_i h2; simp [ih, kept_of_eq h2 (issueLeft_kept ..), h1])

@[simp ↓] theorem openTable_kept (s : State) (u : Nat) (r : Running) (w : Sweep) :
  (State.openTable s u r w).1.kept = (s).kept := by simp only [State.openTable]; (repeat' split) <;> ((try simp only [Prod.ext_iff] at *) <;> (repeat cases ‹_ ∧ _›) <;> (try subst_vars) <;> simp [*])

/-- The shard table is read once, when the pour begins. -/

theorem opened_kept (s : State) (u : Nat) (r : Running) (w : Sweep) (b : Bool) :
    (if b then (s, true) else s.openTable u r w).1.kept = s.kept := by
  split <;> simp

@[simp ↓] theorem sweepOn_kept (s : State) (u phases lines : Nat) (r : Running) (w : Sweep) :
    (s.sweepOn u phases lines r w).kept = s.kept := by
  unfold State.sweepOn
  extract_lets
  split
  rename_i s1 ok h
  have h1 : s1.kept = s.kept := kept_of_eq h (opened_kept ..)
  split
  · exact h1
  · extract_lets
    split
    extract_lets
    (repeat' split) <;> simp +zetaDelta [h1]

@[simp ↓] theorem stopSweep_kept (s : State) (u : Nat) :
    (State.stopSweep s u).kept = (s).kept := by simp only [State.stopSweep]; (repeat' split) <;> simp [*]

@[simp ↓] theorem setCmp_kept (s : State) (n n' : Cmp) :
    (State.setCmp s n n').kept = (s).kept := by simp only [State.setCmp]; (repeat' split) <;> simp [*]

@[simp ↓] theorem pruneCmps_kept (s : State) (c : Nat) :
    (State.pruneCmps s c).kept = (s).kept := by simp only [State.pruneCmps]; (repeat' split) <;> simp [*]

@[simp ↓] theorem doCompare_kept (s : State) (u : Nat) (r : Running) : (s.doCompare u r).kept = s.kept := by
  unfold State.doCompare
  extract_lets c h d s1 base s2 s3 n
  split
  · exact ended_kept _ _
  · refine (ended_kept _ _).trans ?_
    have e : s3.kept = s2.kept := pruneCmps_kept _ _
    have e1 : s1.kept = s.kept := (setReg_kept _ _ _ _ _).trans (setReg_kept _ _ _ _ _)
    clear_value s3
    refine Eq.trans (b := s3.kept) rfl (e.trans ?_)
    clear e s3
    clear_value s1
    exact e1

@[simp ↓] theorem sendRecord_kept (s : State) (n : Cmp) (kind dst : Nat) (words : List Nat) :
    (State.sendRecord s n kind dst words).kept = (s).kept := by simp only [State.sendRecord]; (repeat' split) <;> simp [*]

@[simp ↓] theorem sendDown_kept (s : State) (n : Cmp) (kind : Nat) (words : List Nat) :
    (State.sendDown s n kind words).kept = (s).kept := by simp only [State.sendDown]; (repeat' split) <;> simp [*]

@[simp ↓] theorem record_kept (s : State) (n : Cmp) (i : Nat) :
  (State.record s n i).1.kept = (s).kept := by simp only [State.record]; (repeat' split) <;> ((try simp only [Prod.ext_iff] at *) <;> (repeat cases ‹_ ∧ _›) <;> (try subst_vars) <;> simp [*])

@[simp ↓] theorem records_kept (n : Cmp) (arrived : List Nat) (a0 : List Nat) (a1 : State) :
  (State.records n arrived a0 a1).1.kept = (a1).kept := by 
  induction a0 generalizing n arrived a1 with
  | nil => simp [State.records]
  | cons x l ih => simp only [State.records]; (repeat' split) <;> (try simp only [Prod.ext_iff] at *) <;> (repeat cases ‹_ ∧ _›) <;> (try subst_vars) <;> simp [*]

@[simp ↓] theorem takeCand_kept (s : State) (n : Cmp) (d : Nat) :
    (State.takeCand s n d).kept = (s).kept := by simp only [State.takeCand]; (repeat' split) <;> simp [*]

@[simp ↓] theorem takeResult_kept (s : State) (n : Cmp) (w : Nat) :
    (State.takeResult s n w).kept = (s).kept := by simp only [State.takeResult]; (repeat' split) <;> simp [*]

@[simp ↓] theorem putArea_kept (s : State) (n : Cmp) (pos : Nat) (words : List Nat) :
    (State.putArea s n pos words).kept = (s).kept := by simp only [State.putArea]; (repeat' split) <;> simp [*]

@[simp ↓] theorem voteAt_kept (s : State) (n : Cmp) :
    (State.voteAt s n).kept = (s).kept := by simp only [State.voteAt]; (repeat' split) <;> simp [*]

@[simp ↓] theorem countAt_kept (s : State) (n : Cmp) : (State.countAt s n).kept = (s).kept := by
  unfold State.countAt
  extract_lets agrees own
  split
  rename_i t ws h
  have h1 := kept_of_eq h (records_kept ..)
  extract_lets
  split <;> simp +zetaDelta [h1]

@[simp ↓] theorem admitRecord_kept (s : State) (port : Nat) (g : Seg) :
  (State.admitRecord s port g).1.kept = (s).kept := by simp only [State.admitRecord]; (repeat' split) <;> simp [*]

@[simp ↓] theorem recordIn_kept (s : State) (c : Nat) (g : Seg) :
    (State.recordIn s c g).kept = (s).kept := by simp only [State.recordIn]; (repeat' split) <;> simp [*]

@[simp ↓] theorem decideAt_kept (s : State) (n : Cmp) :
    (State.decideAt s n).kept = (s).kept := by simp only [State.decideAt]; (repeat' split) <;> simp [*]

@[simp ↓] theorem repairAsk_kept (s : State) (u : Nat) (src : Nat) (r : Running) (fact : Bool) (rg : Region) (w : Sweep) :
  (State.repairAsk s u src r fact rg w).kept = (s).kept := by simp only [State.repairAsk]; (repeat' split) <;> simp [*]

@[simp ↓] theorem repairPart_kept (s : State) (u : Nat) (fact : Bool) (rg : Region) (w : Sweep) :
  (State.repairPart s u fact rg w).1.kept = (s).kept := by simp only [State.repairPart]; (repeat' split) <;> ((try simp only [Prod.ext_iff] at *) <;> (repeat cases ‹_ ∧ _›) <;> (try subst_vars) <;> simp [*])

@[simp ↓] theorem repairShut_kept (s : State) (u : Nat) (rg : Region) (w : Sweep) :
  (State.repairShut s u rg w).1.kept = (s).kept := by simp only [State.repairShut]; (repeat' split) <;> simp [*]

@[simp ↓] theorem repairEnds_kept (s : State) (u : Nat) (src : Nat) (r : Running) (w : Sweep) :
    (State.repairEnds s u src r w).kept = (s).kept := by
  unfold State.repairEnds
  split <;> (rename_i h; simp [kept_of_eq h (keepDigest_kept ..)])

@[simp ↓] theorem repairWrites_kept (s : State) (u : Nat) (rg : Region) (w : Sweep) (n : Nat) :
    (State.repairWrites s u rg w n).1.kept = (s).kept := by
  simp only [State.repairWrites]
  split <;> (rename_i h; simp [kept_of_eq h (issueLeft_kept ..)])

@[simp ↓] theorem repairParts_kept (u table src : Nat) (r : Running) (x : Ctx) (lines : Nat) (a0 : Nat) (a1 : Sweep) (a2 : State) :
    (State.repairParts u table src r x lines a0 a1 a2).kept = (a2).kept := by
  induction a0 generalizing a1 a2 with
  | zero =>
    rw [State.repairParts.eq_def]
    dsimp only
    split
    · simp
    · rename_i rg _
      split
      · simp
      · have hp : (if a1.writes.isEmpty then (a2.fillBuffer u).repairPart u (x.factored u (shardOf rg.desc)) rg a1 else (a2, .ok a1)).1.kept = a2.kept := by split <;> simp
        split
        · rename_i h; simp [kept_of_eq h hp]
        · rename_i h
          have h1 := kept_of_eq h hp
          split <;> (rename_i h2; simp [kept_of_eq h2 (repairWrites_kept ..), h1])
  | succ n ih =>
    rw [State.repairParts.eq_def]
    dsimp only
    split
    · simp
    · rename_i rg _
      split
      · simp
      · have hp : (if a1.writes.isEmpty then (a2.fillBuffer u).repairPart u (x.factored u (shardOf rg.desc)) rg a1 else (a2, .ok a1)).1.kept = a2.kept := by split <;> simp
        split
        · rename_i h; simp [kept_of_eq h hp]
        · rename_i h
          have h1 := kept_of_eq h hp
          split <;> (rename_i h2; simp [ih, kept_of_eq h2 (repairWrites_kept ..), h1])

@[simp ↓] theorem repairOn_kept (s : State) (u parts lines : Nat) (r : Running) (w : Sweep) :
    (State.repairOn s u parts lines r w).kept = (s).kept := by
  unfold State.repairOn
  split
  · simp
  · split
    rename_i h
    have h1 := kept_of_eq h (opened_kept ..)
    split <;> simp [h1]

@[simp ↓] theorem repairAnswer_kept (s : State) (q : Req) (data : List Byte) :
  (State.repairAnswer s q data).kept = (s).kept := by simp only [State.repairAnswer]; (repeat' split) <;> simp [*]

@[simp ↓] theorem shardNamed_kept (s : State) (unit shard : Nat) :
    (State.shardNamed s unit shard).1.kept = (s).kept := by simp only [State.shardNamed]; (repeat' split) <;> ((try simp only [Prod.ext_iff] at *) <;> (repeat cases ‹_ ∧ _›) <;> subst_vars <;> simp [*])

@[simp ↓] theorem exportArrays_kept (ch : Nat) (d : Shard) (fact : Bool) (a0 : List Nat) (a1 : State) :
    (State.exportArrays ch d fact a0 a1).1.kept = (a1).kept := by
  induction a0 generalizing ch d fact a1 with
  | nil => simp [State.exportArrays]
  | cons x l ih => simp only [State.exportArrays]; (repeat' split) <;> (first | ((try simp only [Prod.ext_iff] at *) <;> (repeat cases ‹_ ∧ _›) <;> subst_vars <;> simp [*]) | (refine (foldl_kept _ ?_ _ _).trans ?_ <;> (intros; (repeat' split) <;> ((try simp only [Prod.ext_iff] at *) <;> (repeat cases ‹_ ∧ _›) <;> subst_vars <;> simp [*]))) | (refine (foldl_kept_pair _ ?_ _ _).trans ?_ <;> (intros; (repeat' split) <;> ((try simp only [Prod.ext_iff] at *) <;> (repeat cases ‹_ ∧ _›) <;> subst_vars <;> simp [*]))))

@[simp ↓] theorem putRecord_kept (s : State) (c dest : Nat) (header body : List Byte) :
    (State.putRecord s c dest header body).1.kept = (s).kept := by simp only [State.putRecord]; (repeat' split) <;> ((try simp only [Prod.ext_iff] at *) <;> (repeat cases ‹_ ∧ _›) <;> subst_vars <;> simp [*])

@[simp ↓] theorem exportNow_kept (s : State) (x : Export) :
  (State.exportNow s x).kept = (s).kept := by simp only [State.exportNow]; (repeat' split) <;> ((try simp only [Prod.ext_iff] at *) <;> (repeat cases ‹_ ∧ _›) <;> (try subst_vars) <;> simp [*])

@[simp ↓] theorem doExport_kept (s : State) (o : OutCmd) (c : Nat) (unit : Nat) (shard : Nat) (dest : Nat) (limit : Nat) (late : Bool) :
  (State.doExport s o c unit shard dest limit late).kept = (s).kept := by simp only [State.doExport]; (repeat' split) <;> ((try simp only [Prod.ext_iff] at *) <;> (repeat cases ‹_ ∧ _›) <;> (try subst_vars) <;> simp [*])

@[simp ↓] theorem serveExport_kept (s : State) :
  (State.serveExport s).kept = (s).kept := by simp only [State.serveExport]; (repeat' split) <;> simp [*]

@[simp ↓] theorem doDigest_kept (s : State) (o : OutCmd) (c unit shard : Nat) :
    (State.doDigest s o c unit shard).kept = (s).kept := by simp only [State.doDigest]; (repeat' split) <;> ((try simp only [Prod.ext_iff] at *) <;> (repeat cases ‹_ ∧ _›) <;> subst_vars <;> simp [*])

end Sys2Proof.Machine
end

