-- ==== Sys2Proof/Laws/KeptTiles.lean ====
section
/-!
SUPPORT. The operations of Sys2Proof/Machine/Tiles.lean keep `State.kept`.
-/
namespace Sys2Proof.Machine

@[simp ↓] theorem atomicLine_kept (s : State) (ln atype aop : Nat) (ops : List Byte) :
    (State.atomicLine s ln atype aop ops).1.kept = (s).kept := by unfold State.atomicLine; (repeat' (first | split | extract_lets)) <;> (try simp only [Prod.ext_iff] at *) <;> (repeat cases ‹_ ∧ _›) <;> (try subst_vars) <;> simp +zetaDelta [*]

@[simp ↓] theorem stopSweeps_kept (s : State) :
    (State.stopSweeps s).kept = (s).kept := by
  unfold State.stopSweeps
  exact foldl_kept _ (fun s u => by split <;> simp) _ _

@[simp ↓] theorem loseDomain_kept (s : State) (cause line unit : Nat) :
    (State.loseDomain s cause line unit).kept = (s).kept := by simp only [State.loseDomain]; (repeat' split) <;> simp [*]

@[simp ↓] theorem loseFound_kept (s : State) :
  (State.loseFound s).kept = (s).kept := by simp only [State.loseFound]; (repeat' split) <;> simp [*]

@[simp ↓] theorem startFill_kept (s : State) (a : Nat) (bs : List Byte) :
  (State.startFill s a bs).kept = (s).kept := by simp only [State.startFill]; (repeat' split) <;> ((try simp only [Prod.ext_iff] at *) <;> (repeat cases ‹_ ∧ _›) <;> (try subst_vars) <;> simp [*])

@[simp ↓] theorem serveAcc_kept (s : State) (ln : Nat) (a0 : EngAcc) :
  (State.serveAcc s ln a0).kept = (s).kept := by simp only [State.serveAcc]; (repeat' split) <;> ((try simp only [Prod.ext_iff] at *) <;> (repeat cases ‹_ ∧ _›) <;> (try subst_vars) <;> simp [*])

@[simp ↓] theorem send_kept (s : State) (kind : MsgKind) (core : Nat) (ln : Nat) (bs : List Byte) :
  (State.send s kind core ln bs).kept = (s).kept := by simp only [State.send]; (repeat' split) <;> simp [*]

@[simp ↓] theorem setOp_kept (s : State) (o : HomeOp) :
  (State.setOp s o).kept = (s).kept := by simp only [State.setOp]; (repeat' split) <;> simp [*]

@[simp ↓] theorem ask_kept (s : State) (o : HomeOp) (kind : MsgKind) (cores : List Nat) :
  (State.ask s o kind cores).kept = (s).kept := by simp only [State.ask]; (repeat' split) <;> simp [*]

@[simp ↓] theorem dirRead_kept (s : State) (ln : Nat) :
  (State.dirRead s ln).1.kept = (s).kept := by simp only [State.dirRead]; (repeat' split) <;> simp [*]

@[simp ↓] theorem serveEngine_kept (s : State) (ln : Nat) (x : EngAcc) :
  (State.serveEngine s ln x).1.kept = (s).kept := by simp only [State.serveEngine]; (repeat' split) <;> ((try simp only [Prod.ext_iff] at *) <;> (repeat cases ‹_ ∧ _›) <;> (try subst_vars) <;> simp [*])

@[simp ↓] theorem atChannel_kept (s : State) (ln : Nat) (x : EngAcc) :
  (State.atChannel s ln x).kept = (s).kept := by simp only [State.atChannel]; (repeat' split) <;> simp [*]

@[simp ↓] theorem fillFailed_kept (s : State) (ln : Nat) :
  (State.fillFailed s ln).kept = (s).kept := by simp only [State.fillFailed]; (repeat' split) <;> simp [*]

@[simp ↓] theorem writeIlv_kept (s : State) (die v : Nat) :
    (State.writeIlv s die v).kept = (s).kept := by simp only [State.writeIlv]; (repeat' split) <;> simp [*]

@[simp ↓] theorem coreFault_kept (s : State) (core addr : Nat) :
    (State.coreFault s core addr).kept = (s).kept := by simp only [State.coreFault]; (repeat' split) <;> simp [*]

@[simp ↓] theorem countMover_kept (s : State) (r : Reg) (u n : Nat) :
    (State.countMover s r u n).kept = (s).kept := by simp only [State.countMover]; (repeat' split) <;> simp [*]

@[simp ↓] theorem moveFails_kept (s : State) (u code unit addr detail : Nat) :
    (State.moveFails s u code unit addr detail).kept = (s).kept := by simp only [State.moveFails]; (repeat' split) <;> simp [*]

@[simp ↓] theorem moveGoes_kept (s : State) (u : Nat) :
    (State.moveGoes s u).kept = (s).kept := by simp only [State.moveGoes]; (repeat' split) <;> ((try simp only [Prod.ext_iff] at *) <;> (repeat cases ‹_ ∧ _›) <;> subst_vars <;> simp [*])

@[simp ↓] theorem unfly_kept (s : State) (u tile : Nat) :
    (State.unfly s u tile).kept = (s).kept := by simp only [State.unfly]; (repeat' split) <;> simp [*]

@[simp ↓] theorem landed_kept (s : State) (u tile : Nat) :
    (State.landed s u tile).kept = (s).kept := by simp only [State.landed]; (repeat' split) <;> simp [*]

@[simp ↓] theorem tileFails_kept (s : State) (u tile code unit addr detail : Nat) :
    (State.tileFails s u tile code unit addr detail).kept = (s).kept := by simp only [State.tileFails]; (repeat' split) <;> simp [*]

@[simp ↓] theorem tilePart_kept (s : State) (u c tile va n : Nat) (need : Need) (atomic : Bool) :
    (State.tilePart s u c tile va n need atomic).1.kept = (s).kept := by simp only [State.tilePart]; (repeat' split) <;> ((try simp only [Prod.ext_iff] at *) <;> (repeat cases ‹_ ∧ _›) <;> subst_vars <;> simp [*])

@[simp ↓] theorem tileTarget_kept (s : State) (u c : Nat) (action : Nat) (m : Tm) (t : Nat) :
    (State.tileTarget s u c action m t).1.kept = (s).kept := by unfold State.tileTarget; (repeat' (first | split | extract_lets)) <;> (try simp only [Prod.ext_iff] at *) <;> (repeat cases ‹_ ∧ _›) <;> (try subst_vars) <;> simp +zetaDelta [*]

@[simp ↓] theorem sendTile_kept (u tile : Nat) (r : Running) (m : Tm) (rs : List (Nat × Pkt)) (s : State) :
    (State.sendTile u tile r m rs s).kept = (s).kept := by
  unfold State.sendTile
  refine foldl_kept _ (fun s q => ?_) _ _
  obtain ⟨part, k⟩ := q
  dsimp only
  split <;> simp

@[simp ↓] theorem fly_kept (s : State) (u : Nat) (x : Fly) (first : Nat) :
    (State.fly s u x first).kept = (s).kept := by simp only [State.fly]; (repeat' split) <;> simp [*]

@[simp ↓] theorem issueRemote_kept (s : State) (u : Nat) (r : Running) (m : Tm) (t e g first : Nat) :
    (State.issueRemote s u r m t e g first).kept = (s).kept := by
  unfold State.issueRemote
  extract_lets c action die
  split
  · simp
  · split
    rename_i s1 src h
    have h1 : s1.kept = s.kept := kept_of_eq h (by split <;> simp)
    split
    · simp [h1]
    · (repeat' (first | split | extract_lets)) <;> simp +zetaDelta [h1]

@[simp ↓] theorem issueTile_kept (s : State) (u : Nat) (r : Running) (n first : Nat) :
    (State.issueTile s u r n first).kept = (s).kept := by
  unfold State.issueTile
  extract_lets action m die
  split
  · rename_i h; simp [kept_of_eq h (tileTarget_kept ..)]
  · rename_i h
    have h1 := kept_of_eq h (tileTarget_kept ..)
    extract_lets
    (repeat' (first | split | extract_lets)) <;> simp +zetaDelta [h1]

@[simp ↓] theorem tilePartBytes_kept (s : State) (x : Fly) (part g n : Nat) :
    (State.tilePartBytes s x part g n).1.kept = (s).kept := by simp only [State.tilePartBytes]; (repeat' split) <;> ((try simp only [Prod.ext_iff] at *) <;> (repeat cases ‹_ ∧ _›) <;> subst_vars <;> simp [*])

@[simp ↓] theorem tileParts_kept (s : State) (m : Tm) (x : Fly) :
    (State.tileParts s m x).1.kept = (s).kept := by simp only [State.tileParts]; (repeat' split) <;> ((try simp only [Prod.ext_iff] at *) <;> (repeat cases ‹_ ∧ _›) <;> subst_vars <;> simp [*])

@[simp ↓] theorem landLoad_kept (s : State) (unit tile : Nat) :
    (State.landLoad s unit tile).kept = (s).kept := by unfold State.landLoad; (repeat' (first | split | extract_lets)) <;> (try simp only [Prod.ext_iff] at *) <;> (repeat cases ‹_ ∧ _›) <;> (try subst_vars) <;> simp +zetaDelta [*]

@[simp ↓] theorem elemsSent_kept (s : State) (u : Nat) (tile : Nat) :
  (State.elemsSent s u tile).kept = (s).kept := by simp only [State.elemsSent]; (repeat' split) <;> simp [*]

@[simp ↓] theorem storeScale_kept (s : State) (x : Fly) :
  (State.storeScale s x).1.kept = (s).kept := by simp only [State.storeScale]; (repeat' split) <;> simp [*]

@[simp ↓] theorem landLate_kept (s : State) (unit : Nat) (r : Running) (m : Tm) (x : Fly) :
  (State.landLate s unit r m x).kept = (s).kept := by simp only [State.landLate]; (repeat' split) <;> ((try simp only [Prod.ext_iff] at *) <;> (repeat cases ‹_ ∧ _›) <;> (try subst_vars) <;> simp [*])

@[simp ↓] theorem landStore_kept (s : State) (unit tile : Nat) :
    (State.landStore s unit tile).kept = (s).kept := by unfold State.landStore; (repeat' (first | split | extract_lets)) <;> (try simp only [Prod.ext_iff] at *) <;> (repeat cases ‹_ ∧ _›) <;> (try subst_vars) <;> simp +zetaDelta [*]

@[simp ↓] theorem atomicLines_kept (atype aop : Nat) (a0 : List (Nat × List Byte)) (a1 : State) :
    (State.atomicLines atype aop a0 a1).1.kept = (a1).kept := by
  induction a0 generalizing atype aop a1 with
  | nil => simp [State.atomicLines]
  | cons x l ih => simp only [State.atomicLines]; (repeat' split) <;> (first | ((try simp only [Prod.ext_iff] at *) <;> (repeat cases ‹_ ∧ _›) <;> subst_vars <;> simp [*]) | (refine (foldl_kept _ ?_ _ _).trans ?_ <;> (intros; (repeat' split) <;> ((try simp only [Prod.ext_iff] at *) <;> (repeat cases ‹_ ∧ _›) <;> subst_vars <;> simp [*]))) | (refine (foldl_kept_pair _ ?_ _ _).trans ?_ <;> (intros; (repeat' split) <;> ((try simp only [Prod.ext_iff] at *) <;> (repeat cases ‹_ ∧ _›) <;> subst_vars <;> simp [*]))))

@[simp ↓] theorem atomicReturns_kept (s : State) (unit tile : Nat) (m : Tm) (old : List Byte) :
    (State.atomicReturns s unit tile m old).kept = (s).kept := by simp only [State.atomicReturns]; (repeat' split) <;> simp [*]

@[simp ↓] theorem landAtomic_kept (s : State) (unit tile : Nat) :
    (State.landAtomic s unit tile).kept = (s).kept := by simp only [State.landAtomic]; (repeat' split) <;> ((try simp only [Prod.ext_iff] at *) <;> (repeat cases ‹_ ∧ _›) <;> subst_vars <;> simp [*])

end Sys2Proof.Machine
end

