-- ==== Sys2Proof/Laws/KeptFabric.lean ====
section
/-!
SUPPORT. The operations of Sys2Proof/Machine/Fabric.lean keep `State.kept`.
-/
namespace Sys2Proof.Machine

@[simp ↓] theorem sendNak_kept (s : State) (p : Nat) :
    (State.sendNak s p).kept = (s).kept := by simp only [State.sendNak]; (repeat' split) <;> simp [*]

@[simp ↓] theorem discard_kept (s : State) (p : Nat) (frame : List Byte) :
  (State.discard s p frame).kept = (s).kept := by simp only [State.discard]; (repeat' split) <;> simp [*]

@[simp ↓] theorem giveBack_kept (s : State) (came : Option (Nat × Nat)) (units : Nat) :
  (State.giveBack s came units).kept = (s).kept := by simp only [State.giveBack]; (repeat' split) <;> simp [*]

@[simp ↓] theorem relayMore_kept (s : State) (p : Nat) (body : List Byte) :
  (State.relayMore s p body).1.kept = (s).kept := by simp only [State.relayMore]; (repeat' split) <;> simp [*]

@[simp ↓] theorem bodyIn_kept (s : State) (p : Nat) (body : List Byte) :
  (State.bodyIn s p body).kept = (s).kept := by simp only [State.bodyIn]; (repeat' split) <;> simp [*]

@[simp ↓] theorem relaysLost_kept (s : State) (p : Nat) :
    (State.relaysLost s p).kept = (s).kept := by
  unfold State.relaysLost
  extract_lets gone s1 fill s2
  have h1 : s1.kept = s.kept := foldl_kept _ (fun s w => by split <;> simp) _ _
  have h2 : s2.kept = s.kept := by simp only [s2]; split <;> simp [h1]
  simpa using h2

@[simp ↓] theorem farEnds_kept (s : State) (r : Req) (x : Resp) :
  (State.farEnds s r x).kept = (s).kept := by simp only [State.farEnds]; (repeat' split) <;> simp [*]

@[simp ↓] theorem notePorts_kept (s : State) (die : Nat) :
  (State.notePorts s die).kept = (s).kept := by simp only [State.notePorts]; (repeat' split) <;> simp [*]

@[simp ↓] theorem goDown_kept (s : State) (p : Nat) :
    (State.goDown s p).kept = (s).kept := by
  unfold State.goDown
  extract_lets lost far s1 s2 s3 s4
  have h4 : s4.kept = s.kept := (foldl_kept _ (fun s u => by simp) _ _).trans (by simp [s3, s2, s1])
  refine (foldl_kept _ (fun s u => ?_) _ _).trans h4
  split
  · simp
  · extract_lets; simp

@[simp ↓] theorem resend_kept (s : State) (p ack : Nat) : (State.resend s p ack).kept = (s).kept := by
  unfold State.resend
  extract_lets s1 es s2 s3 s4
  have h1 : s1.kept = s.kept := by simp [s1]
  have h4 : s4.kept = s.kept := by simp [s4, s3, s2, h1]
  split
  · simp [h1]
  · split <;> simp [h4]

@[simp ↓] theorem relay_kept (s : State) (port : Nat) (k : Pkt) (bytes : List Byte) (left : Nat) :
  (State.relay s port k bytes left).kept = (s).kept := by simp only [State.relay]; (repeat' split) <;> simp [*]

@[simp ↓] theorem matchTag_kept (s : State) (at' : Nat) (k : Pkt) (fits : Req → Bool) :
    (State.matchTag s at' k fits).1.kept = (s).kept := by simp only [State.matchTag]; (repeat' split) <;> simp [*]

@[simp ↓] theorem tileAnswer_kept (s : State) (r : Req) (data : Option (List Byte)) :
    (State.tileAnswer s r data).kept = (s).kept := by simp only [State.tileAnswer]; (repeat' split) <;> simp [*]

@[simp ↓] theorem farAsk_kept (s : State) :
  (State.farAsk s).kept = (s).kept := by simp only [State.farAsk]; (repeat' split) <;> ((try simp only [Prod.ext_iff] at *) <;> (repeat cases ‹_ ∧ _›) <;> (try subst_vars) <;> simp [*])

@[simp ↓] theorem answered_kept (s : State) (r : Req) (data : Option (List Byte)) :
    (State.answered s r data).kept = (s).kept := by simp only [State.answered]; (repeat' split) <;> simp [*]

@[simp ↓] theorem requestFails_kept (s : State) (r : Req) (code : Nat) :
    (State.requestFails s r code).kept = (s).kept := by simp only [State.requestFails]; (repeat' split) <;> simp [*]

@[simp ↓] theorem response_kept (s : State) (port typ : Nat) (pkt : List Byte) (fits : Req → Bool) (keep : Bool) :
    (State.response s port typ pkt fits keep).kept = (s).kept := by simp only [State.response]; (repeat' split) <;> ((try simp only [Prod.ext_iff] at *) <;> (repeat cases ‹_ ∧ _›) <;> subst_vars <;> simp [*])

@[simp ↓] theorem writePortCtrl_kept (s : State) (p : Nat) (v : Nat) :
  (State.writePortCtrl s p v).kept = (s).kept := by simp only [State.writePortCtrl]; (repeat' split) <;> simp [*]

@[simp ↓] theorem writeJoined_kept (s : State) (v : Nat) :
    (State.writeJoined s v).kept = (s).kept := by simp only [State.writeJoined]; (repeat' split) <;> simp [*]

@[simp ↓] theorem writeRoute_kept (s : State) (v : Nat) :
    (State.writeRoute s v).kept = (s).kept := by simp only [State.writeRoute]; (repeat' split) <;> simp [*]

@[simp ↓] theorem writeBias_kept (s : State) (v : Nat) :
    (State.writeBias s v).kept = (s).kept := by simp only [State.writeBias]; (repeat' split) <;> simp [*]

@[simp ↓] theorem writeWindow_kept (s : State) (w v : Nat) :
    (State.writeWindow s w v).kept = (s).kept := by unfold State.writeWindow; (repeat' (first | split | extract_lets)) <;> (try simp only [Prod.ext_iff] at *) <;> (repeat cases ‹_ ∧ _›) <;> (try subst_vars) <;> simp +zetaDelta [*]

@[simp ↓] theorem ethRing_kept (s : State) (p k : Nat) :
    (State.ethRing s p k).1.kept = (s).kept := by simp only [State.ethRing]; (repeat' split) <;> ((try simp only [Prod.ext_iff] at *) <;> (repeat cases ‹_ ∧ _›) <;> subst_vars <;> simp [*])

@[simp ↓] theorem ethPause_kept (s : State) (p : Nat) (k : Nat) (on : Bool) :
  (State.ethPause s p k on).kept = (s).kept := by simp only [State.ethPause]; (repeat' split) <;> simp [*]

@[simp ↓] theorem ethResume_kept (s : State) (p : Nat) (k : Nat) :
  (State.ethResume s p k).kept = (s).kept := by simp only [State.ethResume]; (repeat' split) <;> simp [*]

@[simp ↓] theorem ethDoorbell_kept (s : State) (p v : Nat) :
    (State.ethDoorbell s p v).kept = (s).kept := by simp only [State.ethDoorbell]; (repeat' split) <;> ((try simp only [Prod.ext_iff] at *) <;> (repeat cases ‹_ ∧ _›) <;> subst_vars <;> simp [*])

@[simp ↓] theorem ethDone_kept (s : State) (ring : Nat × Nat × Nat × Nat) :
    (State.ethDone s ring).kept = (s).kept := by simp only [State.ethDone]; (repeat' split) <;> simp [*]

@[simp ↓] theorem ethPick_kept (p : Nat) (a0 : List Nat) (a1 : State) :
    (State.ethPick p a0 a1).1.kept = (a1).kept := by
  induction a0 generalizing p a1 with
  | nil => simp [State.ethPick]
  | cons x l ih => simp only [State.ethPick]; (repeat' split) <;> (first | ((try simp only [Prod.ext_iff] at *) <;> (repeat cases ‹_ ∧ _›) <;> subst_vars <;> simp [*]) | (refine (foldl_kept _ ?_ _ _).trans ?_ <;> (intros; (repeat' split) <;> ((try simp only [Prod.ext_iff] at *) <;> (repeat cases ‹_ ∧ _›) <;> subst_vars <;> simp [*]))) | (refine (foldl_kept_pair _ ?_ _ _).trans ?_ <;> (intros; (repeat' split) <;> ((try simp only [Prod.ext_iff] at *) <;> (repeat cases ‹_ ∧ _›) <;> subst_vars <;> simp [*]))))

@[simp ↓] theorem ethDrop_kept (s : State) (p prio : Nat) (noDesc : Bool) :
    (State.ethDrop s p prio noDesc).kept = (s).kept := by simp only [State.ethDrop]; (repeat' split) <;> simp [*]

end Sys2Proof.Machine
end

