-- ==== Sys2Proof/Laws/KeptCoherence.lean ====
section
/-!
SUPPORT. The operations of Sys2Proof/Machine/Coherence.lean keep `State.kept`.
-/
namespace Sys2Proof.Machine

@[simp ↓] theorem countCore_kept (s : State) (r : Reg) (core n : Nat) :
    (State.countCore s r core n).kept = (s).kept := by simp only [State.countCore]; (repeat' split) <;> simp [*]

@[simp ↓] theorem slcEvict_kept (s : State) (ln : Nat) (l : SlcLine) :
    (State.slcEvict s ln l).kept = (s).kept := by simp only [State.slcEvict]; (repeat' split) <;> simp [*]
@[simp ↓] theorem slcPut_kept (s : State) (core ln : Nat) (bs : List Byte) (dirty : Bool) :
    (State.slcPut s core ln bs dirty).kept = (s).kept := by simp only [State.slcPut]; (repeat' split) <;> simp [*]

@[simp ↓] theorem homeRead_kept (s : State) (core ln : Nat) :
    (State.homeRead s core ln).1.kept = (s).kept := by simp only [State.homeRead]; (repeat' split) <;> ((try simp only [Prod.ext_iff] at *) <;> (repeat cases ‹_ ∧ _›) <;> subst_vars <;> simp [*])

@[simp ↓] theorem setEntryOf_kept (s : State) (ln : Nat) (e : DirSt) :
    (State.setEntryOf s ln e).kept = (s).kept := by simp only [State.setEntryOf]; (repeat' split) <;> simp [*]

@[simp ↓] theorem dropEntryOf_kept (s : State) (ln : Nat) :
    (State.dropEntryOf s ln).kept = (s).kept := by simp only [State.dropEntryOf]; (repeat' split) <;> simp [*]

@[simp ↓] theorem dropOp_kept (s : State) (ln : Nat) :
    (State.dropOp s ln).kept = (s).kept := by simp only [State.dropOp]; (repeat' split) <;> simp [*]

@[simp ↓] theorem dropReq_kept (s : State) (core ln : Nat) :
    (State.dropReq s core ln).kept = (s).kept := by simp only [State.dropReq]; (repeat' split) <;> simp [*]

@[simp ↓] theorem grantData_kept (s : State) (o : HomeOp) (excl : Bool) :
    (State.grantData s o excl).kept = (s).kept := by simp only [State.grantData]; (repeat' split) <;> ((try simp only [Prod.ext_iff] at *) <;> (repeat cases ‹_ ∧ _›) <;> subst_vars <;> simp [*])

@[simp ↓] theorem grantUpgrade_kept (s : State) (o : HomeOp) :
    (State.grantUpgrade s o).kept = (s).kept := by simp only [State.grantUpgrade]; (repeat' split) <;> simp [*]

@[simp ↓] theorem beginRecall_kept (s : State) (v : Nat × DirSt) :
    (State.beginRecall s v).kept = (s).kept := by simp only [State.beginRecall]; (repeat' split) <;> simp [*]

@[simp ↓] theorem serveCore_kept (s : State) (o : HomeOp) :
    (State.serveCore s o).kept = (s).kept := by simp only [State.serveCore]; (repeat' split) <;> simp [*]

@[simp ↓] theorem serveNext_kept (ln : Nat) (a0 : Nat) (a1 : State) :
    (State.serveNext ln a0 a1).kept = (a1).kept := by
  induction a0 generalizing ln a1 with
  | zero => simp [State.serveNext]
  | succ n ih => simp only [State.serveNext]; (repeat' split) <;> (first | ((try simp only [Prod.ext_iff] at *) <;> (repeat cases ‹_ ∧ _›) <;> subst_vars <;> simp [*]) | (refine (foldl_kept _ ?_ _ _).trans ?_ <;> (intros; (repeat' split) <;> ((try simp only [Prod.ext_iff] at *) <;> (repeat cases ‹_ ∧ _›) <;> subst_vars <;> simp [*]))) | (refine (foldl_kept_pair _ ?_ _ _).trans ?_ <;> (intros; (repeat' split) <;> ((try simp only [Prod.ext_iff] at *) <;> (repeat cases ‹_ ∧ _›) <;> subst_vars <;> simp [*]))))

@[simp ↓] theorem homeDone_kept (s : State) (o : HomeOp) :
    (State.homeDone s o).kept = (s).kept := by simp only [State.homeDone]; (repeat' split) <;> simp [*]

@[simp ↓] theorem answersIn_kept (s : State) (o : HomeOp) :
    (State.answersIn s o).kept = (s).kept := by simp only [State.answersIn]; (repeat' split) <;> ((try simp only [Prod.ext_iff] at *) <;> (repeat cases ‹_ ∧ _›) <;> subst_vars <;> simp [*])

@[simp ↓] theorem oneAnswer_kept (s : State) (core ln : Nat) :
    (State.oneAnswer s core ln).kept = (s).kept := by simp only [State.oneAnswer]; (repeat' split) <;> simp [*]

@[simp ↓] theorem takeData_kept (s : State) (core ln : Nat) (bs : List Byte) :
    (State.takeData s core ln bs).kept = (s).kept := by simp only [State.takeData]; (repeat' split) <;> simp [*]

@[simp ↓] theorem nack_kept (s : State) (core ln : Nat) :
    (State.nack s core ln).kept = (s).kept := by simp only [State.nack]; (repeat' split) <;> simp [*]

@[simp ↓] theorem homeRequest_kept (s : State) (core : Nat) (ln : Nat) (kind : OpKind) :
  (State.homeRequest s core ln kind).kept = (s).kept := by simp only [State.homeRequest]; (repeat' split) <;> ((try simp only [Prod.ext_iff] at *) <;> (repeat cases ‹_ ∧ _›) <;> (try subst_vars) <;> simp [*])

@[simp ↓] theorem l2Room_kept (s s' : State) (core : Nat) (h : s.l2Room core = some s') : s'.kept = s.kept := by
  unfold State.l2Room at h
  extract_lets mine at h
  split at h
  · cases h; rfl
  · split at h
    · cases h
    · split at h
      rename_i h2
      have h3 := congrArg (fun p => p.2.kept) h2
      simp only [Option.some.injEq] at h
      subst h
      simp at h3
      simp [h3]

@[simp ↓] theorem coreRequest_kept (s : State) (core ln : Nat) (kind : OpKind) :
    (State.coreRequest s core ln kind).kept = (s).kept := by
  unfold State.coreRequest
  extract_lets held asks
  split
  · rfl
  split
  · split <;> simp
  split
  · split
    · rfl
    · split <;> (rename_i h; simp [kept_of_eq h (load_kept ..)])
  split
  · rfl
  split
  · show State.kept (if _ then _ else _) = _
    split <;> simp
  · rename_i s' h
    have e : s'.kept = s.kept := by
      split at h
      · cases h; rename_i e; subst e; rfl
      · rw [l2Room_kept _ _ _ h]; show State.kept (if _ then _ else _) = _; split <;> simp
    simp only [homeRequest_kept, setHcx_kept, e]

@[simp ↓] theorem coreAnswers_kept (s : State) (core ln : Nat) (kind : MsgKind) :
    (State.coreAnswers s core ln kind).kept = (s).kept := by simp only [State.coreAnswers]; (repeat' split) <;> simp [*]

@[simp ↓] theorem receive_kept (s s' : State) (k : MsgKind) (core ln : Nat) (m : CohMsg) (h : s.receive k core ln = some (m, s')) :
    s'.kept = s.kept := by
  unfold State.receive at h
  split at h
  · cases h
  · cases h; simp

@[simp ↓] theorem coreTold_kept (s : State) (core ln : Nat) (kind : MsgKind) (did : CoreDid) :
    (s.coreTold core ln kind did).kept = s.kept := by
  unfold State.coreTold
  split
  · rfl
  · rename_i m s' h
    split at h
    · have h := receive_kept _ _ _ _ _ _ h
      extract_lets s1
      have e : s1.kept = s.kept := by simp [s1, h]
      clear_value s1
      (repeat' split) <;> simp [e]
    · cases h

@[simp ↓] theorem l1Room_kept (s : State) (core : Nat) :
  (State.l1Room s core).kept = (s).kept := by simp only [State.l1Room]; (repeat' split) <;> simp [*]

@[simp ↓] theorem l1Instr_kept (s : State) (core : Nat) (ln : Nat) :
  (State.l1Instr s core ln).kept = (s).kept := by simp only [State.l1Instr]; (repeat' split) <;> simp [*]

@[simp ↓] theorem coreGets_kept (s : State) (core ln : Nat) (st : CopySt) (bs : Option (List Byte)) :
    (State.coreGets s core ln st bs).kept = (s).kept := by simp only [State.coreGets]; (repeat' split) <;> simp [*]

@[simp ↓] theorem coreDelivered_kept (s : State) (core ln : Nat) (kind : MsgKind) (st : CopySt) :
    (s.coreDelivered core ln kind st).kept = s.kept := by
  unfold State.coreDelivered
  split
  · rfl
  · rename_i m s' h
    split at h
    · simp [receive_kept _ _ _ _ _ _ h]
    · cases h

@[simp ↓] theorem markSlc_kept (s : State) (ln : Nat) (unit : Nat) :
  (State.markSlc s ln unit).kept = (s).kept := by simp only [State.markSlc]; (repeat' split) <;> simp [*]

end Sys2Proof.Machine
end

