-- ==== Sys2Proof/Laws/KeptTranslate.lean ====
section
/-!
SUPPORT. The operations of Sys2Proof/Machine/Translate.lean keep `State.kept`.
-/
namespace Sys2Proof.Machine

@[simp ↓] theorem newTable_kept (s : State) (c level : Nat) :
    (State.newTable s c level).1.kept = (s).kept := by simp only [State.newTable]; (repeat' split) <;> simp [*]

@[simp ↓] theorem putLeaf_kept (c va leaf : Nat) (a0 : List (Nat × Nat × Nat)) (a1 : Nat) (a2 : State) :
    (State.putLeaf c va leaf a0 a1 a2).1.kept = (a2).kept := by
  induction a0 generalizing c va leaf a1 a2 with
  | nil => simp [State.putLeaf]
  | cons x l ih => simp only [State.putLeaf]; (repeat' split) <;> (first | ((try simp only [Prod.ext_iff] at *) <;> (repeat cases ‹_ ∧ _›) <;> subst_vars <;> simp [*]) | (refine (foldl_kept _ ?_ _ _).trans ?_ <;> (intros; (repeat' split) <;> ((try simp only [Prod.ext_iff] at *) <;> (repeat cases ‹_ ∧ _›) <;> subst_vars <;> simp [*]))) | (refine (foldl_kept_pair _ ?_ _ _).trans ?_ <;> (intros; (repeat' split) <;> ((try simp only [Prod.ext_iff] at *) <;> (repeat cases ‹_ ∧ _›) <;> subst_vars <;> simp [*]))))

@[simp ↓] theorem findLeaf_kept (va : Nat) (a0 : List (Nat × Nat × Nat)) (a1 : Nat) (a2 : State) :
    (State.findLeaf va a0 a1 a2).1.kept = (a2).kept := by
  induction a0 generalizing va a1 a2 with
  | nil => simp [State.findLeaf]
  | cons x l ih => simp only [State.findLeaf]; (repeat' split) <;> (first | ((try simp only [Prod.ext_iff] at *) <;> (repeat cases ‹_ ∧ _›) <;> subst_vars <;> simp [*]) | (refine (foldl_kept _ ?_ _ _).trans ?_ <;> (intros; (repeat' split) <;> ((try simp only [Prod.ext_iff] at *) <;> (repeat cases ‹_ ∧ _›) <;> subst_vars <;> simp [*]))) | (refine (foldl_kept_pair _ ?_ _ _).trans ?_ <;> (intros; (repeat' split) <;> ((try simp only [Prod.ext_iff] at *) <;> (repeat cases ‹_ ∧ _›) <;> subst_vars <;> simp [*]))))

@[simp ↓] theorem prune_kept (c va : Nat) (a0 : List (Nat × Nat × Nat)) (a1 : Nat) (a2 : State) :
    (State.prune c va a0 a1 a2).kept = (a2).kept := by
  induction a0 generalizing c va a1 a2 with
  | nil => simp [State.prune]
  | cons x l ih => simp only [State.prune]; (repeat' split) <;> simp [*]

@[simp ↓] theorem pin_kept (s : State) (c va leaf : Nat) (big : Bool) :
    (State.pin s c va leaf big).kept = (s).kept := by simp only [State.pin]; (repeat' split) <;> simp [*]

@[simp ↓] theorem mapAll_kept (c ga leafFlags : Nat) (big pin : Bool) (va : Nat) (a0 : List Nat) (a1 : State) :
    (State.mapAll c ga leafFlags big pin va a0 a1).1.kept = (a1).kept := by
  induction a0 generalizing c ga leafFlags big pin va a1 with
  | nil => simp [State.mapAll]
  | cons x l ih => simp only [State.mapAll]; (repeat' split) <;> (first | ((try simp only [Prod.ext_iff] at *) <;> (repeat cases ‹_ ∧ _›) <;> subst_vars <;> simp [*]) | (refine (foldl_kept _ ?_ _ _).trans ?_ <;> (intros; (repeat' split) <;> ((try simp only [Prod.ext_iff] at *) <;> (repeat cases ‹_ ∧ _›) <;> subst_vars <;> simp [*]))) | (refine (foldl_kept_pair _ ?_ _ _).trans ?_ <;> (intros; (repeat' split) <;> ((try simp only [Prod.ext_iff] at *) <;> (repeat cases ‹_ ∧ _›) <;> subst_vars <;> simp [*]))))

@[simp ↓] theorem doMap_kept (s : State) (o : OutCmd) (c va ga pages size flags : Nat) :
    (State.doMap s o c va ga pages size flags).kept = (s).kept := by simp only [State.doMap]; (repeat' split) <;> simp [*]

@[simp ↓] theorem clearLeaves_kept (c : Nat) (big : Bool) (a0 : List Nat) (a1 : State) :
    (State.clearLeaves c big a0 a1).1.kept = (a1).kept := by
  induction a0 generalizing c big a1 with
  | nil => simp [State.clearLeaves]
  | cons x l ih => simp only [State.clearLeaves]; (repeat' split) <;> (first | ((try simp only [Prod.ext_iff] at *) <;> (repeat cases ‹_ ∧ _›) <;> subst_vars <;> simp [*]) | (refine (foldl_kept _ ?_ _ _).trans ?_ <;> (intros; (repeat' split) <;> ((try simp only [Prod.ext_iff] at *) <;> (repeat cases ‹_ ∧ _›) <;> subst_vars <;> simp [*]))) | (refine (foldl_kept_pair _ ?_ _ _).trans ?_ <;> (intros; (repeat' split) <;> ((try simp only [Prod.ext_iff] at *) <;> (repeat cases ‹_ ∧ _›) <;> subst_vars <;> simp [*]))))

@[simp ↓] theorem invalidate_kept (s : State) (c lo hi : Nat) (un : Bool) (o : OutCmd) :
    (State.invalidate s c lo hi un o).kept = (s).kept := by simp only [State.invalidate]; (repeat' split) <;> simp [*]

@[simp ↓] theorem doUnmap_kept (s : State) (o : OutCmd) (c va pages size : Nat) :
    (State.doUnmap s o c va pages size).kept = (s).kept := by simp only [State.doUnmap]; (repeat' split) <;> ((try simp only [Prod.ext_iff] at *) <;> (repeat cases ‹_ ∧ _›) <;> subst_vars <;> simp [*])

@[simp ↓] theorem doInval_kept (s : State) (o : OutCmd) (c va pages size : Nat) (all : Bool) :
    (State.doInval s o c va pages size all).kept = (s).kept := by simp only [State.doInval]; (repeat' split) <;> simp [*]

end Sys2Proof.Machine
end

