-- ==== Sys2Proof/Laws/KeptContexts.lean ====
section
/-!
SUPPORT. The operations of Sys2Proof/Machine/Contexts.lean keep `State.kept`.
-/
namespace Sys2Proof.Machine

@[simp ↓] theorem doCreate_kept (s : State) (o : OutCmd) (c : Nat) (p : Create) (payload : List Byte) :
    (State.doCreate s o c p payload).kept = (s).kept := by simp only [State.doCreate]; (repeat' split) <;> ((try simp only [Prod.ext_iff] at *) <;> (repeat cases ‹_ ∧ _›) <;> subst_vars <;> simp [*])

@[simp ↓] theorem doPartition_kept (s : State) (o : OutCmd) (c : Nat) (payload : List Byte) :
    (State.doPartition s o c payload).kept = (s).kept := by simp only [State.doPartition]; (repeat' split) <;> simp [*]

@[simp ↓] theorem teardown_kept (s : State) (c : Nat) :
    (State.teardown s c).kept = (s).kept := by simp only [State.teardown]; (repeat' split) <;> simp [*]

@[simp ↓] theorem doDestroy_kept (s : State) (o : OutCmd) (c : Nat) :
    (State.doDestroy s o c).kept = (s).kept := by simp only [State.doDestroy]; (repeat' split) <;> simp [*]

@[simp ↓] theorem doPreempt_kept (s : State) (o : OutCmd) (c : Nat) :
    (State.doPreempt s o c).kept = (s).kept := by simp only [State.doPreempt]; (repeat' split) <;> simp [*]

@[simp ↓] theorem takePreempt_kept (s : State) (c at' : Nat) :
    (State.takePreempt s c at').kept = (s).kept := by simp only [State.takePreempt]; (repeat' split) <;> simp [*]

@[simp ↓] theorem doResume_kept (s : State) (o : OutCmd) (c ftStart : Nat) :
    (State.doResume s o c ftStart).kept = (s).kept := by simp only [State.doResume]; (repeat' split) <;> simp [*]

@[simp ↓] theorem doDisable_kept (s : State) (o : OutCmd) (u timeout : Nat) :
    (State.doDisable s o u timeout).kept = (s).kept := by simp only [State.doDisable]; (repeat' split) <;> simp [*]

@[simp ↓] theorem abortRunning_kept (s : State) (u code : Nat) :
    (State.abortRunning s u code).kept = (s).kept := by simp only [State.abortRunning]; (repeat' split) <;> simp [*]

@[simp ↓] theorem abortQueue_kept (u : Nat) (a0 : List Held) (a1 : State) :
    (State.abortQueue u a0 a1).kept = (a1).kept := by
  induction a0 generalizing u a1 with
  | nil => simp [State.abortQueue]
  | cons x l ih => simp only [State.abortQueue]; (repeat' split) <;> simp [*]

@[simp ↓] theorem doEnable_kept (s : State) (o : OutCmd) (u : Nat) :
    (State.doEnable s o u).kept = (s).kept := by simp only [State.doEnable]; (repeat' split) <;> simp [*]

end Sys2Proof.Machine
end

