-- ==== Sys2Proof/Laws/KeptBoot.lean ====
section
/-!
SUPPORT. The operations of Sys2Proof/Machine/Boot.lean keep `State.kept`.
-/
namespace Sys2Proof.Machine

@[simp ↓] theorem hold_kept (s : State) (cause die at' : Nat) :
    (State.hold s cause die at').kept = (s).kept := by simp only [State.hold]; (repeat' split) <;> simp [*]

@[simp ↓] theorem pass_kept (s : State) :
    (State.pass s).kept = (s).kept := by simp only [State.pass]; (repeat' split) <;> simp [*]

@[simp ↓] theorem fails_kept (s : State) (cause die : Nat) :
    (State.fails s cause die).kept = (s).kept := by simp only [State.fails]; (repeat' split) <;> simp [*]

@[simp ↓] theorem testDone_kept (s : State) (d time : Nat) (res : SelfTest) :
    (State.testDone s d time res).kept = (s).kept := by unfold State.testDone; (repeat' (first | split | extract_lets)) <;> (try simp only [Prod.ext_iff] at *) <;> (repeat cases ‹_ ∧ _›) <;> (try subst_vars) <;> simp +zetaDelta [*]

@[simp ↓] theorem drawChallenge_kept (s : State) :
    (State.drawChallenge s).kept = (s).kept := by simp only [State.drawChallenge]; (repeat' split) <;> simp [*]

@[simp ↓] theorem readStaged_kept (s : State) (off : Nat) (n : Nat) :
  (State.readStaged s off n).1.kept = (s).kept := by simp only [State.readStaged]; (repeat' split) <;> simp [*]

@[simp ↓] theorem readImage_kept (s : State) :
  (State.readImage s).1.kept = (s).kept := by simp only [State.readImage]; (repeat' split) <;> simp [*]

@[simp ↓] theorem noteChecks_kept (s : State) (r : Option (Bool × Bool)) : (State.noteChecks s r).kept = (s).kept := rfl

@[simp ↓] theorem recordChecks_kept (s : State) : (State.recordChecks s).kept = (s).kept := by
  unfold State.recordChecks
  extract_lets m sig
  rw [noteChecks_kept]

@[simp ↓] theorem measure_kept (s : State) (slot : Nat) (h : List Byte) :
    (State.measure s slot h).kept = (s).kept := by simp only [State.measure]; (repeat' split) <;> simp [*]

@[simp ↓] theorem measureBoot_kept (s : State) :
    (State.measureBoot s).kept = (s).kept := by simp only [State.measureBoot]; (repeat' split) <;> simp [*]

@[simp ↓] theorem releaseNext_kept (s : State) (at' : Nat) :
    (State.releaseNext s at').kept = (s).kept := by simp only [State.releaseNext]; (repeat' split) <;> simp [*]

@[simp ↓] theorem trainDir_kept (s : State) (failing : List Sys2Proof.Lane) (d : Dir) :
    (State.trainDir s failing d).kept = (s).kept := by simp only [State.trainDir]; (repeat' split) <;> simp [*]

@[simp ↓] theorem placeLoader_kept (s : State) (bytes : List Byte) :
    (State.placeLoader s bytes).kept = (s).kept := by simp only [State.placeLoader]; (repeat' split) <;> simp [*]

@[simp ↓] theorem zeroStage_kept (s : State) :
    (State.zeroStage s).kept = (s).kept := by simp only [State.zeroStage]; (repeat' split) <;> simp [*]

@[simp ↓] theorem releaseCores_kept (s : State) :
    (State.releaseCores s).kept = (s).kept := by simp only [State.releaseCores]; (repeat' split) <;> simp [*]

@[simp ↓] theorem settleUnit_kept (s : State) (u : Nat) :
    (State.settleUnit s u).kept = (s).kept := by simp only [State.settleUnit]; (repeat' split) <;> simp [*]

@[simp ↓] theorem stopPours_kept (s : State) :
    (State.stopPours s).kept = (s).kept := by simp only [State.stopPours]; (repeat' split) <;> simp [*]

@[simp ↓] theorem writeBack_kept (s : State) (e : Nat × SlcLine) :
  (State.writeBack s e).kept = (s).kept := by simp only [State.writeBack]; (repeat' split) <;> simp [*]

@[simp ↓] theorem dropCaches_kept (s : State) :
    (State.dropCaches s).kept = (s).kept := by simp only [State.dropCaches]; (first | ((try simp only [Prod.ext_iff] at *) <;> (repeat cases ‹_ ∧ _›) <;> subst_vars <;> simp [*]) | (refine (foldl_kept _ ?_ _ _).trans ?_ <;> (intros; (repeat' split) <;> ((try simp only [Prod.ext_iff] at *) <;> (repeat cases ‹_ ∧ _›) <;> subst_vars <;> simp [*]))) | (refine (foldl_kept_pair _ ?_ _ _).trans ?_ <;> (intros; (repeat' split) <;> ((try simp only [Prod.ext_iff] at *) <;> (repeat cases ‹_ ∧ _›) <;> subst_vars <;> simp [*]))))

@[simp ↓] theorem recordCmds_kept (s : State) (c : Nat) :
    (State.recordCmds s c).kept = (s).kept := by simp only [State.recordCmds]; (repeat' split) <;> simp [*]

@[simp ↓] theorem fenceAll_kept (s : State) :
    (State.fenceAll s).kept = (s).kept := by simp only [State.fenceAll]; (repeat' split) <;> simp [*]

@[simp ↓] theorem hcxRegs_kept (s : State) :
    (State.hcxRegs s).kept = (s).kept := by simp only [State.hcxRegs]; (repeat' split) <;> simp [*]

end Sys2Proof.Machine
end

