-- ==== Sys2Proof/Laws/KeptServing.lean ====
section
/-!
SUPPORT. The operations of Sys2Proof/Machine/Serving.lean keep `State.kept`.
-/
namespace Sys2Proof.Machine

@[simp ↓] theorem doSeqAdmit_kept (s : State) (o : OutCmd) (c : Nat) (entries : List Admit) :
    (State.doSeqAdmit s o c entries).kept = (s).kept := by simp only [State.doSeqAdmit]; (repeat' split) <;> simp [*]

@[simp ↓] theorem doSeqRetire_kept (s : State) (o : OutCmd) (c : Nat) (slots : List Nat) :
    (State.doSeqRetire s o c slots).kept = (s).kept := by simp only [State.doSeqRetire]; (repeat' split) <;> simp [*]

@[simp ↓] theorem putPages_kept (s : State) (c : Nat) (q : SeqSt) (new : List Nat) :
    (State.putPages s c q new).1.kept = (s).kept := by simp only [State.putPages]; (repeat' split) <;> simp [*]

@[simp ↓] theorem cmdpFault_kept (s : State) (c va : Nat) (e : XErr) :
    (State.cmdpFault s c va e).kept = (s).kept := by simp only [State.cmdpFault]; (repeat' split) <;> simp [*]

@[simp ↓] theorem grant_kept (s : State) (c : Nat) (q : SeqSt) (need : Nat) :
    (State.grant s c q need).1.kept = (s).kept := by simp only [State.grant]; (repeat' split) <;> ((try simp only [Prod.ext_iff] at *) <;> (repeat cases ‹_ ∧ _›) <;> subst_vars <;> simp [*])

@[simp ↓] theorem putSeq_kept (s : State) (c : Nat) (q : SeqSt) :
    (State.putSeq s c q).kept = (s).kept := by simp only [State.putSeq]; (repeat' split) <;> simp [*]

@[simp ↓] theorem serveSeq_kept (c : Nat) (acc : State × Bool × Bool) (q : SeqSt) :
    (State.serveSeq c acc q).1.kept = (acc.1).kept := by simp only [State.serveSeq]; (repeat' split) <;> simp [*]

@[simp ↓] theorem decideAdmit_kept (c n : Nat) (stalled : Bool) (acc : State × Bool) (a : OutCmd × Nat × List SeqSt) :
    (State.decideAdmit c n stalled acc a).1.kept = (acc.1).kept := by unfold State.decideAdmit; (repeat' (first | split | extract_lets)) <;> (try simp only [Prod.ext_iff] at *) <;> (repeat cases ‹_ ∧ _›) <;> (try subst_vars) <;> simp +zetaDelta [*]

@[simp ↓] theorem writeBatch_kept (s : State) (c n : Nat) :
    (State.writeBatch s c n).kept = (s).kept := by simp only [State.writeBatch]; (repeat' split) <;> ((try simp only [Prod.ext_iff] at *) <;> (repeat cases ‹_ ∧ _›) <;> subst_vars <;> simp [*])

@[simp ↓] theorem decide_kept (s : State) (c n start : Nat) :
    (State.decide s c n start).kept = (s).kept := by unfold State.decide; (repeat' (first | split | extract_lets)) <;> (try simp only [Prod.ext_iff] at *) <;> (repeat cases ‹_ ∧ _›) <;> (try subst_vars) <;> simp +zetaDelta [*]

@[simp ↓] theorem postSeqReplies_kept (s : State) (c : Nat) :
    (State.postSeqReplies s c).kept = (s).kept := by simp only [State.postSeqReplies]; (repeat' split) <;> simp [*]

end Sys2Proof.Machine
end

