-- ==== Sys2Proof/Laws/KeptCommand.lean ====
section
/-!
SUPPORT. The operations of Sys2Proof/Machine/Command.lean keep `State.kept`.
-/
namespace Sys2Proof.Machine

@[simp ↓] theorem runPacket_kept (s : State) (o : OutCmd) (op c : Nat) (b : List Byte) :
    (State.runPacket s o op c b).kept = (s).kept := by simp only [State.runPacket]; (repeat' split) <;> simp [*]

@[simp ↓] theorem acceptPacket_kept (s : State) (ring : Nat) (b : List Byte) :
    (State.acceptPacket s ring b).kept = (s).kept := by simp only [State.acceptPacket]; (repeat' split) <;> simp [*]

@[simp ↓] theorem slotBytes_kept (s : State) (r : Nat) (n : Nat) :
    (State.slotBytes s r n).1.kept = (s).kept := by simp only [State.slotBytes]; (repeat' split) <;> ((try simp only [Prod.ext_iff] at *) <;> (repeat cases ‹_ ∧ _›) <;> subst_vars <;> simp [*])

@[simp ↓] theorem serveRing_kept (r : Nat) (a0 : Nat) (a1 : State) :
    (State.serveRing r a0 a1).kept = (a1).kept := by
  induction a0 generalizing r a1 with
  | zero => simp [State.serveRing]
  | succ n ih => simp only [State.serveRing]; (repeat' split) <;> (first | ((try simp only [Prod.ext_iff] at *) <;> (repeat cases ‹_ ∧ _›) <;> subst_vars <;> simp [*]) | (refine (foldl_kept _ ?_ _ _).trans ?_ <;> (intros; (repeat' split) <;> ((try simp only [Prod.ext_iff] at *) <;> (repeat cases ‹_ ∧ _›) <;> subst_vars <;> simp [*]))) | (refine (foldl_kept_pair _ ?_ _ _).trans ?_ <;> (intros; (repeat' split) <;> ((try simp only [Prod.ext_iff] at *) <;> (repeat cases ‹_ ∧ _›) <;> subst_vars <;> simp [*]))))

@[simp ↓] theorem serve_kept (s : State) (r : Nat) :
    (State.serve s r).kept = (s).kept := by simp only [State.serve]; (repeat' split) <;> simp [*]

@[simp ↓] theorem serveI3c_kept (a0 : Nat) (a1 : State) :
    (State.serveI3c a0 a1).kept = (a1).kept := by
  induction a0 generalizing a1 with
  | zero => simp [State.serveI3c]
  | succ n ih => simp only [State.serveI3c]; (repeat' split) <;> simp [*]

@[simp ↓] theorem serveBoard_kept (s : State) :
    (State.serveBoard s).kept = (s).kept := by simp only [State.serveBoard]; (repeat' split) <;> simp [*]

@[simp ↓] theorem ringTail_kept (s : State) (r v : Nat) :
    (State.ringTail s r v).kept = (s).kept := by simp only [State.ringTail]; (repeat' split) <;> simp [*]

@[simp ↓] theorem cplHead_kept (s : State) (r v : Nat) :
    (State.cplHead s r v).kept = (s).kept := by simp only [State.cplHead]; (repeat' split) <;> simp [*]

@[simp ↓] theorem ringSize_kept (s : State) (v : Nat) :
    (State.ringSize s v).kept = (s).kept := by simp only [State.ringSize]; (repeat' split) <;> simp [*]

end Sys2Proof.Machine
end

