-- ==== Sys2Proof/Laws/KeptHeat.lean ====
section
/-!
SUPPORT. The operations of Sys2Proof/Machine/Heat.lean keep `State.kept`.
-/
namespace Sys2Proof.Machine

@[simp ↓] theorem checkFit_kept (s : State) (c : Nat) :
    (State.checkFit s c).kept = (s).kept := by simp only [State.checkFit]; (repeat' split) <;> simp [*]

@[simp ↓] theorem giveEpoch_kept (s : State) (c : Nat) :
  (State.giveEpoch s c).kept = (s).kept := by simp only [State.giveEpoch]; (repeat' split) <;> simp [*]

end Sys2Proof.Machine
end

