-- ==== Sys2Proof/Laws/KeptLanes.lean ====
section
/-!
SUPPORT. The operations of Sys2Proof/Machine/Lanes.lean keep `State.kept`.
-/
namespace Sys2Proof.Machine

@[simp ↓] theorem laneErrors_kept (s : State) (l : Lane) (n : Nat) :
  (State.laneErrors s l n).1.kept = (s).kept := by simp only [State.laneErrors]; (repeat' split) <;> simp [*]

@[simp ↓] theorem mendRegs_kept (s : State) (e : Nat) (p : Nat → Bool) :
  (State.mendRegs s e p).kept = (s).kept := by simp only [State.mendRegs]; (repeat' split) <;> simp [*]

@[simp ↓] theorem mendAcc_kept (s : State) (e : Nat) (ps : List Nat) :
  (State.mendAcc s e ps).kept = (s).kept := by simp only [State.mendAcc]; (repeat' split) <;> simp [*]

@[simp ↓] theorem tqRead_kept (s : State) (l : Lane) (n : Nat) :
    (State.tqRead s l n).1.kept = (s).kept := by unfold State.tqRead; (repeat' (first | split | extract_lets)) <;> (try simp only [Prod.ext_iff] at *) <;> (repeat cases ‹_ ∧ _›) <;> (try subst_vars) <;> simp +zetaDelta [*]

@[simp ↓] theorem countSource_kept (s : State) (l : Lane) (x : Nat) (tq : List SElem) :
    (State.countSource s l x tq).1.kept = (s).kept := by simp only [State.countSource]; (repeat' split) <;> ((try simp only [Prod.ext_iff] at *) <;> (repeat cases ‹_ ∧ _›) <;> subst_vars <;> simp [*])

@[simp ↓] theorem countWrite_kept (s : State) (l : Lane) (rs : List (Option Nat)) :
    (State.countWrite s l rs).1.kept = (s).kept := by simp only [State.countWrite]; (repeat' split) <;> simp [*]

@[simp ↓] theorem tally_kept (s : State) (l : Lane) (c : Tally) :
    (State.tally s l c).kept = (s).kept := by simp only [State.tally]; (repeat' split) <;> simp [*]

@[simp ↓] theorem putStatus_kept (s : State) (l : Lane) (off : Nat) (rs : List (Bool × Bool)) :
    (State.putStatus s l off rs).1.kept = (s).kept := by simp only [State.putStatus]; (repeat' split) <;> simp [*]

@[simp ↓] theorem countSources_kept (l : Lane) (tq : List SElem) (a0 : List Nat) (a1 : State) :
    (State.countSources l tq a0 a1).1.kept = (a1).kept := by
  induction a0 generalizing l tq a1 with
  | nil => simp [State.countSources]
  | cons x l ih => simp only [State.countSources]; (repeat' split) <;> (first | ((try simp only [Prod.ext_iff] at *) <;> (repeat cases ‹_ ∧ _›) <;> subst_vars <;> simp [*]) | (refine (foldl_kept _ ?_ _ _).trans ?_ <;> (intros; (repeat' split) <;> ((try simp only [Prod.ext_iff] at *) <;> (repeat cases ‹_ ∧ _›) <;> subst_vars <;> simp [*]))) | (refine (foldl_kept_pair _ ?_ _ _).trans ?_ <;> (intros; (repeat' split) <;> ((try simp only [Prod.ext_iff] at *) <;> (repeat cases ‹_ ∧ _›) <;> subst_vars <;> simp [*]))))

@[simp ↓] theorem countReduce_kept (s : State) (l : Lane) (es : List SElem) :
  (State.countReduce s l es).1.kept = (s).kept := by simp only [State.countReduce]; (repeat' split) <;> ((try simp only [Prod.ext_iff] at *) <;> (repeat cases ‹_ ∧ _›) <;> (try subst_vars) <;> simp [*])

@[simp ↓] theorem runCount_kept (s : State) (l : Lane) :
  (State.runCount s l).1.kept = (s).kept := by simp only [State.runCount]; (repeat' split) <;> ((try simp only [Prod.ext_iff] at *) <;> (repeat cases ‹_ ∧ _›) <;> (try subst_vars) <;> simp [*])

@[simp ↓] theorem slotElem_kept (s : State) (l : Lane) (sl : Slot) (c : List Nat) :
    (State.slotElem s l sl c).1.kept = (s).kept := by simp only [State.slotElem]; (repeat' split) <;> ((try simp only [Prod.ext_iff] at *) <;> (repeat cases ‹_ ∧ _›) <;> subst_vars <;> simp [*])

@[simp ↓] theorem tensorActive_kept (s : State) (l : Lane) (d : Tensor) (sp : List Nat) (k : Nat) :
    (State.tensorActive s l d sp k).1.kept = (s).kept := by simp only [State.tensorActive]; (repeat' split) <;> ((try simp only [Prod.ext_iff] at *) <;> (repeat cases ‹_ ∧ _›) <;> subst_vars <;> simp [*])

@[simp ↓] theorem tensorSource_kept (s : State) (l : Lane) (d : Tensor) (sp : List Nat) (mode : RMode) (k x : Nat) :
    (State.tensorSource s l d sp mode k x).1.kept = (s).kept := by simp only [State.tensorSource]; (repeat' split) <;> simp [*]

@[simp ↓] theorem tensorSources_kept (s : State) (l : Lane) (d : Tensor) (sp : List Nat) (mode : RMode) (k : Nat) (a0 : List Nat) :
    (State.tensorSources s l d sp mode k a0).1.kept = (s).kept := by
  induction a0 generalizing s with
  | nil => simp [State.tensorSources]
  | cons x l ih =>
    simp only [State.tensorSources]
    (repeat' split) <;> (try simp only [Prod.ext_iff] at *) <;> (repeat cases ‹_ ∧ _›) <;> (try subst_vars) <;> (try simp [*])

@[simp ↓] theorem tensorCond_kept (s : State) (l : Lane) (d : Tensor) (sp : List Nat) (cls : OpCls) (k : Nat) :
    (State.tensorCond s l d sp cls k).1.kept = (s).kept := by simp only [State.tensorCond]; (repeat' split) <;> ((try simp only [Prod.ext_iff] at *) <;> (repeat cases ‹_ ∧ _›) <;> subst_vars <;> simp [*])

@[simp ↓] theorem tensorAt_kept (s : State) (l : Lane) (d : Tensor) (sp : List Nat) (cls : OpCls) (k : Nat) (mode : RMode) :
    (State.tensorAt s l d sp cls k mode).1.kept = (s).kept := by unfold State.tensorAt; (repeat' (first | split | extract_lets)) <;> (try simp only [Prod.ext_iff] at *) <;> (repeat cases ‹_ ∧ _›) <;> (try subst_vars) <;> simp +zetaDelta [*]

@[simp ↓] theorem slotWrite_kept (s : State) (l : Lane) (sl : Slot) (c : List Nat) (bits : Nat) :
    (State.slotWrite s l sl c bits).1.kept = (s).kept := by simp only [State.slotWrite]; (repeat' split) <;> simp [*]

@[simp ↓] theorem blockWrite_kept (s : State) (l : Lane) (sl : Slot) (c0 : List Nat) (rs : List (Option SElem)) (ids : List Bool) :
  (State.blockWrite s l sl c0 rs ids).1.kept = (s).kept := by simp only [State.blockWrite]; (repeat' split) <;> simp [*]

@[simp ↓] theorem groupSources_kept (l : Lane) (d : Tensor) (sp : List Nat) (cls : OpCls) (modeAt : State → Nat → RMode) (a0 : List Nat) (a1 : State) :
    (State.groupSources l d sp cls modeAt a0 a1).1.kept = (a1).kept := by
  induction a0 generalizing l d sp cls modeAt a1 with
  | nil => simp [State.groupSources]
  | cons x l ih => simp only [State.groupSources]; (repeat' split) <;> (first | ((try simp only [Prod.ext_iff] at *) <;> (repeat cases ‹_ ∧ _›) <;> subst_vars <;> simp [*]) | (refine (foldl_kept _ ?_ _ _).trans ?_ <;> (intros; (repeat' split) <;> ((try simp only [Prod.ext_iff] at *) <;> (repeat cases ‹_ ∧ _›) <;> subst_vars <;> simp [*]))) | (refine (foldl_kept_pair _ ?_ _ _).trans ?_ <;> (intros; (repeat' split) <;> ((try simp only [Prod.ext_iff] at *) <;> (repeat cases ‹_ ∧ _›) <;> subst_vars <;> simp [*]))))

@[simp ↓] theorem tensorGroups_kept (l : Lane) (d : Tensor) (sp : List Nat) (cls : OpCls) (a0 : List (List Nat)) (a1 : State) (a2 : Tally) :
    (State.tensorGroups l d sp cls a0 a1 a2).1.kept = (a1).kept := by
  induction a0 generalizing a1 a2 with
  | nil => simp [State.tensorGroups]
  | cons g rest ih =>
    simp only [State.tensorGroups]
    (repeat' split) <;> (try simp only [Prod.ext_iff] at *) <;> (repeat cases ‹_ ∧ _›) <;> (try subst_vars) <;> first | (simp [*]; done) | contradiction | simp_all

@[simp ↓] theorem tensorLine_kept (s : State) (l : Lane) (d : Tensor) (sp : List Nat) (mode : RMode) (base : List Nat) (a0 : List Nat) :
    (State.tensorLine s l d sp mode base a0).1.kept = (s).kept := by
  induction a0 generalizing s with
  | nil => simp [State.tensorLine]
  | cons x rest ih =>
    simp only [State.tensorLine]
    split
    · rename_i h; exact kept_of_eq h (tensorActive_kept ..)
    · rename_i h
      have h1 := kept_of_eq h (tensorActive_kept ..)
      split
      · rename_i h2; exact (kept_of_eq h2 (tensorSources_kept ..)).trans h1
      · rename_i h2
        have h3 := (kept_of_eq h2 (tensorSources_kept ..)).trans h1
        split
        · rename_i h4; exact (kept_of_eq h4 (ih _)).trans h3
        · rename_i h4
          have h5 := (kept_of_eq h4 (ih _)).trans h3
          split <;> exact h5

@[simp ↓] theorem groupLines_kept (l : Lane) (d : Tensor) (sp dsp : List Nat) (src : Slot) (a0 : List Nat) (a1 : State) :
    (State.groupLines l d sp dsp src a0 a1).1.kept = (a1).kept := by
  induction a0 generalizing a1 with
  | nil => simp [State.groupLines]
  | cons x rest ih =>
    simp only [State.groupLines]
    split
    · rename_i h; exact kept_of_eq h (tensorLine_kept ..)
    · rename_i h
      have h1 := kept_of_eq h (tensorLine_kept ..)
      split <;> (rename_i h2; exact (kept_of_eq h2 (ih _)).trans h1)

@[simp ↓] theorem tensorReduce_kept (l : Lane) (d : Tensor) (sp dsp : List Nat) (src dst : Slot) (a0 : List (List Nat)) (a1 : State) (a2 : Tally) (a3 : List (Bool × Bool)) :
    (State.tensorReduce l d sp dsp src dst a0 a1 a2 a3).1.kept = (a1).kept := by
  induction a0 generalizing a1 a2 a3 with
  | nil => simp [State.tensorReduce]
  | cons g rest ih =>
    simp only [State.tensorReduce]
    split
    · rename_i h; exact kept_of_eq h (groupLines_kept ..)
    · rename_i h
      have h1 := kept_of_eq h (groupLines_kept ..)
      (repeat' split) <;> simp [ih, h1]

@[simp ↓] theorem runTensor_kept (s : State) (l : Lane) :
    (State.runTensor s l).1.kept = (s).kept := by
  unfold State.runTensor
  split
  · rfl
  · dsimp only; split <;> simp
  · split
    rename_i h
    have h1 := kept_of_eq h (load_kept ..)
    extract_lets sp
    split
    rename_i h2
    have h3 := (kept_of_eq h2 (laneErrors_kept ..)).trans h1
    extract_lets upTo ends
    split
    · split
      · split
        · exact h3
        · split
          rename_i h4
          have h5 := (kept_of_eq h4 (tensorReduce_kept ..)).trans h3
          extract_lets s2
          have h6 : s2.kept = s.kept := by simp [s2, h5]
          clear_value s2
          split
          · exact h6
          · split <;> (rename_i h7; exact (kept_of_eq h7 (putStatus_kept ..)).trans h6)
      · exact h3
    · split
      rename_i h4
      have h5 := (kept_of_eq h4 (tensorGroups_kept ..)).trans h3
      simp [h5]

end Sys2Proof.Machine
end

