-- ==== Sys2Proof/Laws/KeptVector.lean ====
section
/-!
SUPPORT. The operations of Sys2Proof/Machine/Vector.lean keep `State.kept`.
-/
namespace Sys2Proof.Machine

@[simp ↓] theorem arriveAt_kept (s : State) (u : Nat) (r : Running) (ws : List Nat) (pc : Nat) (loops : List LoopSt) (used : Nat) :
  (State.arriveAt s u r ws pc loops used).kept = (s).kept := by simp only [State.arriveAt]; (repeat' split) <;> simp [*]

@[simp ↓] theorem tqRelease_kept (s : State) (e : Nat) :
    (State.tqRelease s e).kept = (s).kept := by simp only [State.tqRelease]; (repeat' split) <;> simp [*]

@[simp ↓] theorem takeHeader_kept (s : State) (e : Nat) :
    (State.takeHeader s e).1.kept = (s).kept := by simp only [State.takeHeader]; (repeat' split) <;> simp [*]

@[simp ↓] theorem doSetacc_kept (s : State) (e : Nat) (i : Ins) :
    (State.doSetacc s e i).1.kept = (s).kept := by unfold State.doSetacc; (repeat' (first | split | extract_lets)) <;> (try simp only [Prod.ext_iff] at *) <;> (repeat cases ‹_ ∧ _›) <;> (try subst_vars) <;> simp +zetaDelta [*]

@[simp ↓] theorem runControl_kept (s : State) (l : Lane) :
  (State.runControl s l).1.kept = (s).kept := by simp only [State.runControl]; (repeat' split) <;> ((try simp only [Prod.ext_iff] at *) <;> (repeat cases ‹_ ∧ _›) <;> (try subst_vars) <;> simp [*])

@[simp ↓] theorem runIns_kept (s : State) (l : Lane) :
    (State.runIns s l).1.kept = (s).kept := by unfold State.runIns; (repeat' split) <;> simp

@[simp ↓] theorem laneDone_kept (s : State) (u : Nat) (r : Running) (l : Lane) (ws : List Nat) (pc : Nat) (loops : List LoopSt) (used : Nat) (cycles : Nat) (idle : Nat) (passes : Nat) :
  (State.laneDone s u r l ws pc loops used cycles idle passes).kept = (s).kept := by simp only [State.laneDone]; (repeat' split) <;> simp [*]

@[simp ↓] theorem fetchIns_kept (s : State) (e : Nat) (pc : Nat) :
  (State.fetchIns s e pc).1.kept = (s).kept := by simp only [State.fetchIns]; (repeat' split) <;> simp [*]

end Sys2Proof.Machine
end

