-- ==== Sys2Proof/Laws/KeptPour.lean ====
section
/-!
SUPPORT. The operations of Sys2Proof/Machine/Pour.lean keep `State.kept`.
-/
namespace Sys2Proof.Machine

@[simp ↓] theorem noteDesc_kept (s : State) (u va : Nat) :
    (State.noteDesc s u va).kept = (s).kept := by simp only [State.noteDesc]; (repeat' split) <;> simp [*]

@[simp ↓] theorem popHeld_kept (s : State) (u : Nat) :
    (State.popHeld s u).kept = (s).kept := by simp only [State.popHeld]; (repeat' split) <;> simp [*]

@[simp ↓] theorem launch_kept (s : State) (u : Nat) (h : Held) :
    (State.launch s u h).kept = (s).kept := by unfold State.launch; (repeat' (first | split | extract_lets)) <;> (try simp only [Prod.ext_iff] at *) <;> (repeat cases ‹_ ∧ _›) <;> (try subst_vars) <;> simp +zetaDelta [*]

@[simp ↓] theorem tryLaunch_kept (s : State) (u : Nat) :
    (State.tryLaunch s u).kept = (s).kept := by simp only [State.tryLaunch]; (repeat' split) <;> simp [*]

@[simp ↓] theorem dropHeldPour_kept (s : State) (u : Nat) (h : Held) :
  (State.dropHeldPour s u h).kept = (s).kept := by simp only [State.dropHeldPour]; (repeat' split) <;> simp [*]

end Sys2Proof.Machine
end

