-- ==== Sys2Proof/Laws/KeptSecurity.lean ====
section
/-!
SUPPORT. The operations of Sys2Proof/Machine/Security.lean keep `State.kept`.
-/
namespace Sys2Proof.Machine

@[simp ↓] theorem setSec_kept (s : State) (f : Sec → Sec) :
    (State.setSec s f).kept = (s).kept := by simp only [State.setSec]; (repeat' split) <;> simp [*]

@[simp ↓] theorem imageFails_kept (s : State) (cause status : Nat) :
    (State.imageFails s cause status).kept = (s).kept := by simp only [State.imageFails]; (repeat' split) <;> simp [*]

@[simp ↓] theorem imageStart_kept (s : State) :
    (State.imageStart s).kept = (s).kept := by simp only [State.imageStart]; (repeat' split) <;> simp [*]

@[simp ↓] theorem imageVerify_kept (s : State) :
    (State.imageVerify s).kept = (s).kept := by simp only [State.imageVerify]; (repeat' split) <;> simp [*]

@[simp ↓] theorem imageCommit_kept (s : State) :
    (State.imageCommit s).kept = (s).kept := by simp only [State.imageCommit]; (repeat' split) <;> simp [*]

@[simp ↓] theorem writeImageCtrl_kept (s : State) (v : Nat) :
    (State.writeImageCtrl s v).kept = (s).kept := by simp only [State.writeImageCtrl]; (repeat' split) <;> simp [*]

@[simp ↓] theorem writeExtend_kept (s : State) (v : Nat) :
    (State.writeExtend s v).kept = (s).kept := by simp only [State.writeExtend]; (repeat' split) <;> ((try simp only [Prod.ext_iff] at *) <;> (repeat cases ‹_ ∧ _›) <;> subst_vars <;> simp [*])

@[simp ↓] theorem writeAttest_kept (s : State) (v : Nat) :
    (State.writeAttest s v).kept = (s).kept := by simp only [State.writeAttest]; (repeat' split) <;> simp [*]

@[simp ↓] theorem debugEnds_kept (s : State) (level status : Nat) (late : Bool) :
    (State.debugEnds s level status late).kept = (s).kept := by simp only [State.debugEnds]; (repeat' split) <;> simp [*]

@[simp ↓] theorem settleLoops_kept (s : State) :
  (State.settleLoops s).kept = (s).kept := by simp only [State.settleLoops]; (repeat' split) <;> simp [*]

@[simp ↓] theorem writeDftMode_kept (s : State) (die v : Nat) :
    (State.writeDftMode s die v).kept = (s).kept := by simp only [State.writeDftMode]; (repeat' split) <;> simp [*]

end Sys2Proof.Machine
end

