-- ==== Sys2Proof/Laws/KeptRegFile.lean ====
section
/-!
SUPPORT. The operations of Sys2Proof/Machine/RegFile.lean keep `State.kept`.
-/
namespace Sys2Proof.Machine

@[simp ↓] theorem fqRelease_kept (s : State) (die n : Nat) :
    (State.fqRelease s die n).kept = (s).kept := by simp only [State.fqRelease]; (repeat' split) <;> simp [*]

@[simp ↓] theorem recLost_kept (s : State) (die n : Nat) :
    (State.recLost s die n).kept = (s).kept := by simp only [State.recLost]; (repeat' split) <;> simp [*]

@[simp ↓] theorem recCheck_kept (die : Nat) (a0 : Nat) (a1 : State) :
    (State.recCheck die a0 a1).kept = (a1).kept := by
  induction a0 generalizing die a1 with
  | zero => simp [State.recCheck]
  | succ n ih => simp only [State.recCheck]; (repeat' split) <;> simp [*]

@[simp ↓] theorem readPlain_kept (s : State) (x : RegRef) :
    (State.readPlain s x).1.kept = (s).kept := by simp only [State.readPlain]; (repeat' split) <;> simp [*]

@[simp ↓] theorem mdpError_kept (s : State) (src code : Nat) :
    (State.mdpError s src code).kept = (s).kept := by simp only [State.mdpError]; (repeat' split) <;> simp [*]

@[simp ↓] theorem mdpGet_kept (s : State) (src a n : Nat) (host : State → State × Nat) (h : ∀ s, (host s).1.kept = s.kept) :
    (State.mdpGet s src a n host).1.kept = (s).kept := by
  simp only [State.mdpGet]
  split
  · simp
  · split
    · split <;> (try split) <;> simp [h]
    · split <;> (rename_i h1; simp [kept_of_eq h1 (load_kept ..)])

@[simp ↓] theorem hAdvance_kept (s : State) :
    (State.hAdvance s).kept = (s).kept := by simp only [State.hAdvance]; (repeat' split) <;> simp [*]

@[simp ↓] theorem hRead_kept (s : State) : (State.hRead s).1.kept = (s).kept := by
  simp only [State.hRead]
  split
  · rw [hAdvance_kept, mdpGet_kept]
    intro s; simp
  · simp

@[simp ↓] theorem mdpWord_kept (s : State) (src a n : Nat) : (State.mdpWord s src a n).1.kept = (s).kept := by
  rw [State.mdpWord, mdpGet_kept _ _ _ _ _ hRead_kept]

@[simp ↓] theorem hWrite_kept (s : State) (v : Nat) :
    (State.hWrite s v).kept = (s).kept := by simp only [State.hWrite]; (repeat' split) <;> simp [*]

@[simp ↓] theorem readReg_kept (s : State) (x : RegRef) :
    (State.readReg s x).1.kept = (s).kept := by simp only [State.readReg]; (repeat' split) <;> simp [*]

@[simp ↓] theorem writeNotify_kept (s : State) (die v : Nat) :
    (State.writeNotify s die v).kept = (s).kept := by simp only [State.writeNotify]; (repeat' split) <;> simp [*]

@[simp ↓] theorem writeInject_kept (s : State) (die v : Nat) :
    (State.writeInject s die v).kept = (s).kept := by simp only [State.writeInject]; (repeat' split) <;> simp [*]

@[simp ↓] theorem writeMdpStatus_kept (s : State) (v : Nat) :
    (State.writeMdpStatus s v).kept = (s).kept := by simp only [State.writeMdpStatus]; (repeat' split) <;> simp [*]

@[simp ↓] theorem clearCounter_kept (s : State) (x : RegRef) (v : Nat) :
    (State.clearCounter s x v).kept = (s).kept := by simp only [State.clearCounter]; (repeat' split) <;> simp [*]

@[simp ↓] theorem ringBase_kept (s : State) (r v : Nat) (cpl : Bool) :
    (State.ringBase s r v cpl).kept = (s).kept := by simp only [State.ringBase]; (repeat' split) <;> simp [*]

@[simp ↓] theorem recordArrives_kept (s : State) (r : FaultIn) :
  (State.recordArrives s r).kept = (s).kept := by simp only [State.recordArrives]; (repeat' split) <;> simp [*]

end Sys2Proof.Machine
end

