-- ==== Sys2Proof/Laws/KeptHome.lean ====
section
/-!
SUPPORT. The operations of Sys2Proof/Machine/Home.lean keep `State.kept`.
-/
namespace Sys2Proof.Machine

@[simp ↓] theorem refuse_kept (s : State) (port : Nat) (k : Pkt) :
    (State.refuse s port k).kept = (s).kept := by simp only [State.refuse]; (repeat' split) <;> simp [*]

@[simp ↓] theorem serveReq_kept (s : State) (port typ need : Nat) (pkt : List Byte) (form : Pkt → Bool) (body : State → Pkt → State) (h0 : ∀ s v0, (body s v0).kept = (s).kept) :
    (State.serveReq s port typ need pkt form body).kept = (s).kept := by simp only [State.serveReq]; (repeat' split) <;> ((try simp only [Prod.ext_iff] at *) <;> (repeat cases ‹_ ∧ _›) <;> subst_vars <;> simp [*])

@[simp ↓] theorem serveRead_kept (s : State) (port : Nat) (k : Pkt) :
    (State.serveRead s port k).kept = (s).kept := by simp only [State.serveRead]; (repeat' split) <;> ((try simp only [Prod.ext_iff] at *) <;> (repeat cases ‹_ ∧ _›) <;> subst_vars <;> simp [*])

@[simp ↓] theorem serveMasked_kept (s : State) (port : Nat) (k : Pkt) :
    (State.serveMasked s port k).kept = (s).kept := by simp only [State.serveMasked]; (repeat' split) <;> simp [*]

@[simp ↓] theorem serveAtomic_kept (s : State) (port : Nat) (k : Pkt) :
    (State.serveAtomic s port k).kept = (s).kept := by simp only [State.serveAtomic]; (repeat' split) <;> ((try simp only [Prod.ext_iff] at *) <;> (repeat cases ‹_ ∧ _›) <;> subst_vars <;> simp [*])

@[simp ↓] theorem serveArrival_kept (s : State) (port : Nat) (k : Pkt) :
    (State.serveArrival s port k).kept = (s).kept := by simp only [State.serveArrival]; (repeat' split) <;> simp [*]

end Sys2Proof.Machine
end

