-- ==== Sys2Proof/Laws/KeptMgmt.lean ====
section
/-!
SUPPORT. The operations of Sys2Proof/Machine/Mgmt.lean keep `State.kept`.
-/
namespace Sys2Proof.Machine

@[simp ↓] theorem returns_kept (s : State) (bs : List Byte) :
    (State.returns s bs).kept = (s).kept := by simp only [State.returns]; (repeat' split) <;> simp [*]

@[simp ↓] theorem noAnswer_kept (s : State) :
    (State.noAnswer s).kept = (s).kept := by simp only [State.noAnswer]; (repeat' split) <;> simp [*]

@[simp ↓] theorem qAdvance_kept (s : State) (n : Nat) :
    (State.qAdvance s n).kept = (s).kept := by simp only [State.qAdvance]; (repeat' split) <;> simp [*]

@[simp ↓] theorem mdpPiece_kept (s : State) (a n : Nat) :
    (State.mdpPiece s a n).1.kept = (s).kept := by simp only [State.mdpPiece]; (repeat' split) <;> ((try simp only [Prod.ext_iff] at *) <;> (repeat cases ‹_ ∧ _›) <;> subst_vars <;> simp [*])

@[simp ↓] theorem mdpRead_kept (a0 : List (Nat × Nat)) (a1 : State) (a2 : List Byte) :
    (State.mdpRead a0 a1 a2).1.kept = (a1).kept := by
  induction a0 generalizing a1 a2 with
  | nil => simp [State.mdpRead]
  | cons x l ih => simp only [State.mdpRead]; (repeat' split) <;> simp [*]

end Sys2Proof.Machine
end

