-- ==== Sys2Proof/Laws/Before.lean ====
section
/-!
SUPPORT. The operations that move the clocks, the fuses or the flash only go forward (`State.Before`).
-/
namespace Sys2Proof.Machine


/-- `t` is `s` or later: the same commands wait, AON has not gone back, and no fuse has been cleared. -/
structure State.Before (s t : State) : Prop where
  pending : t.pending = s.pending
  aon : s.aon ≤ t.aon
  svnMin : s.svnMin ≤ t.svnMin
  revoked : ∀ i < 8, bitOf s.revoked i = true → bitOf t.revoked i = true


theorem State.Before.refl (s : State) : s.Before s := ⟨rfl, le_rfl, le_rfl, fun _ _ h => h⟩

theorem State.Before.trans {s t u : State} (h : s.Before t) (k : t.Before u) : s.Before u :=
  ⟨k.pending.trans h.pending, h.aon.trans k.aon, h.svnMin.trans k.svnMin, fun i hi hb => k.revoked i hi (h.revoked i hi hb)⟩

theorem State.Before.of_kept {s t : State} (h : t.kept = s.kept) : s.Before t := by
  have e1 := congrArg Kept.pending h
  have e2 := congrArg Kept.aon h
  have e3 := congrArg Kept.svnMin h
  have e4 := congrArg Kept.revoked h
  simp only [State.kept] at e1 e2 e3 e4
  exact ⟨e1, e2.ge, e3.ge, fun i _ hb => by rw [e4]; exact hb⟩

/-- An operation that keeps all, after one that goes forward. -/
theorem State.Before.then_kept {s t u : State} (h : s.Before t) (k : u.kept = t.kept) : s.Before u := h.trans (.of_kept k)


theorem before_stepFt (s : State) (v : Nat) : s.Before (s.stepFt v) := by
  unfold State.stepFt
  extract_lets moved u
  refine State.Before.trans (t := ({ s with ft := v, ftu := u } : State)) ⟨rfl, le_rfl, le_rfl, fun _ _ h => h⟩ (.of_kept ?_)
  exact foldl_kept _ (fun s c => by simp) _ _

theorem before_advance (s : State) (t : Nat) : s.Before (s.advance t) := by
  unfold State.advance
  split
  · exact .refl s
  · exact ⟨rfl, Nat.le_add_right _ _, le_rfl, fun _ _ h => h⟩

theorem before_advanceAon (s : State) (t : Nat) : s.Before (s.advanceAon t) := by
  unfold State.advanceAon
  split
  · exact .refl s
  · exact ⟨rfl, by simp; omega, le_rfl, fun _ _ h => h⟩

theorem before_program (s : State) (n len : Nat) : s.Before (s.program n len) := ⟨rfl, le_rfl, le_rfl, fun _ _ h => h⟩

theorem before_cutProgram (s : State) : s.Before s.cutProgram := by
  unfold State.cutProgram
  split
  · exact .refl s
  · have h : (s.free (max (s.reg .SEC_IMAGE_LEN 0 0) 1)).2.kept = s.kept := by simp
    exact (State.Before.of_kept h).trans (before_program _ _ _)

theorem bitOf_foldl (l : List Nat) (v i : Nat) : bitOf (l.foldl (fun v i => v ||| 2 ^ i) v) i = (bitOf v i || l.contains i) := by
  induction l generalizing v with
  | nil => simp
  | cons a l ih =>
    simp only [List.foldl_cons, ih, List.contains_cons]
    simp only [bitOf, Nat.testBit_or, Nat.testBit_two_pow]
    by_cases h : a = i
    · simp [h]
    · have h' : (i == a) = false := by simp [Ne.symm h]
      simp [h, h']

theorem bitOf_bitsAt (l : List Nat) (i : Nat) : bitOf (bitsAt l) i = l.contains i := by
  rw [bitsAt, bitOf_foldl]; simp [bitOf]

theorem before_endBurn (s : State) : s.Before s.endBurn := by
  have hb : ∀ i < 8, bitOf s.revoked i = true → bitOf s.burnt.2 i = true := fun i hi h => by
    unfold State.burnt
    dsimp only
    simp [bitOf_bitsAt, hi, h]
  have hm : s.svnMin ≤ s.burnt.1 := by
    unfold State.burnt
    dsimp only; split <;> omega
  unfold State.endBurn
  split
  · exact .refl s
  · dsimp -zeta only
    split
    · exact ⟨rfl, le_rfl, hm, hb⟩
    · refine ⟨rfl, le_rfl, Nat.le_add_right _ _, fun i hi h => ?_⟩
      dsimp only
      rw [bitOf_bitsAt]
      simp [hi, h, State.free]

theorem before_packageReset (s : State) (trip : Nat) : s.Before (s.packageReset trip) := by
  unfold State.packageReset
  refine ((before_cutProgram s).trans (before_endBurn _)).trans ?_
  extract_lets s1 p r0 r
  exact State.Before.then_kept (t := r) ⟨rfl, le_rfl, le_rfl, fun _ _ h => h⟩ (by simp)

theorem before_thermalTrip (s : State) (a b c : Nat) : s.Before (s.thermalTrip a b c) := by
  unfold State.thermalTrip
  extract_lets keep r0 p r r2
  exact State.Before.then_kept (t := r2) ⟨rfl, le_rfl, le_rfl, fun _ _ h => h⟩ (setReg_kept _ _ _ _ _)

theorem before_bootBegins (s : State) : s.Before s.bootBegins := by
  unfold State.bootBegins
  split
  · exact .refl s
  · extract_lets a b p s1
    exact State.Before.then_kept (t := s1) ⟨rfl, le_rfl, le_rfl, fun _ _ h => h⟩ (by simp)

theorem before_hcxRequest (s : State) : s.Before s.hcxRequest := by
  unfold State.hcxRequest
  (repeat' split)
  · exact .refl s
  · exact ⟨rfl, le_rfl, le_rfl, fun _ _ h => h⟩
  · exact before_packageReset _ _
  · refine .of_kept ?_
    simp

theorem before_writeHcxReset (s : State) (v : Nat) : s.Before (s.writeHcxReset v) := by
  unfold State.writeHcxReset
  split
  · exact before_hcxRequest s
  · exact .refl s

theorem before_stageTimeout (s : State) : s.Before s.stageTimeout := by
  unfold State.stageTimeout
  extract_lets
  (repeat' split) <;> refine .of_kept ?_ <;> (try (rename_i h; have h := congrArg (fun p => p.2.kept) h; simp at h)) <;> simp +zetaDelta [*]

theorem before_atStage (s : State) (t stage : Nat) (body : State → State) (h : ∀ s : State, s.Before (body s)) : s.Before (s.atStage t stage body) := by
  unfold State.atStage
  refine ((before_advanceAon s t).trans (before_bootBegins _)).trans ?_
  extract_lets s1
  (repeat' split)
  · exact .refl _
  · exact before_stageTimeout _
  · exact h _

theorem before_acquire (s : State) (v : Nat) (b : Bool) : s.Before (s.acquire v b) := by
  unfold State.acquire
  extract_lets s1 off
  have h : s.Before s1 := by
    simp only [s1]; split
    · exact .refl s
    · exact before_stepFt _ _
  exact h.then_kept (by simp)

theorem before_writeFtCtrl (s : State) (v : Nat) : s.Before (s.writeFtCtrl v) := by
  unfold State.writeFtCtrl
  extract_lets old src keep fields s1
  have h : s.Before s1 := .of_kept (by simp [s1])
  clear_value s1
  split
  · exact h
  · split
    · refine State.Before.trans ?_ (before_acquire _ _ _)
      exact h.then_kept (by simp)
    · exact h.then_kept (by simp)

theorem before_loadPorts (s : State) : s.Before s.loadPorts := by
  unfold State.loadPorts
  extract_lets b s1 s2
  have h : s.Before s1 := .of_kept (by simp [s1])
  have h2 : s.Before s2 := by
    refine State.Before.trans ?_ (before_writeFtCtrl _ _)
    exact h.then_kept (by simp)
  exact h2.then_kept ((foldl_kept _ (fun s d => notePorts_kept s d) _ _).trans rfl)

theorem before_writeReg (s : State) (x : RegRef) (v : Nat) : s.Before (s.writeReg x v) := by
  unfold State.writeReg
  extract_lets i d k
  split
  · exact before_writeFtCtrl _ _
  all_goals try exact before_writeHcxReset _ _
  all_goals refine .of_kept ?_
  all_goals try (simp; done)
  all_goals split
  all_goals try (simp; done)
  all_goals split
  all_goals simp

theorem before_serveWrite (s : State) (port : Nat) (k : Pkt) : s.Before (s.serveWrite port k) := by
  unfold State.serveWrite
  (repeat' split)
  · exact .of_kept (by simp)
  · exact (before_writeReg s _ _).then_kept (answer_kept _ _ _ _ _ _)
  · exact .refl s
  · exact .of_kept (by simp)

theorem before_applyEntry (s : State) (e : QEntry) : s.Before (s.applyEntry e) := by
  unfold State.applyEntry
  extract_lets bs st s1
  have h : s.Before s1 := .of_kept (by simp [s1])
  clear_value s1
  refine h.trans ?_
  (repeat' split)
  · exact .of_kept (by simp)
  · exact .of_kept (by simp)
  · exact .refl _
  · exact before_writeReg _ _ _
  · exact .of_kept (by simp)
  · rename_i h; have h := congrArg (fun p => p.1.kept) h; simp at h; exact .of_kept h.symm
  · rename_i h; have h := congrArg (fun p => p.1.kept) h; simp at h; exact .of_kept (by simp [h])

theorem before_applyNext (s : State) : s.Before s.applyNext := by
  unfold State.applyNext
  split
  · exact .refl s
  · exact State.Before.trans (.of_kept (by simp)) (before_applyEntry _ _)

theorem before_applyAll (k : Nat) (s : State) : s.Before (State.applyAll k s) := by
  induction k generalizing s with
  | zero => exact .refl s
  | succ k ih => exact (before_applyNext s).trans (ih _)

theorem before_vecRow (s : State) (op t e : Nat) : s.Before (s.vecRow op t e) := by
  unfold State.vecRow
  refine (before_advance s t).trans ?_
  generalize s.advance t = s
  refine .of_kept ?_
  extract_lets
  (repeat' (first | split | extract_lets)) <;> (try simp only [Prod.ext_iff] at *) <;> (repeat cases ‹_ ∧ _›) <;> (try subst_vars) <;> (try simp +zetaDelta [*])

theorem before_idle (s : State) : s.Before s.idle := by
  unfold State.idle
  exact (before_advanceAon s (s.aon + 1)).then_kept (by simp)

theorem before_receive {s s' : State} {k : MsgKind} {core ln : Nat} {m : CohMsg} (h : s.receive k core ln = some (m, s')) :
    s.Before s' := .of_kept (receive_kept _ _ _ _ _ _ h)

theorem before_pins (s : State) (p : Pins) : s.Before { s with pins := p } := ⟨rfl, le_rfl, le_rfl, fun _ _ h => h⟩

theorem before_resp (s : State) (p : Resp) : s.Before { s with resp := p } := ⟨rfl, le_rfl, le_rfl, fun _ _ h => h⟩

theorem before_ccc (s : State) (t : Nat) (f : State → State) (h : ∀ s : State, s.Before (f s)) : s.Before (s.ccc t f) := by
  unfold State.ccc
  refine ((before_advance s t).then_kept (u := (s.advance t).noAnswer) (by simp)).trans ?_
  extract_lets s1
  split
  · exact h _
  · exact .refl _

theorem before_qspi (s : State) (t : Nat) (f : State → State) (h : ∀ s : State, s.Before (f s)) : s.Before (s.qspi t f) := by
  unfold State.qspi
  refine ((before_advance s t).then_kept (u := (s.advance t).noAnswer) (by simp)).trans ?_
  extract_lets s1
  split
  · exact State.Before.trans (t := s1.count .MDP_Q_TXNS 0 0 1) (.of_kept (count_kept s1 _ _ _ _)) (h _)
  · exact .refl _

theorem before_misprogram (s : State) (n : Nat) : s.Before (s.misprogram n) := by
  unfold State.misprogram
  have h1 : (s.free (max n 1)).2.kept = s.kept := by simp
  have h2 : ((s.free (max n 1)).2.free 255).2.kept = s.kept := by simp
  exact (State.Before.of_kept h2).trans ⟨rfl, le_rfl, le_rfl, fun _ _ h => h⟩

end Sys2Proof.Machine
end

