-- ==== Sys2Proof/Laws/Crypto.lean ====
section
/-!
SUPPORT. The lengths of hashes and of signatures.
-/
namespace Sys2Proof.Machine

@[simp] theorem leBytes_length (n v : Nat) : (leBytes n v).length = n := by
  induction n generalizing v with
  | zero => rfl
  | succ n ih => simp [leBytes, ih]

@[simp] theorem beBytes_length (n v : Nat) : (beBytes n v).length = n := by simp [beBytes]

@[simp] theorem shaFrom_length (i : List Nat) (bs : List Byte) : (shaFrom i bs).length = 64 := by simp [shaFrom]

@[simp] theorem sha384_length (bs : List Byte) : (sha384 bs).length = 48 := by simp [sha384]

@[simp] theorem sha512_length (bs : List Byte) : (sha512 bs).length = 64 := by simp [sha512]

@[simp] theorem sha256_length (bs : List Byte) : (sha256 bs).length = 32 := by simp [sha256]

@[simp] theorem slhF_length (seed : List Byte) (x : Adrs) (m : List Byte) : (slhF seed x m).length = 24 := by simp [slhF]

@[simp] theorem slhT_length (seed : List Byte) (x : Adrs) (m : List Byte) : (slhT seed x m).length = 24 := by simp [slhT]

theorem slhChain_length (seed : List Byte) (x : Adrs) (n i : Nat) (m : List Byte) (h : m.length = 24) : (slhChain seed x n i m).length = 24 := by
  induction n generalizing i m with
  | zero => exact h
  | succ n ih => exact ih _ _ (slhF_length _ _ _)

@[simp] theorem base2b_length (bs : List Byte) (b n : Nat) : (base2b bs b n).length = n := by simp [base2b]

@[simp] theorem wotsDigits_length (m : List Byte) : (wotsDigits m).length = 51 := by simp [wotsDigits]

theorem slhNode_length (seed : List Byte) (x : Adrs) (leaf : Nat → List Byte) (hl : ∀ i, (leaf i).length = 24) (h i : Nat) :
    (slhNode seed x leaf h i).length = 24 := by
  cases h with
  | zero => exact hl i
  | succ h => exact slhT_length _ _ _

/-- Parts of one length, joined. -/
theorem flatMap_length_of {α : Type} (l : List α) (f : α → List Byte) (k : Nat) (h : ∀ x ∈ l, (f x).length = k) :
    (l.flatMap f).length = k * l.length := by
  induction l with
  | nil => simp
  | cons a l ih =>
    rw [List.flatMap_cons, List.length_append, h a (by simp), ih (fun x hx => h x (by simp [hx])), List.length_cons]
    ring

theorem slhPath_length (seed : List Byte) (x : Adrs) (leaf : Nat → List Byte) (hl : ∀ i, (leaf i).length = 24) (n i : Nat) :
    (slhPath seed x leaf n i).flatten.length = 24 * n := by
  unfold slhPath
  rw [← List.flatMap_def, flatMap_length_of _ _ 24 (fun h _ => slhNode_length seed x leaf hl h _), List.length_range]

theorem xmssLeaf_length (seed sk : List Byte) (layer tree i : Nat) : (xmssLeaf seed sk layer tree i).length = 24 := slhT_length _ _ _

theorem xmssSign_length (seed sk : List Byte) (layer tree i : Nat) (m : List Byte) : (xmssSign seed sk layer tree i m).length = 1440 := by
  unfold xmssSign
  rw [List.length_append, slhPath_length _ _ _ (xmssLeaf_length seed sk layer tree), flatMap_length_of _ _ 24]
  · simp
  · exact fun x _ => slhChain_length _ _ _ _ _ (slhF_length _ _ _)

theorem htSign_length (seed sk : List Byte) (n layer tree i : Nat) (m : List Byte) : (htSign seed sk n layer tree i m).length = 1440 * n := by
  induction n generalizing layer tree i m with
  | zero => rfl
  | succ n ih => rw [htSign, List.length_append, xmssSign_length, ih]; ring

theorem forsSign_length (seed sk : List Byte) (tree pair : Nat) (md : List Byte) : (forsSign seed sk tree pair md).length = 6120 := by
  unfold forsSign
  rw [flatMap_length_of _ _ 360]
  · simp
  · intro x _
    have hl : ∀ i, (forsLeaf seed sk tree pair i).length = 24 := fun i => slhF_length _ _ _
    rw [List.length_append, slhPath_length _ _ _ hl, slhSecret, slhF_length]

/-- An SLH-DSA-SHA2-192s signature has 16,224 bytes. -/
theorem slhSign_length (k : SlhKey) (rand msg : List Byte) : (slhSign k rand msg).length = 16224 := by
  unfold slhSign
  extract_lets m r digest
  split
  extract_lets fors
  simp [fors, r, forsSign_length, htSign_length, hmac512]

end Sys2Proof.Machine
end

