-- ==== Sys2Proof/Laws/Load.lean ====
section
/-!
SUPPORT. Reads of memory in which no stored word has an error and nothing of the coherent domain is in between: what they give, and what
they leave alone; a write of whole words; the bytes of a link frame.
-/
namespace Sys2Proof.Machine

/-- A state without its accounts: registers, queues, interrupts, energy, power managers and the self-refresh of stacks. Counting, filing
a fault record, charging energy and waking a stack change nothing of what is left. -/
def State.bare (s : State) : State :=
  { s with regs := [], queues := [], interrupts := [], energy := [], pwr := [], asleep := [], stackUse := [] }

theorem foldl_bare {α : Type} (f : State → α → State) (h : ∀ s x, (f s x).bare = s.bare) (l : List α) (s : State) :
    (l.foldl f s).bare = s.bare := by
  induction l generalizing s with
  | nil => rfl
  | cons a l ih => rw [List.foldl_cons, ih, h]

@[simp] theorem setReg_bare (s : State) (r : Reg) (die slot v : Nat) : (s.setReg r die slot v).bare = s.bare := rfl
@[simp] theorem setQueue_bare (s : State) (q : QueueId) (f : RunQ → RunQ) : (s.setQueue q f).bare = s.bare := rfl
@[simp] theorem setDie_bare (s : State) (d : Nat) (f : DiePwr → DiePwr) : (s.setDie d f).bare = s.bare := rfl

@[simp] theorem notify_bare (s : State) (die : Nat) : (s.notify die).bare = s.bare := by
  simp only [State.notify]; split <;> rfl

@[simp] theorem inject_bare (s : State) (die target index : Nat) : (s.inject die target index).2.bare = s.bare := by
  simp only [State.inject]; split <;> rfl

@[simp] theorem happen_bare (k : Nat) (e : Ev) (s : State) : (s.happen k e).bare = s.bare := by
  induction k generalizing e s with
  | zero => rfl
  | succ k ih => cases e <;> (simp only [State.happen]; (repeat' split) <;> simp [*])

@[simp] theorem count_bare (s : State) (r : Reg) (die slot n : Nat) : (s.count r die slot n).bare = s.bare := happen_bare ..

@[simp] theorem charge_bare (s : State) (die acct cls n : Nat) : (s.charge die acct cls n).bare = s.bare := by
  unfold State.charge
  extract_lets e k old s1 s2 mj
  have h : s2.bare = s.bare := rfl
  split <;> simpa using h

@[simp] theorem countLines_bare (s : State) (write : Bool) (a n : Nat) : (s.countLines write a n).bare = s.bare := by
  unfold State.countLines
  refine foldl_bare _ (fun s ln => ?_) _ _
  split <;> simp

@[simp] theorem touchStack_bare (s : State) (a : Nat) : (s.touchStack a).bare = s.bare := by
  simp only [State.touchStack]
  split
  · split <;> split <;> first | rfl | (simp only [State.bare]; exact (count_bare s .PWR_SR_WAKES _ 0 1))
  · rfl

theorem readable_of_bare {s w : State} (h : w.bare = s.bare) (hs : s.readable) : w.readable := by
  have h1 : w.ecc = s.ecc := show w.bare.ecc = s.bare.ecc by rw [h]
  have h2 : w.wcb = s.wcb := show w.bare.wcb = s.bare.wcb by rw [h]
  have h3 : w.hcx = s.hcx := show w.bare.hcx = s.bare.hcx by rw [h]
  have h4 : w.upsets = s.upsets := show w.bare.upsets = s.bare.upsets by rw [h]
  unfold State.readable
  rw [h1, h2, h3, h4]
  exact hs

theorem peekBytes_of_bare {s w : State} (h : w.bare = s.bare) (a n : Nat) : w.peekBytes a n = s.peekBytes a n := by
  have h1 : w.mem = s.mem := show w.bare.mem = s.bare.mem by rw [h]
  have h2 : w.wcb = s.wcb := show w.bare.wcb = s.bare.wcb by rw [h]
  have h3 : w.hcx = s.hcx := show w.bare.hcx = s.bare.hcx by rw [h]
  have hp : w.peek = s.peek := by
    funext b
    unfold State.peek State.slcLine State.entry State.cell
    rw [h1, h2, h3]
  unfold State.peekBytes
  rw [hp]

theorem lookup_mem {κ α : Type} [DecidableEq κ] (l : List (κ × α)) (k : κ) (w : α) (h : (l.find? (fun e => e.1 = k)).map Prod.snd = some w) :
    ∃ x ∈ l, x.2 = w := by
  obtain ⟨x, hx, rfl⟩ := Option.map_eq_some_iff.1 h
  exact ⟨x, List.mem_of_find?_eq_some hx, rfl⟩

theorem wordErr_readable {s : State} (h : s.readable) (w : Nat) : s.wordErr w = 0 := by
  obtain ⟨he, hw, -, -, -, -, hu⟩ := h
  have h0 : Sparse.at? 0 s.ecc w = 0 := by rw [he]; rfl
  unfold State.wordErr
  split
  · split
    · rw [hu]; rfl
    · split
      · rename_i e hx
        split
        · exact h0
        · obtain ⟨x, hm, rfl⟩ := lookup_mem s.wcb (w / 8) e hx
          rw [hw x hm]; rfl
      · exact h0
  · exact h0

/-- A read of readable memory gives the bytes there, and changes nothing but the accounts. -/
theorem load_readable {s : State} (h : s.readable) (a n : Nat) :
    ∃ w, s.load a n = (w, some (s.peekBytes a n)) ∧ w.bare = s.bare := by
  unfold State.load
  extract_lets s1 s2 corr s3
  have e1 : s1 = s := by
    have hs : ∀ ln, s.snoopRead ln = s := fun ln => by
      unfold State.snoopRead
      rw [if_pos (by simp [h.2.2.1, h.2.2.2.1])]
    simp only [s1]
    split
    · induction linesOf a n with
      | nil => rfl
      | cons x l ih => rw [List.foldl_cons, hs, ih]
    · rfl
  have hf : s.fencedIn false a n = false := by simp [State.fencedIn, State.domainDown, h.2.2.2.2.1, h.2.2.2.2.2.1]
  have c2 : s2.bare = s.bare := by
    refine (foldl_bare _ (fun s x => ?_) _ _).trans (congrArg State.bare e1)
    split
    · rfl
    · simp
  have r2 := readable_of_bare c2 h
  have hc : corr = [] := by
    refine List.filter_eq_nil_iff.2 (fun w _ => ?_)
    rw [wordErr_readable r2]
    decide
  have e3 : s3 = s2 := by simp only [s3, hc, List.foldl_nil]
  have hb : s3.badWord a n = none := by
    unfold State.badWord
    refine List.find?_eq_none.2 (fun w _ => ?_)
    rw [wordErr_readable (e3 ▸ r2)]
    decide
  rw [if_neg (by simp [hf]), hb]
  exact ⟨s3, by rw [peekBytes_of_bare (e3 ▸ c2)], e3 ▸ c2⟩

/-- Reads of several ranges of readable memory give all their bytes. -/
theorem loadEach_readable (n : Nat) (l : List Nat) {s : State} (h : s.readable) :
    ∃ w bs, State.loadEach n l s = (w, some bs) ∧ w.bare = s.bare := by
  induction l generalizing s with
  | nil => exact ⟨s, [], rfl, rfl⟩
  | cons a l ih =>
    obtain ⟨w, hw, cw⟩ := load_readable h a n
    obtain ⟨w', bs, hw', cw'⟩ := ih (readable_of_bare cw h)
    exact ⟨w', leNat (s.peekBytes a n) :: bs, by simp only [State.loadEach, hw, hw'], cw'.trans cw⟩

/-- An operand of a matrix engine in readable memory is read whole. -/
theorem loadOpd_readable {s : State} (h : s.readable) (die : Nat) (o : Opd) (rows n : Nat) :
    ∃ w l, s.loadOpd die o rows n = (w, some l) ∧ w.bare = s.bare := by
  obtain ⟨w, rs, hw, cw⟩ := loadEach_readable (elemBytes o.fmt n) ((List.range rows).map (fun r => wsAt die (o.off + r * o.stride))) h
  obtain ⟨w', sc, hw', cw'⟩ := loadEach_readable (ceilDiv n 32) ((List.range rows).map (fun r => wsAt die (o.soff + r * o.sstride)))
    (readable_of_bare cw h)
  cases hs : o.scaled with
  | false => exact ⟨w, ⟨rs, []⟩, by simp [State.loadOpd, State.loadRows, hw, hs], cw⟩
  | true => exact ⟨w', ⟨rs, sc⟩, by simp [State.loadOpd, State.loadRows, hw, hw', hs], cw'.trans cw⟩

theorem pair_of_snd {α β : Type} {p : α × β} {b : β} (h : p.2 = b) : p = (p.1, b) := by rw [← h]

theorem chRead_readable (ch k : Nat) {s : State} (h : s.readable) (off n : Nat) :
    ∃ w bs, State.chRead ch k off n s = (w, some bs) ∧ w.bare = s.bare := by
  induction k generalizing s off n with
  | zero => exact ⟨s, [], rfl, rfl⟩
  | succ k ih =>
    unfold State.chRead
    split
    · exact ⟨s, [], rfl, rfl⟩
    · obtain ⟨w, hw, cw⟩ := load_readable h (s.channelAddr ch off) (min n (4096 - off % 4096))
      obtain ⟨w', bs, hw', cw'⟩ := ih (readable_of_bare cw h) (off + min n (4096 - off % 4096)) (n - min n (4096 - off % 4096))
      exact ⟨w', s.peekBytes (s.channelAddr ch off) (min n (4096 - off % 4096)) ++ bs, by simp only [hw, hw'], cw'.trans cw⟩

/-- A read inside one page of a channel. -/
theorem chLoad_readable (ch : Nat) {s : State} (h : s.readable) (off n : Nat) (hn : 0 < n) (hp : off % 4096 + n ≤ 4096) :
    ∃ w, s.chLoad ch off n = (w, some (s.peekBytes (s.channelAddr ch off) n)) ∧ w.bare = s.bare := by
  obtain ⟨w, hw, cw⟩ := load_readable h (s.channelAddr ch off) n
  have e : min n (4096 - off % 4096) = n := by omega
  refine ⟨w, ?_, cw⟩
  unfold State.chLoad State.chRead
  rw [if_neg (by omega)]
  simp only [e, hw, Nat.sub_self]
  have z : ∀ k o, State.chRead ch k o 0 w = (w, some []) := fun k o => by cases k <;> rfl
  rw [z]
  simp

theorem wordsLE_length (k n : Nat) (bs : List Byte) : (wordsLE k n bs).length = n := by
  induction n generalizing bs with
  | zero => rfl
  | succ n ih => simp [wordsLE, ih]

theorem readBlock_readable (d : Shard) (ch base b : Nat) (gs : List Nat) {s : State} (h : s.readable) :
    ∃ w l, State.readBlock d ch base b gs s = (w, some l) ∧ w.bare = s.bare ∧ l.length = (gs.map (d.validIn b)).sum := by
  induction gs generalizing s with
  | nil => exact ⟨s, [], rfl, rfl, rfl⟩
  | cons g gs ih =>
    obtain ⟨w, bs, hw, cw⟩ := chRead_readable ch (4 * d.validIn b g / 4096 + 2) h (base + 4096 * b + 128 * g) (4 * d.validIn b g)
    obtain ⟨w', l, hw', cw', hl⟩ := ih (readable_of_bare cw h)
    refine ⟨w', wordsLE 4 (d.validIn b g) bs ++ l, ?_, cw'.trans cw, ?_⟩
    · simp only [State.readBlock, State.chLoad, hw, hw']
    · simp [wordsLE_length, hl]

theorem flat4_length (l : List Nat) : (l.flatMap (leBytes 4)).length = 4 * l.length := by
  have h4 : ∀ n, (leBytes 4 n).length = 4 := fun n => rfl
  induction l with
  | nil => rfl
  | cons a l ih => rw [List.flatMap_cons, List.length_append, ih, h4, List.length_cons]; omega

/-- The arrays of a shard of one block, with full moments. -/
theorem exportArrays_readable (ch : Nat) (d : Shard) {s : State} (h : s.readable) : ∃ w x y z,
    State.exportArrays ch d false [0] s = (w, some (x, y, z)) ∧ w.bare = s.bare ∧
    x.length = 4 * ((List.range (d.groupsOf 0)).map (d.validIn 0)).sum ∧ y.length = x.length ∧ z.length = x.length := by
  obtain ⟨w, lw, hw, cw, nw⟩ := readBlock_readable d ch d.w 0 (List.range (d.groupsOf 0)) h
  obtain ⟨v, lv, hv, cv, nv⟩ := readBlock_readable d ch d.m1 0 (List.range (d.groupsOf 0)) (readable_of_bare cw h)
  obtain ⟨u, lu, hu, cu, nu⟩ := readBlock_readable d ch d.m2 0 (List.range (d.groupsOf 0)) (readable_of_bare (cv.trans cw) h)
  refine ⟨u, lw.flatMap (leBytes 4) ++ [], lv.flatMap (leBytes 4) ++ [], lu.flatMap (leBytes 4) ++ [], ?_, cu.trans (cv.trans cw), ?_, ?_, ?_⟩
  · simp only [State.exportArrays, State.readBlocks, hw, hv, State.readM2, hu, Bool.false_eq_true, if_false]
  · rw [List.append_nil, flat4_length, nw]
  · rw [List.append_nil, List.append_nil, flat4_length, flat4_length, nv, nw]
  · rw [List.append_nil, List.append_nil, flat4_length, flat4_length, nu, nw]

theorem of_bare {s w : State} (h : w.bare = s.bare) : w.ctxs = s.ctxs ∧ w.units = s.units ∧ w.regions = s.regions ∧ w.boot = s.boot :=
  ⟨show w.bare.ctxs = s.bare.ctxs by rw [h], show w.bare.units = s.bare.units by rw [h], show w.bare.regions = s.bare.regions by rw [h],
    show w.bare.boot = s.bare.boot by rw [h]⟩

/-- A write of whole words of the working store is applied. -/
theorem save_whole (s : State) (a : Nat) (bs : List Byte) (h0 : bs.isEmpty = false) (h1 : isTier1 a = false)
    (h : (wordsOf a bs.length).filter (fun w => !(decide (a ≤ w * 8) && decide (w * 8 + 8 ≤ a + bs.length))) = []) : ∃ w, s.save a bs = (w, true) := by
  unfold State.save State.saveWith
  simp only [h0, h1, Bool.false_eq_true, if_false, State.saveWs, State.putWs, h, List.any_nil]
  exact ⟨_, rfl⟩

theorem leNat_leBytes' (k n : Nat) (h : n < 256 ^ k) : leNat (leBytes k n) = n := by
  induction k generalizing n with
  | zero => simp at h; simp [leBytes, leNat, h]
  | succ k ih =>
    have hd : n / 256 < 256 ^ k := Nat.div_lt_of_lt_mul (by rw [Nat.pow_succ] at h; omega)
    rw [leBytes, leNat, ih _ hd, BitVec.toNat_ofNat]
    omega

theorem crc64_lt (bs : List Byte) : crc64 bs < 2 ^ 64 := by
  have inner : ∀ (l : List Nat) (c : Nat), c < 2 ^ 64 → l.foldl (fun c _ =>
      let c' := (c <<< 1) % 2 ^ 64
      if c.testBit 63 then c' ^^^ 0x42F0E1EBA9EA3693 else c') c < 2 ^ 64 := fun l => by
    induction l with
    | nil => exact fun c h => h
    | cons a l ih =>
      intro c _
      refine ih _ ?_
      have hm : (c <<< 1) % 2 ^ 64 < 2 ^ 64 := Nat.mod_lt _ (by decide)
      dsimp only
      split
      · exact Nat.xor_lt_two_pow hm (by decide)
      · exact hm
  have byte : ∀ c (b : Byte), c < 2 ^ 64 → crc64Byte c b < 2 ^ 64 := fun c b h => by
    refine inner _ _ (Nat.xor_lt_two_pow h ?_)
    rw [Nat.shiftLeft_eq]
    have := b.isLt
    omega
  have all : ∀ (l : List Byte) (c : Nat), c < 2 ^ 64 → l.foldl crc64Byte c < 2 ^ 64 := fun l => by
    induction l with
    | nil => exact fun c h => h
    | cons a l ih => exact fun c h => ih _ (byte c a h)
  exact all bs 0 (by decide)

/-- A frame that is built passes its CRC. -/
theorem frameOk_frameBytes (fseq ack kind cvc cunits : Nat) (body : List Byte) (h : body.length ≤ 512) :
    frameOk (frameBytes fseq ack kind cvc cunits body) = true := by
  unfold frameBytes
  extract_lets f
  have hf : f.length = 520 := by
    simp only [f, List.length_append, leBytes_length, List.length_replicate]
    omega
  unfold frameOk fieldAt
  rw [List.take_left' hf, List.drop_left' hf, List.length_append, hf, leBytes_length, List.take_of_length_le (by rw [leBytes_length]),
    leNat_leBytes' 8 _ (crc64_lt f)]
  simp

theorem ethRing_readable {s : State} (h : s.readable) (p k : Nat) (a base n cons : Nat) (e : List Byte)
    (ha : 512 * (s.reg .PORT_ETH_RINGS (p / 2) (p % 2) / 512) + 32 * k = a) (h1 : isTier1 a = true) (he : s.peekBytes a 32 = e)
    (hb : fieldAt e 0 8 = base) (hn : fieldAt e 8 4 = n) (hc : fieldAt e 16 4 = cons) (h2 : isTier1 base = true) (h3 : base % 4096 = 0)
    (h4 : 64 ≤ n) (h5 : n ≤ 65536) : ∃ w, s.ethRing p k = (w, some (a, base, n, cons)) ∧ w.bare = s.bare := by
  obtain ⟨w, hw, cw⟩ := load_readable h a 32
  refine ⟨w, ?_, cw⟩
  unfold State.ethRing
  simp only [ha, h1, Bool.true_or, Bool.not_true, Bool.false_eq_true, if_false, hw, he, hb, hn, hc, h2, h3, h4, h5, beq_self_eq_true,
    decide_true, Bool.and_self, if_true]

end Sys2Proof.Machine
end

