-- ==== Sys2Proof/Laws/Memory.lean ====
section
/-!
SUPPORT. The sparse map (a write keeps the canonical form; a read after a write) and the memory operations: each keeps the one form
of the memory.
-/
namespace Sys2Proof

namespace Sparse

variable {α : Type} [DecidableEq α]

theorem wfFrom_weaken {d : α} {m : Sparse α} {l k : Option Nat} (h : wfFrom d k m = true)
    (hl : ∀ a, l = some a → ∃ b, k = some b ∧ a ≤ b) : wfFrom d l m = true := by
  cases m with
  | nil => rfl
  | cons e m =>
    obtain ⟨k', v⟩ := e
    simp only [wfFrom, Bool.and_eq_true, decide_eq_true_eq] at h ⊢
    refine ⟨⟨?_, h.1.2⟩, h.2⟩
    cases l with
    | none => rfl
    | some a =>
      obtain ⟨b, rfl, hab⟩ := hl a rfl
      have := h.1.1
      simp only [decide_eq_true_eq] at this ⊢
      omega

theorem wfFrom_del {d : α} {m : Sparse α} {l : Option Nat} (k : Nat) (h : wfFrom d l m = true) : wfFrom d l (del m k) = true := by
  induction m generalizing l with
  | nil => rfl
  | cons e m ih =>
    obtain ⟨k', v⟩ := e
    have h' := h
    simp only [wfFrom, Bool.and_eq_true, decide_eq_true_eq] at h'
    simp only [del]
    split
    · refine wfFrom_weaken h'.2 ?_
      rintro a rfl
      have := h'.1.1
      simp only [decide_eq_true_eq] at this
      exact ⟨k', rfl, by omega⟩
    · split
      · exact h
      · simp only [wfFrom, Bool.and_eq_true, decide_eq_true_eq]
        exact ⟨h'.1, ih h'.2⟩

theorem below_lo {l : Option Nat} {k : Nat} : (∀ a, l = some a → a < k) →
    (match l with | none => true | some a => decide (a < k) : Bool) = true := by
  intro hl
  cases l with
  | none => rfl
  | some a => simpa using hl a rfl

theorem wfFrom_ins {d : α} {m : Sparse α} {l : Option Nat} {k : Nat} {v : α} (hv : v ≠ d) (hl : ∀ a, l = some a → a < k)
    (h : wfFrom d l m = true) : wfFrom d l (ins m k v) = true := by
  induction m generalizing l with
  | nil =>
    simp only [ins, wfFrom, Bool.and_eq_true, decide_eq_true_eq]
    exact ⟨⟨below_lo hl, hv⟩, trivial⟩
  | cons e m ih =>
    obtain ⟨k', v'⟩ := e
    have h' := h
    have hk := below_lo hl
    simp only [wfFrom, Bool.and_eq_true, decide_eq_true_eq] at h'
    simp only [ins]
    split
    · subst k'
      simp only [wfFrom, Bool.and_eq_true, decide_eq_true_eq]
      exact ⟨⟨hk, hv⟩, h'.2⟩
    · split
      · simp only [wfFrom, Bool.and_eq_true, decide_eq_true_eq]
        exact ⟨⟨hk, hv⟩, ⟨by assumption, h'.1.2⟩, h'.2⟩
      · have hlt : k' < k := by omega
        simp only [wfFrom, Bool.and_eq_true, decide_eq_true_eq]
        exact ⟨h'.1, ih (by rintro a ⟨⟩; exact hlt) h'.2⟩

/-- A write keeps the canonical form. -/
theorem wf_put {d : α} {m : Sparse α} (k : Nat) (v : α) (h : wf d m = true) : wf d (put d m k v) = true := by
  unfold put wf at *
  split
  · exact wfFrom_del k h
  · exact wfFrom_ins (by assumption) (by simp) h

theorem wfFrom_filter {d : α} {m : Sparse α} {l : Option Nat} (p : Nat → Bool) (h : wfFrom d l m = true) :
    wfFrom d l (dropKeys p m) = true := by
  induction m generalizing l with
  | nil => rfl
  | cons e m ih =>
    obtain ⟨k', v⟩ := e
    have h' := h
    simp only [wfFrom, Bool.and_eq_true, decide_eq_true_eq] at h'
    simp only [dropKeys, List.filter_cons]
    split
    · simp only [wfFrom, Bool.and_eq_true, decide_eq_true_eq]
      exact ⟨h'.1, ih h'.2⟩
    · refine ih (wfFrom_weaken h'.2 ?_)
      rintro a rfl
      have := h'.1.1
      simp only [decide_eq_true_eq] at this
      exact ⟨k', rfl, by omega⟩

/-- Dropping keys keeps the canonical form. -/
theorem wf_dropKeys {d : α} {m : Sparse α} (p : Nat → Bool) (h : wf d m = true) : wf d (dropKeys p m) = true := wfFrom_filter p h

theorem at?_of_lt {d : α} {m : Sparse α} {l k : Nat} (h : wfFrom d (some l) m = true) (hk : k ≤ l) : at? d m k = d := by
  cases m with
  | nil => rfl
  | cons e m =>
    obtain ⟨k', v⟩ := e
    simp only [wfFrom, Bool.and_eq_true, decide_eq_true_eq] at h
    simp only [at?]
    rw [if_neg (by omega), if_pos (by omega)]

theorem at?_ins {d : α} (m : Sparse α) (k : Nat) (v : α) (j : Nat) : at? d (ins m k v) j = if j = k then v else at? d m j := by
  induction m with
  | nil => simp only [ins, at?]; split <;> simp
  | cons e m ih =>
    obtain ⟨k', v'⟩ := e
    simp only [ins]
    split
    · subst k'
      simp only [at?]
      split <;> rfl
    · split
      · simp only [at?]
        split
        · rfl
        · split
          · rw [if_neg (by omega), if_pos (by omega)]
          · rfl
      · simp only [at?, ih]
        split
        · rw [if_neg (by omega)]
        · split
          · rw [if_neg (by omega)]
          · rfl

theorem at?_del {d : α} {m : Sparse α} {l : Option Nat} (k j : Nat) (h : wfFrom d l m = true) :
    at? d (del m k) j = if j = k then d else at? d m j := by
  induction m generalizing l with
  | nil => simp [del, at?]
  | cons e m ih =>
    obtain ⟨k', v'⟩ := e
    simp only [wfFrom, Bool.and_eq_true, decide_eq_true_eq] at h
    simp only [del]
    split
    · subst k'
      split
      · exact at?_of_lt h.2 (by omega)
      · simp only [at?]
        rw [if_neg (by omega)]
        split
        · exact at?_of_lt h.2 (by omega)
        · rfl
    · split
      · split
        · subst j; simp only [at?]; rw [if_neg (by omega), if_pos (by omega)]
        · rfl
      · simp only [at?, ih h.2]
        split
        · rw [if_neg (by omega)]
        · split
          · simp
          · rfl

/-- A read after a write: the written key gives the value written, every other key what it gave before. -/
theorem at?_put {d : α} {m : Sparse α} (k : Nat) (v : α) (j : Nat) (h : wf d m = true) :
    at? d (put d m k v) j = if j = k then v else at? d m j := by
  unfold put
  split
  · subst v; exact at?_del k j h
  · exact at?_ins m k v j

end Sparse

namespace Machine

theorem foldl_mem {α : Type} (f : State → α → State) (h : ∀ s x, (f s x).mem = s.mem) (l : List α) (s : State) :
    (l.foldl f s).mem = s.mem := by
  induction l generalizing s with
  | nil => rfl
  | cons a l ih => rw [List.foldl_cons, ih, h]

@[simp] theorem setCtx_mem (s : State) (c : Nat) (f : Ctx → Ctx) :
    (State.setCtx s c f).mem = (s).mem := by first | rfl | (simp only [State.setCtx]; (repeat' split) <;> simp [*])

@[simp] theorem setUnit_mem (s : State) (u : Nat) (f : UnitSt → UnitSt) :
    (State.setUnit s u f).mem = (s).mem := by first | rfl | (simp only [State.setUnit]; (repeat' split) <;> simp [*])

@[simp] theorem setQueue_mem (s : State) (q : QueueId) (f : RunQ → RunQ) :
    (State.setQueue s q f).mem = (s).mem := by first | rfl | (simp only [State.setQueue]; (repeat' split) <;> simp [*])

@[simp] theorem setDie_mem (s : State) (d : Nat) (f : DiePwr → DiePwr) :
    (State.setDie s d f).mem = (s).mem := by first | rfl | (simp only [State.setDie]; (repeat' split) <;> simp [*])

@[simp] theorem setRing_mem (s : State) (r : Nat) (f : Ring → Ring) :
    (State.setRing s r f).mem = (s).mem := by first | rfl | (simp only [State.setRing]; (repeat' split) <;> simp [*])

@[simp] theorem setBridge_mem (s : State) (die slot : Nat) (f : BridgeSt → BridgeSt) :
    (State.setBridge s die slot f).mem = (s).mem := by first | rfl | (simp only [State.setBridge]; (repeat' split) <;> simp [*])

@[simp] theorem free_mem (s : State) (bound : Nat) :
    (State.free s bound).2.mem = (s).mem := by first | rfl | (simp only [State.free]; (repeat' split) <;> simp [*])

@[simp] theorem setReg_mem (s : State) (r : Reg) (die slot v : Nat) :
    (State.setReg s r die slot v).mem = (s).mem := by first | rfl | (simp only [State.setReg]; (repeat' split) <;> simp [*])

@[simp] theorem notify_mem (s : State) (die : Nat) :
    (State.notify s die).mem = (s).mem := by first | rfl | (simp only [State.notify]; (repeat' split) <;> simp [*])

@[simp] theorem inject_mem (s : State) (die target index : Nat) :
    (State.inject s die target index).2.mem = (s).mem := by first | rfl | (simp only [State.inject]; (repeat' split) <;> simp [*])

@[simp] theorem happen_mem (a0 : Nat) (a1 : Ev) (a2 : State) :
    (State.happen a0 a1 a2).mem = (a2).mem := by
  induction a0 generalizing a1 a2 with
  | zero => rfl
  | succ k ih => cases a1 <;> (simp only [State.happen]; (repeat' split) <;> simp [*])

@[simp] theorem count_mem (s : State) (r : Reg) (die slot n : Nat) :
    (State.count s r die slot n).mem = (s).mem := by first | rfl | (simp only [State.count]; (repeat' split) <;> simp [*])

@[simp] theorem raise_mem (s : State) (code unit ctx severity address detail : Nat) :
    (State.raise s code unit ctx severity address detail).mem = (s).mem := by first | rfl | (simp only [State.raise]; (repeat' split) <;> simp [*])

@[simp] theorem charge_mem (s : State) (die acct cls n : Nat) :
    (State.charge s die acct cls n).mem = (s).mem := by unfold State.charge; (repeat' (first | split | extract_lets)) <;> (try simp only [Prod.ext_iff] at *) <;> (repeat cases ‹_ ∧ _›) <;> (try subst_vars) <;> simp +zetaDelta [*]

@[simp] theorem countErr_mem (s : State) (corrected : Bool) (a n : Nat) :
    (State.countErr s corrected a n).mem = (s).mem := by first | rfl | (simp only [State.countErr]; (repeat' split) <;> simp [*])

@[simp] theorem touchStack_mem (s : State) (a : Nat) :
    (State.touchStack s a).mem = (s).mem := by first | rfl | (simp only [State.touchStack]; (repeat' split) <;> simp [*])

@[simp] theorem countLines_mem (s : State) (write : Bool) (a n : Nat) :
    (State.countLines s write a n).mem = (s).mem := by
  unfold State.countLines
  refine foldl_mem _ (fun s ln => ?_) _ _
  split <;> simp

@[simp] theorem setEntry_mem (s : State) (ln : Nat) (w : Wcb) :
    (State.setEntry s ln w).mem = (s).mem := by first | rfl | (simp only [State.setEntry]; (repeat' split) <;> simp [*])

@[simp] theorem dropEntry_mem (s : State) (ln : Nat) :
    (State.dropEntry s ln).mem = (s).mem := by first | rfl | (simp only [State.dropEntry]; (repeat' split) <;> simp [*])

@[simp] theorem setHcx_mem (s : State) (f : Hcx → Hcx) :
    (State.setHcx s f).mem = (s).mem := by first | rfl | (simp only [State.setHcx]; (repeat' split) <;> simp [*])

@[simp] theorem setFenced_mem (s : State) :
    (State.setFenced s).mem = (s).mem := by first | rfl | (simp only [State.setFenced]; (repeat' split) <;> simp [*])

@[simp] theorem findError_mem (s : State) (ln : Nat) : (State.findError s ln).mem = s.mem := rfl

@[simp] theorem mendSlc_mem (s : State) (ln : Nat) : (State.mendSlc s ln).mem = s.mem := rfl

@[simp] theorem countCorr_mem (s : State) (w : Nat) : (State.countCorr s w).mem = s.mem := by
  unfold State.countCorr; split <;> simp

@[simp] theorem takeDirty_mem (s : State) (ln : Nat) :
    (State.takeDirty s ln).1.mem = (s).mem := by first | rfl | (simp only [State.takeDirty]; (repeat' split) <;> simp [*])

/-! Each memory operation keeps the one form of the memory. -/

theorem reset_mem_wf : Memory.wf State.reset.mem = true := rfl

theorem storeBytes_wf (bs : List Byte) (m : Sparse Byte) (a : Nat) (h : Memory.wf m = true) :
    Memory.wf (bs.foldl (fun (acc : Sparse Byte × Nat) b => (Sparse.put 0#8 acc.1 acc.2 b, acc.2 + 1)) (m, a)).1 = true := by
  induction bs generalizing m a with
  | nil => exact h
  | cons b bs ih => exact ih _ _ (Sparse.wf_put a b h)

theorem storeCells_wf (s : State) (a : Nat) (bs : List Byte) (h : Memory.wf s.mem = true) : Memory.wf (s.storeCells a bs).mem = true := by
  have h1 := storeBytes_wf bs s.mem a h
  unfold State.storeCells
  extract_lets m e
  split
  extract_lets s2
  split <;> exact h1

theorem toDram_wf (s : State) (ln : Nat) (bs : List Byte) (h : Memory.wf s.mem = true) : Memory.wf (s.toDram ln bs).mem = true := by
  unfold State.toDram
  simpa using storeCells_wf _ _ _ (by simpa using h)

theorem putLine_wf (s : State) (ln : Nat) (bs : List Byte) (h : Memory.wf s.mem = true) : Memory.wf (s.putLine ln bs).mem = true := by
  unfold State.putLine
  split
  · simpa using h
  · exact toDram_wf _ _ _ h

theorem mergeCopy_wf (s : State) (ln : Nat) (bs : List Byte) (h : Memory.wf s.mem = true) : Memory.wf (s.mergeCopy ln bs).mem = true := by
  unfold State.mergeCopy
  split
  · exact putLine_wf _ _ _ h
  · simpa using h

theorem homeWrite_wf (s : State) (ln : Nat) (bs : List Byte) (h : Memory.wf s.mem = true) : Memory.wf (s.homeWrite ln bs).mem = true := by
  unfold State.homeWrite
  split
  · simpa using h
  · exact putLine_wf _ _ _ h

theorem dirty_wf (s : State) (ln : Nat) (d : Option (List Byte)) (h : Memory.wf s.mem = true) :
    Memory.wf (match d with | some b => s.homeWrite ln b | none => s).mem = true := by
  cases d with
  | none => exact h
  | some b => exact homeWrite_wf _ _ _ h

theorem snoopRead_wf (s : State) (ln : Nat) (h : Memory.wf s.mem = true) : Memory.wf (s.snoopRead ln).mem = true := by
  unfold State.snoopRead
  split
  · exact h
  · have h1 : Memory.wf (s.takeDirty ln).1.mem = true := by simpa using h
    revert h1
    generalize s.takeDirty ln = p
    obtain ⟨s1, d⟩ := p
    intro h1
    have h2 := dirty_wf s1 ln d h1
    dsimp only
    revert h2
    generalize (match d with | some b => s1.homeWrite ln b | none => s1) = s2
    intro h2
    (repeat' split) <;> simpa using h2

theorem snoopWrite_wf (s : State) (a : Nat) (bs : List Byte) (h : Memory.wf s.mem = true) : Memory.wf (s.snoopWrite a bs).mem = true := by
  unfold State.snoopWrite
  extract_lets ln part
  split
  · exact h
  · have h1 : Memory.wf (s.takeDirty ln).1.mem = true := by simpa using h
    revert h1
    generalize s.takeDirty ln = p
    obtain ⟨s1, d⟩ := p
    intro h1
    dsimp -zeta only
    extract_lets s2 home n1 s3 granted s4 s5
    have h2 : Memory.wf s2.mem = true := by
      cases d with
      | none => exact h1
      | some b =>
        simp only [s2]
        split
        · exact homeWrite_wf _ _ _ h1
        · exact h1
    have e3 : s3.mem = s2.mem := by simp only [s3]; split <;> simp [n1]
    have h4 : Memory.wf s4.mem = true := by simpa [s4, e3] using h2
    clear_value s4
    split
    · exact h4
    · have h5 : Memory.wf s5.mem = true := by simpa [s5] using h4
      split
      · exact mergeCopy_wf _ _ _ h5
      · exact h5

theorem foldl_wf {α : Type} (f : State → α → State) (h : ∀ s x, Memory.wf s.mem = true → Memory.wf (f s x).mem = true) (l : List α)
    (s : State) (hs : Memory.wf s.mem = true) : Memory.wf (l.foldl f s).mem = true := by
  induction l generalizing s with
  | nil => exact hs
  | cons a l ih => exact ih _ (h _ _ hs)

/-- A read keeps the one form of the memory. -/
theorem load_wf (s : State) (a n : Nat) (h : Memory.wf s.mem = true) : Memory.wf (s.load a n).1.mem = true := by
  unfold State.load
  split
  · simpa using h
  · extract_lets s1 s2 corr s3
    have h1 : Memory.wf s1.mem = true := by
      simp only [s1]
      split
      · exact foldl_wf _ (fun s x h => snoopRead_wf s x h) _ _ h
      · exact h
    have h2 : Memory.wf s2.mem = true := by
      refine foldl_wf _ (fun s x h => ?_) _ _ h1
      split
      · exact h
      · simpa using h
    have h3 : Memory.wf s3.mem = true := foldl_wf _ (fun s x h => by simpa using h) _ _ h2
    split
    · dsimp only
      split <;> simpa using h3
    · exact h3

/-- A merge into an entry leaves the cells. -/
@[simp] theorem mergeWrite_mem (s : State) (a : Nat) (bs : List Byte) (w : Wcb) : (s.mergeWrite a bs w).1.mem = s.mem := by
  unfold State.mergeWrite
  extract_lets ch words whole touched
  split
  · simp
  · simp only [setEntry_mem, inject_mem]
    exact countErr_mem s true a _

@[simp] theorem mergeWaiting_mem (ln : Nat) (l : List (Nat × List Byte)) (s : State) : (State.mergeWaiting ln l s).1.mem = s.mem := by
  induction l generalizing s with
  | nil => rfl
  | cons x l ih =>
    obtain ⟨o, d⟩ := x
    unfold State.mergeWaiting
    split
    · rfl
    · rw [ih, mergeWrite_mem]

theorem finishFill_wf (s : State) (ln : Nat) (h : Memory.wf s.mem = true) : Memory.wf (s.finishFill ln).1.mem = true := by
  unfold State.finishFill
  split
  · exact h
  · split
    · exact h
    · have h1 := load_wf (s.dropEntry ln) (64 * ln) 64 (by simpa using h)
      revert h1
      generalize (s.dropEntry ln).load (64 * ln) 64 = p
      obtain ⟨s1, _ | bs⟩ := p
      · intro h1; exact h1
      · intro h1; simpa using h1

/-- Writing an entry out keeps the one form of the memory, whatever becomes of a line that is lost. -/
theorem writeOut_wf (lost : State → Nat → State) (hl : ∀ s n, Memory.wf s.mem = true → Memory.wf (lost s n).mem = true) (s : State)
    (ln : Nat) (h : Memory.wf s.mem = true) : Memory.wf (State.writeOut lost s ln).mem = true := by
  unfold State.writeOut
  split
  · exact h
  · extract_lets ch bad corr s1 s2 s3
    have h3 : Memory.wf s3.mem = true := by simpa [s3, s2, s1] using h
    split
    · exact hl _ _ (by simpa using h3)
    · exact toDram_wf _ _ _ h3

theorem flushEntry_wf (lost : State → Nat → State) (hl : ∀ s n, Memory.wf s.mem = true → Memory.wf (lost s n).mem = true) (s : State)
    (ln : Nat) (h : Memory.wf s.mem = true) : Memory.wf (State.flushEntry lost s ln).mem = true := by
  have h1 := finishFill_wf s ln h
  unfold State.flushEntry
  revert h1
  generalize s.finishFill ln = p
  obtain ⟨s1, _ | _⟩ := p
  · intro h1; exact h1
  · intro h1; exact writeOut_wf lost hl _ _ h1

theorem makeRoom_wf (lost : State → Nat → State) (hl : ∀ s n, Memory.wf s.mem = true → Memory.wf (lost s n).mem = true) (s : State)
    (ch : Nat) (h : Memory.wf s.mem = true) : Memory.wf (State.makeRoom lost s ch).mem = true := by
  unfold State.makeRoom
  extract_lets es
  (repeat' split)
  · exact h
  · exact h
  · exact flushEntry_wf lost hl _ _ h

theorem copyRoom_wf (lost : State → Nat → State) (hl : ∀ s n, Memory.wf s.mem = true → Memory.wf (lost s n).mem = true) (s : State)
    (a n : Nat) (h : Memory.wf s.mem = true) : Memory.wf (State.copyRoom lost s a n).mem = true := by
  unfold State.copyRoom
  split
  · split
    · exact makeRoom_wf lost hl _ _ h
    · exact h
  · exact h

theorem holdLine_wf (lost : State → Nat → State) (hl : ∀ s n, Memory.wf s.mem = true → Memory.wf (lost s n).mem = true) (s : State)
    (ln ch : Nat) (h : Memory.wf s.mem = true) : Memory.wf (s.holdLine lost ln ch).1.mem = true := by
  unfold State.holdLine
  split
  · exact finishFill_wf _ _ h
  · have hl2 := load_wf _ (64 * ln) 64 (show Memory.wf (s.count .STK_WCB_FILL (ch / 64) (ch % 64) 1).mem = true by simpa using h)
    revert hl2
    generalize (s.count .STK_WCB_FILL (ch / 64) (ch % 64) 1).load (64 * ln) 64 = p
    obtain ⟨s2, _ | line⟩ := p
    · intro hl2; exact hl2
    · intro hl2; simpa using makeRoom_wf lost hl s2 ch hl2

/-- A write of at most one line keeps the one form of the memory. -/
theorem saveLine_wf (lost : State → Nat → State) (hl : ∀ s n, Memory.wf s.mem = true → Memory.wf (lost s n).mem = true) (s : State)
    (a : Nat) (bs : List Byte) (h : Memory.wf s.mem = true) : Memory.wf (State.saveLine lost s a bs).1.mem = true := by
  unfold State.saveLine
  split
  · simpa using h
  · extract_lets s1 ln ch
    have h1 : Memory.wf s1.mem = true := snoopWrite_wf _ _ _ (copyRoom_wf lost hl _ _ _ h)
    clear_value s1
    split
    · split
      · have e : (s1.inject (ch / 64) 2 (ch % 64)).2.mem = s1.mem := by simp
        revert e
        generalize s1.inject (ch / 64) 2 (ch % 64) = p
        obtain ⟨err, s2⟩ := p
        intro e
        simp only [setEntry_mem]
        rw [e]; exact h1
      · exact toDram_wf _ _ _ h1
    · have hg : Memory.wf (s1.holdLine lost ln ch).1.mem = true := holdLine_wf lost hl s1 ln ch h1
      revert hg
      generalize s1.holdLine lost ln ch = p
      obtain ⟨s2, ok⟩ := p
      intro hg
      dsimp only
      split
      · exact hg
      · split
        · simpa using hg
        · exact hg

theorem putWs_wf (s : State) (a : Nat) (bs : List Byte) (h : Memory.wf s.mem = true) : Memory.wf (s.putWs a bs).1.mem = true := by
  unfold State.putWs
  extract_lets whole part s1
  split
  · simpa using h
  · exact storeCells_wf _ _ _ (by simpa [s1] using h)

theorem saveWs_wf (s : State) (a : Nat) (bs : List Byte) (h : Memory.wf s.mem = true) : Memory.wf (s.saveWs a bs).1.mem = true := by
  have h1 := putWs_wf s a bs h
  unfold State.saveWs
  revert h1
  generalize s.putWs a bs = p
  obtain ⟨s1, _ | _⟩ := p
  · intro h1; exact h1
  · intro h1; simpa using h1

/-- A write keeps the one form of the memory. -/
theorem saveWith_wf (lost : State → Nat → State) (hl : ∀ s n, Memory.wf s.mem = true → Memory.wf (lost s n).mem = true) (s : State)
    (a : Nat) (bs : List Byte) (h : Memory.wf s.mem = true) : Memory.wf (State.saveWith lost s a bs).1.mem = true := by
  unfold State.saveWith
  (repeat' split)
  · exact h
  · generalize linePieces a bs = l
    suffices ∀ (b : Bool) (s : State), Memory.wf s.mem = true → Memory.wf (l.foldl (fun (acc : State × Bool) (p : Nat × List Byte) =>
        ((acc.1.saveLine lost p.1 p.2).1, acc.2 && (acc.1.saveLine lost p.1 p.2).2)) (s, b)).1.mem = true from
      this true s h
    induction l with
    | nil => intro b s h; exact h
    | cons p l ih => intro b s h; exact ih _ _ (saveLine_wf lost hl _ _ _ h)
  · exact saveWs_wf _ _ _ h

end Machine

end Sys2Proof
end

