-- ==== Sys2Proof/Laws/Spec.lean ====
section
/-!
SUPPORT. What the shared operations of the boot rows and of the command rows do when the row finds what it needs.
-/
namespace Sys2Proof.Machine

/-- A row of a boot stage carries out its work when its stage is open. -/
theorem atStage_open {s : State} {t k : Nat} (body : State → State) (h : s.stageOpen t k = true) :
    s.atStage t k body = body (s.bootAt t) := by
  simp only [State.stageOpen, Bool.and_eq_true, beq_iff_eq, Bool.not_eq_true', Option.isNone_iff_eq_none] at h
  obtain ⟨⟨⟨h1, h2⟩, h3⟩, h4⟩ := h
  unfold State.atStage
  change (if (s.bootAt t).boot.stage ≠ k || !(s.bootAt t).boot.busy || (s.bootAt t).boot.dbgSince.isSome then s.bootAt t
    else if (s.bootAt t).stageOver then (s.bootAt t).stageTimeout else body (s.bootAt t)) = _
  rw [h1, h2, h3, h4]
  simp

/-- The checks of a command's header read nothing of its ring's positions. -/
theorem headerStatus_setRing (s : State) (r : Nat) (f : Ring → Ring) (c : Cmd) (op : Nat) :
    (s.setRing r f).headerStatus c op = s.headerStatus c op := rfl

/-- A command whose ring is ready and whose header passes enters its ring and does what its opcode says. -/
theorem command_takes {s : State} {c : Cmd} {op : Nat} (body : OutCmd → State → State) (h : s.takes c op = true) :
    s.command c op body = body (s.entered c op).1 (s.entered c op).2 := by
  simp only [State.takes, Bool.and_eq_true, Bool.or_eq_true, beq_iff_eq, Bool.not_eq_true'] at h
  obtain ⟨⟨⟨⟨h1, h2⟩, h3⟩, h4⟩, h6⟩ := h
  revert h6
  unfold State.memoryFails State.entered State.enrolled State.command
  rw [if_neg (by
    rw [h1, h2]
    rcases h3 with h3 | h3
    · simp [h3]
    · simp [h3])]
  unfold State.accept
  by_cases h5 : c.ring = 17
  · intro h6
    simp only [if_pos h5] at h6 ⊢
    simp [h4, h6]
  · intro h6
    simp only [if_neg h5] at h6 ⊢
    simp [headerStatus_setRing, h4, h6]

end Sys2Proof.Machine
end

