-- ==== Sys2Proof/Laws/State.lean ====
section
/-!
SUPPORT. What each update of a part of the state leaves in each field, and what the accessors of the other parts read after it: one lemma
per field and update, true by unfolding, so that no proof unfolds an update of the record.
-/
namespace Sys2Proof.Machine

/-! setReg -/

@[simp] theorem State.setReg_pending (s : State) (r : Reg) (die slot v : Nat) : (s.setReg r die slot v).pending = s.pending := rfl
@[simp] theorem State.setReg_ft (s : State) (r : Reg) (die slot v : Nat) : (s.setReg r die slot v).ft = s.ft := rfl
@[simp] theorem State.setReg_aon (s : State) (r : Reg) (die slot v : Nat) : (s.setReg r die slot v).aon = s.aon := rfl
@[simp] theorem State.setReg_regs (s : State) (r : Reg) (die slot v : Nat) : (s.setReg r die slot v).regs = Sparse.put 0#64 s.regs (regHome r die slot) (BitVec.ofNat 64 v) := rfl
@[simp] theorem State.setReg_mem (s : State) (r : Reg) (die slot v : Nat) : (s.setReg r die slot v).mem = s.mem := rfl
@[simp] theorem State.setReg_ecc (s : State) (r : Reg) (die slot v : Nat) : (s.setReg r die slot v).ecc = s.ecc := rfl
@[simp] theorem State.setReg_upsets (s : State) (r : Reg) (die slot v : Nat) : (s.setReg r die slot v).upsets = s.upsets := rfl
@[simp] theorem State.setReg_wcb (s : State) (r : Reg) (die slot v : Nat) : (s.setReg r die slot v).wcb = s.wcb := rfl
@[simp] theorem State.setReg_failedFills (s : State) (r : Reg) (die slot v : Nat) : (s.setReg r die slot v).failedFills = s.failedFills := rfl
@[simp] theorem State.setReg_clean (s : State) (r : Reg) (die slot v : Nat) : (s.setReg r die slot v).clean = s.clean := rfl
@[simp] theorem State.setReg_flash (s : State) (r : Reg) (die slot v : Nat) : (s.setReg r die slot v).flash = s.flash := rfl
@[simp] theorem State.setReg_queues (s : State) (r : Reg) (die slot v : Nat) : (s.setReg r die slot v).queues = s.queues := rfl
@[simp] theorem State.setReg_units (s : State) (r : Reg) (die slot v : Nat) : (s.setReg r die slot v).units = s.units := rfl
@[simp] theorem State.setReg_engs (s : State) (r : Reg) (die slot v : Nat) : (s.setReg r die slot v).engs = s.engs := rfl
@[simp] theorem State.setReg_ctxs (s : State) (r : Reg) (die slot v : Nat) : (s.setReg r die slot v).ctxs = s.ctxs := rfl
@[simp] theorem State.setReg_rings (s : State) (r : Reg) (die slot v : Nat) : (s.setReg r die slot v).rings = s.rings := rfl
@[simp] theorem State.setReg_tc (s : State) (r : Reg) (die slot v : Nat) : (s.setReg r die slot v).tc = s.tc := rfl
@[simp] theorem State.setReg_invals (s : State) (r : Reg) (die slot v : Nat) : (s.setReg r die slot v).invals = s.invals := rfl
@[simp] theorem State.setReg_pwr (s : State) (r : Reg) (die slot v : Nat) : (s.setReg r die slot v).pwr = s.pwr := rfl
@[simp] theorem State.setReg_energy (s : State) (r : Reg) (die slot v : Nat) : (s.setReg r die slot v).energy = s.energy := rfl
@[simp] theorem State.setReg_energyAt (s : State) (r : Reg) (die slot v : Nat) : (s.setReg r die slot v).energyAt = s.energyAt := rfl
@[simp] theorem State.setReg_energyEnd (s : State) (r : Reg) (die slot v : Nat) : (s.setReg r die slot v).energyEnd = s.energyEnd := rfl
@[simp] theorem State.setReg_asleep (s : State) (r : Reg) (die slot v : Nat) : (s.setReg r die slot v).asleep = s.asleep := rfl
@[simp] theorem State.setReg_stackUse (s : State) (r : Reg) (die slot v : Nat) : (s.setReg r die slot v).stackUse = s.stackUse := rfl
@[simp] theorem State.setReg_boot (s : State) (r : Reg) (die slot v : Nat) : (s.setReg r die slot v).boot = s.boot := rfl
@[simp] theorem State.setReg_sec (s : State) (r : Reg) (die slot v : Nat) : (s.setReg r die slot v).sec = s.sec := rfl
@[simp] theorem State.setReg_pins (s : State) (r : Reg) (die slot v : Nat) : (s.setReg r die slot v).pins = s.pins := rfl
@[simp] theorem State.setReg_mgmt (s : State) (r : Reg) (die slot v : Nat) : (s.setReg r die slot v).mgmt = s.mgmt := rfl
@[simp] theorem State.setReg_svnMin (s : State) (r : Reg) (die slot v : Nat) : (s.setReg r die slot v).svnMin = s.svnMin := rfl
@[simp] theorem State.setReg_revoked (s : State) (r : Reg) (die slot v : Nat) : (s.setReg r die slot v).revoked = s.revoked := rfl
@[simp] theorem State.setReg_bridges (s : State) (r : Reg) (die slot v : Nat) : (s.setReg r die slot v).bridges = s.bridges := rfl
@[simp] theorem State.setReg_ftu (s : State) (r : Reg) (die slot v : Nat) : (s.setReg r die slot v).ftu = s.ftu := rfl
@[simp] theorem State.setReg_ports (s : State) (r : Reg) (die slot v : Nat) : (s.setReg r die slot v).ports = s.ports := rfl
@[simp] theorem State.setReg_routes (s : State) (r : Reg) (die slot v : Nat) : (s.setReg r die slot v).routes = s.routes := rfl
@[simp] theorem State.setReg_bias (s : State) (r : Reg) (die slot v : Nat) : (s.setReg r die slot v).bias = s.bias := rfl
@[simp] theorem State.setReg_hcx (s : State) (r : Reg) (die slot v : Nat) : (s.setReg r die slot v).hcx = s.hcx := rfl
@[simp] theorem State.setReg_tags (s : State) (r : Reg) (die slot v : Nat) : (s.setReg r die slot v).tags = s.tags := rfl
@[simp] theorem State.setReg_nodes (s : State) (r : Reg) (die slot v : Nat) : (s.setReg r die slot v).nodes = s.nodes := rfl
@[simp] theorem State.setReg_rx (s : State) (r : Reg) (die slot v : Nat) : (s.setReg r die slot v).rx = s.rx := rfl
@[simp] theorem State.setReg_regions (s : State) (r : Reg) (die slot v : Nat) : (s.setReg r die slot v).regions = s.regions := rfl
@[simp] theorem State.setReg_uuTables (s : State) (r : Reg) (die slot v : Nat) : (s.setReg r die slot v).uuTables = s.uuTables := rfl
@[simp] theorem State.setReg_cmps (s : State) (r : Reg) (die slot v : Nat) : (s.setReg r die slot v).cmps = s.cmps := rfl
@[simp] theorem State.setReg_exports (s : State) (r : Reg) (die slot v : Nat) : (s.setReg r die slot v).exports = s.exports := rfl
@[simp] theorem State.setReg_interrupts (s : State) (r : Reg) (die slot v : Nat) : (s.setReg r die slot v).interrupts = s.interrupts := rfl
@[simp] theorem State.setReg_resp (s : State) (r : Reg) (die slot v : Nat) : (s.setReg r die slot v).resp = s.resp := rfl
@[simp] theorem State.setReg_freeCount (s : State) (r : Reg) (die slot v : Nat) : (s.setReg r die slot v).freeCount = s.freeCount := rfl
@[simp] theorem State.setReg_ctx (s : State) (r : Reg) (die slot v : Nat) (i : Nat) : (s.setReg r die slot v).ctx i = s.ctx i := rfl
@[simp] theorem State.setReg_unit (s : State) (r : Reg) (die slot v : Nat) (i : Nat) : (s.setReg r die slot v).unit i = s.unit i := rfl
@[simp] theorem State.setReg_eng (s : State) (r : Reg) (die slot v : Nat) (i : Nat) : (s.setReg r die slot v).eng i = s.eng i := rfl
@[simp] theorem State.setReg_queue (s : State) (r : Reg) (die slot v : Nat) (i : QueueId) : (s.setReg r die slot v).queue i = s.queue i := rfl
@[simp] theorem State.setReg_die (s : State) (r : Reg) (die slot v : Nat) (i : Nat) : (s.setReg r die slot v).die i = s.die i := rfl
@[simp] theorem State.setReg_ring (s : State) (r : Reg) (die slot v : Nat) (i : Nat) : (s.setReg r die slot v).ring i = s.ring i := rfl
@[simp] theorem State.setReg_bridge (s : State) (r : Reg) (die slot v : Nat) (i j : Nat) : (s.setReg r die slot v).bridge i j = s.bridge i j := rfl
@[simp] theorem State.setReg_port (s : State) (r : Reg) (die slot v : Nat) (i : Nat) : (s.setReg r die slot v).port i = s.port i := rfl

/-! setCtx -/

@[simp] theorem State.setCtx_pending (s : State) (c : Nat) (f : Ctx → Ctx) : (s.setCtx c f).pending = s.pending := rfl
@[simp] theorem State.setCtx_ft (s : State) (c : Nat) (f : Ctx → Ctx) : (s.setCtx c f).ft = s.ft := rfl
@[simp] theorem State.setCtx_aon (s : State) (c : Nat) (f : Ctx → Ctx) : (s.setCtx c f).aon = s.aon := rfl
@[simp] theorem State.setCtx_regs (s : State) (c : Nat) (f : Ctx → Ctx) : (s.setCtx c f).regs = s.regs := rfl
@[simp] theorem State.setCtx_mem (s : State) (c : Nat) (f : Ctx → Ctx) : (s.setCtx c f).mem = s.mem := rfl
@[simp] theorem State.setCtx_ecc (s : State) (c : Nat) (f : Ctx → Ctx) : (s.setCtx c f).ecc = s.ecc := rfl
@[simp] theorem State.setCtx_upsets (s : State) (c : Nat) (f : Ctx → Ctx) : (s.setCtx c f).upsets = s.upsets := rfl
@[simp] theorem State.setCtx_wcb (s : State) (c : Nat) (f : Ctx → Ctx) : (s.setCtx c f).wcb = s.wcb := rfl
@[simp] theorem State.setCtx_failedFills (s : State) (c : Nat) (f : Ctx → Ctx) : (s.setCtx c f).failedFills = s.failedFills := rfl
@[simp] theorem State.setCtx_clean (s : State) (c : Nat) (f : Ctx → Ctx) : (s.setCtx c f).clean = s.clean := rfl
@[simp] theorem State.setCtx_flash (s : State) (c : Nat) (f : Ctx → Ctx) : (s.setCtx c f).flash = s.flash := rfl
@[simp] theorem State.setCtx_queues (s : State) (c : Nat) (f : Ctx → Ctx) : (s.setCtx c f).queues = s.queues := rfl
@[simp] theorem State.setCtx_units (s : State) (c : Nat) (f : Ctx → Ctx) : (s.setCtx c f).units = s.units := rfl
@[simp] theorem State.setCtx_engs (s : State) (c : Nat) (f : Ctx → Ctx) : (s.setCtx c f).engs = s.engs := rfl
@[simp] theorem State.setCtx_ctxs (s : State) (c : Nat) (f : Ctx → Ctx) : (s.setCtx c f).ctxs = modAt f s.ctxs c := rfl
@[simp] theorem State.setCtx_rings (s : State) (c : Nat) (f : Ctx → Ctx) : (s.setCtx c f).rings = s.rings := rfl
@[simp] theorem State.setCtx_tc (s : State) (c : Nat) (f : Ctx → Ctx) : (s.setCtx c f).tc = s.tc := rfl
@[simp] theorem State.setCtx_invals (s : State) (c : Nat) (f : Ctx → Ctx) : (s.setCtx c f).invals = s.invals := rfl
@[simp] theorem State.setCtx_pwr (s : State) (c : Nat) (f : Ctx → Ctx) : (s.setCtx c f).pwr = s.pwr := rfl
@[simp] theorem State.setCtx_energy (s : State) (c : Nat) (f : Ctx → Ctx) : (s.setCtx c f).energy = s.energy := rfl
@[simp] theorem State.setCtx_energyAt (s : State) (c : Nat) (f : Ctx → Ctx) : (s.setCtx c f).energyAt = s.energyAt := rfl
@[simp] theorem State.setCtx_energyEnd (s : State) (c : Nat) (f : Ctx → Ctx) : (s.setCtx c f).energyEnd = s.energyEnd := rfl
@[simp] theorem State.setCtx_asleep (s : State) (c : Nat) (f : Ctx → Ctx) : (s.setCtx c f).asleep = s.asleep := rfl
@[simp] theorem State.setCtx_stackUse (s : State) (c : Nat) (f : Ctx → Ctx) : (s.setCtx c f).stackUse = s.stackUse := rfl
@[simp] theorem State.setCtx_boot (s : State) (c : Nat) (f : Ctx → Ctx) : (s.setCtx c f).boot = s.boot := rfl
@[simp] theorem State.setCtx_sec (s : State) (c : Nat) (f : Ctx → Ctx) : (s.setCtx c f).sec = s.sec := rfl
@[simp] theorem State.setCtx_pins (s : State) (c : Nat) (f : Ctx → Ctx) : (s.setCtx c f).pins = s.pins := rfl
@[simp] theorem State.setCtx_mgmt (s : State) (c : Nat) (f : Ctx → Ctx) : (s.setCtx c f).mgmt = s.mgmt := rfl
@[simp] theorem State.setCtx_svnMin (s : State) (c : Nat) (f : Ctx → Ctx) : (s.setCtx c f).svnMin = s.svnMin := rfl
@[simp] theorem State.setCtx_revoked (s : State) (c : Nat) (f : Ctx → Ctx) : (s.setCtx c f).revoked = s.revoked := rfl
@[simp] theorem State.setCtx_bridges (s : State) (c : Nat) (f : Ctx → Ctx) : (s.setCtx c f).bridges = s.bridges := rfl
@[simp] theorem State.setCtx_ftu (s : State) (c : Nat) (f : Ctx → Ctx) : (s.setCtx c f).ftu = s.ftu := rfl
@[simp] theorem State.setCtx_ports (s : State) (c : Nat) (f : Ctx → Ctx) : (s.setCtx c f).ports = s.ports := rfl
@[simp] theorem State.setCtx_routes (s : State) (c : Nat) (f : Ctx → Ctx) : (s.setCtx c f).routes = s.routes := rfl
@[simp] theorem State.setCtx_bias (s : State) (c : Nat) (f : Ctx → Ctx) : (s.setCtx c f).bias = s.bias := rfl
@[simp] theorem State.setCtx_hcx (s : State) (c : Nat) (f : Ctx → Ctx) : (s.setCtx c f).hcx = s.hcx := rfl
@[simp] theorem State.setCtx_tags (s : State) (c : Nat) (f : Ctx → Ctx) : (s.setCtx c f).tags = s.tags := rfl
@[simp] theorem State.setCtx_nodes (s : State) (c : Nat) (f : Ctx → Ctx) : (s.setCtx c f).nodes = s.nodes := rfl
@[simp] theorem State.setCtx_rx (s : State) (c : Nat) (f : Ctx → Ctx) : (s.setCtx c f).rx = s.rx := rfl
@[simp] theorem State.setCtx_regions (s : State) (c : Nat) (f : Ctx → Ctx) : (s.setCtx c f).regions = s.regions := rfl
@[simp] theorem State.setCtx_uuTables (s : State) (c : Nat) (f : Ctx → Ctx) : (s.setCtx c f).uuTables = s.uuTables := rfl
@[simp] theorem State.setCtx_cmps (s : State) (c : Nat) (f : Ctx → Ctx) : (s.setCtx c f).cmps = s.cmps := rfl
@[simp] theorem State.setCtx_exports (s : State) (c : Nat) (f : Ctx → Ctx) : (s.setCtx c f).exports = s.exports := rfl
@[simp] theorem State.setCtx_interrupts (s : State) (c : Nat) (f : Ctx → Ctx) : (s.setCtx c f).interrupts = s.interrupts := rfl
@[simp] theorem State.setCtx_resp (s : State) (c : Nat) (f : Ctx → Ctx) : (s.setCtx c f).resp = s.resp := rfl
@[simp] theorem State.setCtx_freeCount (s : State) (c : Nat) (f : Ctx → Ctx) : (s.setCtx c f).freeCount = s.freeCount := rfl
@[simp] theorem State.setCtx_reg (s : State) (c : Nat) (f : Ctx → Ctx) (r' : Reg) (d' k' : Nat) : (s.setCtx c f).reg r' d' k' = s.reg r' d' k' := rfl
@[simp] theorem State.setCtx_unit (s : State) (c : Nat) (f : Ctx → Ctx) (i : Nat) : (s.setCtx c f).unit i = s.unit i := rfl
@[simp] theorem State.setCtx_eng (s : State) (c : Nat) (f : Ctx → Ctx) (i : Nat) : (s.setCtx c f).eng i = s.eng i := rfl
@[simp] theorem State.setCtx_queue (s : State) (c : Nat) (f : Ctx → Ctx) (i : QueueId) : (s.setCtx c f).queue i = s.queue i := rfl
@[simp] theorem State.setCtx_die (s : State) (c : Nat) (f : Ctx → Ctx) (i : Nat) : (s.setCtx c f).die i = s.die i := rfl
@[simp] theorem State.setCtx_ring (s : State) (c : Nat) (f : Ctx → Ctx) (i : Nat) : (s.setCtx c f).ring i = s.ring i := rfl
@[simp] theorem State.setCtx_bridge (s : State) (c : Nat) (f : Ctx → Ctx) (i j : Nat) : (s.setCtx c f).bridge i j = s.bridge i j := rfl
@[simp] theorem State.setCtx_port (s : State) (c : Nat) (f : Ctx → Ctx) (i : Nat) : (s.setCtx c f).port i = s.port i := rfl

/-! setUnit -/

@[simp] theorem State.setUnit_pending (s : State) (u : Nat) (f : UnitSt → UnitSt) : (s.setUnit u f).pending = s.pending := rfl
@[simp] theorem State.setUnit_ft (s : State) (u : Nat) (f : UnitSt → UnitSt) : (s.setUnit u f).ft = s.ft := rfl
@[simp] theorem State.setUnit_aon (s : State) (u : Nat) (f : UnitSt → UnitSt) : (s.setUnit u f).aon = s.aon := rfl
@[simp] theorem State.setUnit_regs (s : State) (u : Nat) (f : UnitSt → UnitSt) : (s.setUnit u f).regs = s.regs := rfl
@[simp] theorem State.setUnit_mem (s : State) (u : Nat) (f : UnitSt → UnitSt) : (s.setUnit u f).mem = s.mem := rfl
@[simp] theorem State.setUnit_ecc (s : State) (u : Nat) (f : UnitSt → UnitSt) : (s.setUnit u f).ecc = s.ecc := rfl
@[simp] theorem State.setUnit_upsets (s : State) (u : Nat) (f : UnitSt → UnitSt) : (s.setUnit u f).upsets = s.upsets := rfl
@[simp] theorem State.setUnit_wcb (s : State) (u : Nat) (f : UnitSt → UnitSt) : (s.setUnit u f).wcb = s.wcb := rfl
@[simp] theorem State.setUnit_failedFills (s : State) (u : Nat) (f : UnitSt → UnitSt) : (s.setUnit u f).failedFills = s.failedFills := rfl
@[simp] theorem State.setUnit_clean (s : State) (u : Nat) (f : UnitSt → UnitSt) : (s.setUnit u f).clean = s.clean := rfl
@[simp] theorem State.setUnit_flash (s : State) (u : Nat) (f : UnitSt → UnitSt) : (s.setUnit u f).flash = s.flash := rfl
@[simp] theorem State.setUnit_queues (s : State) (u : Nat) (f : UnitSt → UnitSt) : (s.setUnit u f).queues = s.queues := rfl
@[simp] theorem State.setUnit_units (s : State) (u : Nat) (f : UnitSt → UnitSt) : (s.setUnit u f).units = setKey s.units u (f (s.unit u)) := rfl
@[simp] theorem State.setUnit_engs (s : State) (u : Nat) (f : UnitSt → UnitSt) : (s.setUnit u f).engs = s.engs := rfl
@[simp] theorem State.setUnit_ctxs (s : State) (u : Nat) (f : UnitSt → UnitSt) : (s.setUnit u f).ctxs = s.ctxs := rfl
@[simp] theorem State.setUnit_rings (s : State) (u : Nat) (f : UnitSt → UnitSt) : (s.setUnit u f).rings = s.rings := rfl
@[simp] theorem State.setUnit_tc (s : State) (u : Nat) (f : UnitSt → UnitSt) : (s.setUnit u f).tc = s.tc := rfl
@[simp] theorem State.setUnit_invals (s : State) (u : Nat) (f : UnitSt → UnitSt) : (s.setUnit u f).invals = s.invals := rfl
@[simp] theorem State.setUnit_pwr (s : State) (u : Nat) (f : UnitSt → UnitSt) : (s.setUnit u f).pwr = s.pwr := rfl
@[simp] theorem State.setUnit_energy (s : State) (u : Nat) (f : UnitSt → UnitSt) : (s.setUnit u f).energy = s.energy := rfl
@[simp] theorem State.setUnit_energyAt (s : State) (u : Nat) (f : UnitSt → UnitSt) : (s.setUnit u f).energyAt = s.energyAt := rfl
@[simp] theorem State.setUnit_energyEnd (s : State) (u : Nat) (f : UnitSt → UnitSt) : (s.setUnit u f).energyEnd = s.energyEnd := rfl
@[simp] theorem State.setUnit_asleep (s : State) (u : Nat) (f : UnitSt → UnitSt) : (s.setUnit u f).asleep = s.asleep := rfl
@[simp] theorem State.setUnit_stackUse (s : State) (u : Nat) (f : UnitSt → UnitSt) : (s.setUnit u f).stackUse = s.stackUse := rfl
@[simp] theorem State.setUnit_boot (s : State) (u : Nat) (f : UnitSt → UnitSt) : (s.setUnit u f).boot = s.boot := rfl
@[simp] theorem State.setUnit_sec (s : State) (u : Nat) (f : UnitSt → UnitSt) : (s.setUnit u f).sec = s.sec := rfl
@[simp] theorem State.setUnit_pins (s : State) (u : Nat) (f : UnitSt → UnitSt) : (s.setUnit u f).pins = s.pins := rfl
@[simp] theorem State.setUnit_mgmt (s : State) (u : Nat) (f : UnitSt → UnitSt) : (s.setUnit u f).mgmt = s.mgmt := rfl
@[simp] theorem State.setUnit_svnMin (s : State) (u : Nat) (f : UnitSt → UnitSt) : (s.setUnit u f).svnMin = s.svnMin := rfl
@[simp] theorem State.setUnit_revoked (s : State) (u : Nat) (f : UnitSt → UnitSt) : (s.setUnit u f).revoked = s.revoked := rfl
@[simp] theorem State.setUnit_bridges (s : State) (u : Nat) (f : UnitSt → UnitSt) : (s.setUnit u f).bridges = s.bridges := rfl
@[simp] theorem State.setUnit_ftu (s : State) (u : Nat) (f : UnitSt → UnitSt) : (s.setUnit u f).ftu = s.ftu := rfl
@[simp] theorem State.setUnit_ports (s : State) (u : Nat) (f : UnitSt → UnitSt) : (s.setUnit u f).ports = s.ports := rfl
@[simp] theorem State.setUnit_routes (s : State) (u : Nat) (f : UnitSt → UnitSt) : (s.setUnit u f).routes = s.routes := rfl
@[simp] theorem State.setUnit_bias (s : State) (u : Nat) (f : UnitSt → UnitSt) : (s.setUnit u f).bias = s.bias := rfl
@[simp] theorem State.setUnit_hcx (s : State) (u : Nat) (f : UnitSt → UnitSt) : (s.setUnit u f).hcx = s.hcx := rfl
@[simp] theorem State.setUnit_tags (s : State) (u : Nat) (f : UnitSt → UnitSt) : (s.setUnit u f).tags = s.tags := rfl
@[simp] theorem State.setUnit_nodes (s : State) (u : Nat) (f : UnitSt → UnitSt) : (s.setUnit u f).nodes = s.nodes := rfl
@[simp] theorem State.setUnit_rx (s : State) (u : Nat) (f : UnitSt → UnitSt) : (s.setUnit u f).rx = s.rx := rfl
@[simp] theorem State.setUnit_regions (s : State) (u : Nat) (f : UnitSt → UnitSt) : (s.setUnit u f).regions = s.regions := rfl
@[simp] theorem State.setUnit_uuTables (s : State) (u : Nat) (f : UnitSt → UnitSt) : (s.setUnit u f).uuTables = s.uuTables := rfl
@[simp] theorem State.setUnit_cmps (s : State) (u : Nat) (f : UnitSt → UnitSt) : (s.setUnit u f).cmps = s.cmps := rfl
@[simp] theorem State.setUnit_exports (s : State) (u : Nat) (f : UnitSt → UnitSt) : (s.setUnit u f).exports = s.exports := rfl
@[simp] theorem State.setUnit_interrupts (s : State) (u : Nat) (f : UnitSt → UnitSt) : (s.setUnit u f).interrupts = s.interrupts := rfl
@[simp] theorem State.setUnit_resp (s : State) (u : Nat) (f : UnitSt → UnitSt) : (s.setUnit u f).resp = s.resp := rfl
@[simp] theorem State.setUnit_freeCount (s : State) (u : Nat) (f : UnitSt → UnitSt) : (s.setUnit u f).freeCount = s.freeCount := rfl
@[simp] theorem State.setUnit_reg (s : State) (u : Nat) (f : UnitSt → UnitSt) (r' : Reg) (d' k' : Nat) : (s.setUnit u f).reg r' d' k' = s.reg r' d' k' := rfl
@[simp] theorem State.setUnit_ctx (s : State) (u : Nat) (f : UnitSt → UnitSt) (i : Nat) : (s.setUnit u f).ctx i = s.ctx i := rfl
@[simp] theorem State.setUnit_eng (s : State) (u : Nat) (f : UnitSt → UnitSt) (i : Nat) : (s.setUnit u f).eng i = s.eng i := rfl
@[simp] theorem State.setUnit_queue (s : State) (u : Nat) (f : UnitSt → UnitSt) (i : QueueId) : (s.setUnit u f).queue i = s.queue i := rfl
@[simp] theorem State.setUnit_die (s : State) (u : Nat) (f : UnitSt → UnitSt) (i : Nat) : (s.setUnit u f).die i = s.die i := rfl
@[simp] theorem State.setUnit_ring (s : State) (u : Nat) (f : UnitSt → UnitSt) (i : Nat) : (s.setUnit u f).ring i = s.ring i := rfl
@[simp] theorem State.setUnit_bridge (s : State) (u : Nat) (f : UnitSt → UnitSt) (i j : Nat) : (s.setUnit u f).bridge i j = s.bridge i j := rfl
@[simp] theorem State.setUnit_port (s : State) (u : Nat) (f : UnitSt → UnitSt) (i : Nat) : (s.setUnit u f).port i = s.port i := rfl

/-! setEng -/

@[simp] theorem State.setEng_pending (s : State) (e : Nat) (f : EngSt → EngSt) : (s.setEng e f).pending = s.pending := rfl
@[simp] theorem State.setEng_ft (s : State) (e : Nat) (f : EngSt → EngSt) : (s.setEng e f).ft = s.ft := rfl
@[simp] theorem State.setEng_aon (s : State) (e : Nat) (f : EngSt → EngSt) : (s.setEng e f).aon = s.aon := rfl
@[simp] theorem State.setEng_regs (s : State) (e : Nat) (f : EngSt → EngSt) : (s.setEng e f).regs = s.regs := rfl
@[simp] theorem State.setEng_mem (s : State) (e : Nat) (f : EngSt → EngSt) : (s.setEng e f).mem = s.mem := rfl
@[simp] theorem State.setEng_ecc (s : State) (e : Nat) (f : EngSt → EngSt) : (s.setEng e f).ecc = s.ecc := rfl
@[simp] theorem State.setEng_upsets (s : State) (e : Nat) (f : EngSt → EngSt) : (s.setEng e f).upsets = s.upsets := rfl
@[simp] theorem State.setEng_wcb (s : State) (e : Nat) (f : EngSt → EngSt) : (s.setEng e f).wcb = s.wcb := rfl
@[simp] theorem State.setEng_failedFills (s : State) (e : Nat) (f : EngSt → EngSt) : (s.setEng e f).failedFills = s.failedFills := rfl
@[simp] theorem State.setEng_clean (s : State) (e : Nat) (f : EngSt → EngSt) : (s.setEng e f).clean = s.clean := rfl
@[simp] theorem State.setEng_flash (s : State) (e : Nat) (f : EngSt → EngSt) : (s.setEng e f).flash = s.flash := rfl
@[simp] theorem State.setEng_queues (s : State) (e : Nat) (f : EngSt → EngSt) : (s.setEng e f).queues = s.queues := rfl
@[simp] theorem State.setEng_units (s : State) (e : Nat) (f : EngSt → EngSt) : (s.setEng e f).units = s.units := rfl
@[simp] theorem State.setEng_engs (s : State) (e : Nat) (f : EngSt → EngSt) : (s.setEng e f).engs = setKey s.engs e (f (s.eng e)) := rfl
@[simp] theorem State.setEng_ctxs (s : State) (e : Nat) (f : EngSt → EngSt) : (s.setEng e f).ctxs = s.ctxs := rfl
@[simp] theorem State.setEng_rings (s : State) (e : Nat) (f : EngSt → EngSt) : (s.setEng e f).rings = s.rings := rfl
@[simp] theorem State.setEng_tc (s : State) (e : Nat) (f : EngSt → EngSt) : (s.setEng e f).tc = s.tc := rfl
@[simp] theorem State.setEng_invals (s : State) (e : Nat) (f : EngSt → EngSt) : (s.setEng e f).invals = s.invals := rfl
@[simp] theorem State.setEng_pwr (s : State) (e : Nat) (f : EngSt → EngSt) : (s.setEng e f).pwr = s.pwr := rfl
@[simp] theorem State.setEng_energy (s : State) (e : Nat) (f : EngSt → EngSt) : (s.setEng e f).energy = s.energy := rfl
@[simp] theorem State.setEng_energyAt (s : State) (e : Nat) (f : EngSt → EngSt) : (s.setEng e f).energyAt = s.energyAt := rfl
@[simp] theorem State.setEng_energyEnd (s : State) (e : Nat) (f : EngSt → EngSt) : (s.setEng e f).energyEnd = s.energyEnd := rfl
@[simp] theorem State.setEng_asleep (s : State) (e : Nat) (f : EngSt → EngSt) : (s.setEng e f).asleep = s.asleep := rfl
@[simp] theorem State.setEng_stackUse (s : State) (e : Nat) (f : EngSt → EngSt) : (s.setEng e f).stackUse = s.stackUse := rfl
@[simp] theorem State.setEng_boot (s : State) (e : Nat) (f : EngSt → EngSt) : (s.setEng e f).boot = s.boot := rfl
@[simp] theorem State.setEng_sec (s : State) (e : Nat) (f : EngSt → EngSt) : (s.setEng e f).sec = s.sec := rfl
@[simp] theorem State.setEng_pins (s : State) (e : Nat) (f : EngSt → EngSt) : (s.setEng e f).pins = s.pins := rfl
@[simp] theorem State.setEng_mgmt (s : State) (e : Nat) (f : EngSt → EngSt) : (s.setEng e f).mgmt = s.mgmt := rfl
@[simp] theorem State.setEng_svnMin (s : State) (e : Nat) (f : EngSt → EngSt) : (s.setEng e f).svnMin = s.svnMin := rfl
@[simp] theorem State.setEng_revoked (s : State) (e : Nat) (f : EngSt → EngSt) : (s.setEng e f).revoked = s.revoked := rfl
@[simp] theorem State.setEng_bridges (s : State) (e : Nat) (f : EngSt → EngSt) : (s.setEng e f).bridges = s.bridges := rfl
@[simp] theorem State.setEng_ftu (s : State) (e : Nat) (f : EngSt → EngSt) : (s.setEng e f).ftu = s.ftu := rfl
@[simp] theorem State.setEng_ports (s : State) (e : Nat) (f : EngSt → EngSt) : (s.setEng e f).ports = s.ports := rfl
@[simp] theorem State.setEng_routes (s : State) (e : Nat) (f : EngSt → EngSt) : (s.setEng e f).routes = s.routes := rfl
@[simp] theorem State.setEng_bias (s : State) (e : Nat) (f : EngSt → EngSt) : (s.setEng e f).bias = s.bias := rfl
@[simp] theorem State.setEng_hcx (s : State) (e : Nat) (f : EngSt → EngSt) : (s.setEng e f).hcx = s.hcx := rfl
@[simp] theorem State.setEng_tags (s : State) (e : Nat) (f : EngSt → EngSt) : (s.setEng e f).tags = s.tags := rfl
@[simp] theorem State.setEng_nodes (s : State) (e : Nat) (f : EngSt → EngSt) : (s.setEng e f).nodes = s.nodes := rfl
@[simp] theorem State.setEng_rx (s : State) (e : Nat) (f : EngSt → EngSt) : (s.setEng e f).rx = s.rx := rfl
@[simp] theorem State.setEng_regions (s : State) (e : Nat) (f : EngSt → EngSt) : (s.setEng e f).regions = s.regions := rfl
@[simp] theorem State.setEng_uuTables (s : State) (e : Nat) (f : EngSt → EngSt) : (s.setEng e f).uuTables = s.uuTables := rfl
@[simp] theorem State.setEng_cmps (s : State) (e : Nat) (f : EngSt → EngSt) : (s.setEng e f).cmps = s.cmps := rfl
@[simp] theorem State.setEng_exports (s : State) (e : Nat) (f : EngSt → EngSt) : (s.setEng e f).exports = s.exports := rfl
@[simp] theorem State.setEng_interrupts (s : State) (e : Nat) (f : EngSt → EngSt) : (s.setEng e f).interrupts = s.interrupts := rfl
@[simp] theorem State.setEng_resp (s : State) (e : Nat) (f : EngSt → EngSt) : (s.setEng e f).resp = s.resp := rfl
@[simp] theorem State.setEng_freeCount (s : State) (e : Nat) (f : EngSt → EngSt) : (s.setEng e f).freeCount = s.freeCount := rfl
@[simp] theorem State.setEng_reg (s : State) (e : Nat) (f : EngSt → EngSt) (r' : Reg) (d' k' : Nat) : (s.setEng e f).reg r' d' k' = s.reg r' d' k' := rfl
@[simp] theorem State.setEng_ctx (s : State) (e : Nat) (f : EngSt → EngSt) (i : Nat) : (s.setEng e f).ctx i = s.ctx i := rfl
@[simp] theorem State.setEng_unit (s : State) (e : Nat) (f : EngSt → EngSt) (i : Nat) : (s.setEng e f).unit i = s.unit i := rfl
@[simp] theorem State.setEng_queue (s : State) (e : Nat) (f : EngSt → EngSt) (i : QueueId) : (s.setEng e f).queue i = s.queue i := rfl
@[simp] theorem State.setEng_die (s : State) (e : Nat) (f : EngSt → EngSt) (i : Nat) : (s.setEng e f).die i = s.die i := rfl
@[simp] theorem State.setEng_ring (s : State) (e : Nat) (f : EngSt → EngSt) (i : Nat) : (s.setEng e f).ring i = s.ring i := rfl
@[simp] theorem State.setEng_bridge (s : State) (e : Nat) (f : EngSt → EngSt) (i j : Nat) : (s.setEng e f).bridge i j = s.bridge i j := rfl
@[simp] theorem State.setEng_port (s : State) (e : Nat) (f : EngSt → EngSt) (i : Nat) : (s.setEng e f).port i = s.port i := rfl

/-! setQueue -/

@[simp] theorem State.setQueue_pending (s : State) (q : QueueId) (f : RunQ → RunQ) : (s.setQueue q f).pending = s.pending := rfl
@[simp] theorem State.setQueue_ft (s : State) (q : QueueId) (f : RunQ → RunQ) : (s.setQueue q f).ft = s.ft := rfl
@[simp] theorem State.setQueue_aon (s : State) (q : QueueId) (f : RunQ → RunQ) : (s.setQueue q f).aon = s.aon := rfl
@[simp] theorem State.setQueue_regs (s : State) (q : QueueId) (f : RunQ → RunQ) : (s.setQueue q f).regs = s.regs := rfl
@[simp] theorem State.setQueue_mem (s : State) (q : QueueId) (f : RunQ → RunQ) : (s.setQueue q f).mem = s.mem := rfl
@[simp] theorem State.setQueue_ecc (s : State) (q : QueueId) (f : RunQ → RunQ) : (s.setQueue q f).ecc = s.ecc := rfl
@[simp] theorem State.setQueue_upsets (s : State) (q : QueueId) (f : RunQ → RunQ) : (s.setQueue q f).upsets = s.upsets := rfl
@[simp] theorem State.setQueue_wcb (s : State) (q : QueueId) (f : RunQ → RunQ) : (s.setQueue q f).wcb = s.wcb := rfl
@[simp] theorem State.setQueue_failedFills (s : State) (q : QueueId) (f : RunQ → RunQ) : (s.setQueue q f).failedFills = s.failedFills := rfl
@[simp] theorem State.setQueue_clean (s : State) (q : QueueId) (f : RunQ → RunQ) : (s.setQueue q f).clean = s.clean := rfl
@[simp] theorem State.setQueue_flash (s : State) (q : QueueId) (f : RunQ → RunQ) : (s.setQueue q f).flash = s.flash := rfl
@[simp] theorem State.setQueue_queues (s : State) (q : QueueId) (f : RunQ → RunQ) : (s.setQueue q f).queues = setKey s.queues q (f (s.queue q)) := rfl
@[simp] theorem State.setQueue_units (s : State) (q : QueueId) (f : RunQ → RunQ) : (s.setQueue q f).units = s.units := rfl
@[simp] theorem State.setQueue_engs (s : State) (q : QueueId) (f : RunQ → RunQ) : (s.setQueue q f).engs = s.engs := rfl
@[simp] theorem State.setQueue_ctxs (s : State) (q : QueueId) (f : RunQ → RunQ) : (s.setQueue q f).ctxs = s.ctxs := rfl
@[simp] theorem State.setQueue_rings (s : State) (q : QueueId) (f : RunQ → RunQ) : (s.setQueue q f).rings = s.rings := rfl
@[simp] theorem State.setQueue_tc (s : State) (q : QueueId) (f : RunQ → RunQ) : (s.setQueue q f).tc = s.tc := rfl
@[simp] theorem State.setQueue_invals (s : State) (q : QueueId) (f : RunQ → RunQ) : (s.setQueue q f).invals = s.invals := rfl
@[simp] theorem State.setQueue_pwr (s : State) (q : QueueId) (f : RunQ → RunQ) : (s.setQueue q f).pwr = s.pwr := rfl
@[simp] theorem State.setQueue_energy (s : State) (q : QueueId) (f : RunQ → RunQ) : (s.setQueue q f).energy = s.energy := rfl
@[simp] theorem State.setQueue_energyAt (s : State) (q : QueueId) (f : RunQ → RunQ) : (s.setQueue q f).energyAt = s.energyAt := rfl
@[simp] theorem State.setQueue_energyEnd (s : State) (q : QueueId) (f : RunQ → RunQ) : (s.setQueue q f).energyEnd = s.energyEnd := rfl
@[simp] theorem State.setQueue_asleep (s : State) (q : QueueId) (f : RunQ → RunQ) : (s.setQueue q f).asleep = s.asleep := rfl
@[simp] theorem State.setQueue_stackUse (s : State) (q : QueueId) (f : RunQ → RunQ) : (s.setQueue q f).stackUse = s.stackUse := rfl
@[simp] theorem State.setQueue_boot (s : State) (q : QueueId) (f : RunQ → RunQ) : (s.setQueue q f).boot = s.boot := rfl
@[simp] theorem State.setQueue_sec (s : State) (q : QueueId) (f : RunQ → RunQ) : (s.setQueue q f).sec = s.sec := rfl
@[simp] theorem State.setQueue_pins (s : State) (q : QueueId) (f : RunQ → RunQ) : (s.setQueue q f).pins = s.pins := rfl
@[simp] theorem State.setQueue_mgmt (s : State) (q : QueueId) (f : RunQ → RunQ) : (s.setQueue q f).mgmt = s.mgmt := rfl
@[simp] theorem State.setQueue_svnMin (s : State) (q : QueueId) (f : RunQ → RunQ) : (s.setQueue q f).svnMin = s.svnMin := rfl
@[simp] theorem State.setQueue_revoked (s : State) (q : QueueId) (f : RunQ → RunQ) : (s.setQueue q f).revoked = s.revoked := rfl
@[simp] theorem State.setQueue_bridges (s : State) (q : QueueId) (f : RunQ → RunQ) : (s.setQueue q f).bridges = s.bridges := rfl
@[simp] theorem State.setQueue_ftu (s : State) (q : QueueId) (f : RunQ → RunQ) : (s.setQueue q f).ftu = s.ftu := rfl
@[simp] theorem State.setQueue_ports (s : State) (q : QueueId) (f : RunQ → RunQ) : (s.setQueue q f).ports = s.ports := rfl
@[simp] theorem State.setQueue_routes (s : State) (q : QueueId) (f : RunQ → RunQ) : (s.setQueue q f).routes = s.routes := rfl
@[simp] theorem State.setQueue_bias (s : State) (q : QueueId) (f : RunQ → RunQ) : (s.setQueue q f).bias = s.bias := rfl
@[simp] theorem State.setQueue_hcx (s : State) (q : QueueId) (f : RunQ → RunQ) : (s.setQueue q f).hcx = s.hcx := rfl
@[simp] theorem State.setQueue_tags (s : State) (q : QueueId) (f : RunQ → RunQ) : (s.setQueue q f).tags = s.tags := rfl
@[simp] theorem State.setQueue_nodes (s : State) (q : QueueId) (f : RunQ → RunQ) : (s.setQueue q f).nodes = s.nodes := rfl
@[simp] theorem State.setQueue_rx (s : State) (q : QueueId) (f : RunQ → RunQ) : (s.setQueue q f).rx = s.rx := rfl
@[simp] theorem State.setQueue_regions (s : State) (q : QueueId) (f : RunQ → RunQ) : (s.setQueue q f).regions = s.regions := rfl
@[simp] theorem State.setQueue_uuTables (s : State) (q : QueueId) (f : RunQ → RunQ) : (s.setQueue q f).uuTables = s.uuTables := rfl
@[simp] theorem State.setQueue_cmps (s : State) (q : QueueId) (f : RunQ → RunQ) : (s.setQueue q f).cmps = s.cmps := rfl
@[simp] theorem State.setQueue_exports (s : State) (q : QueueId) (f : RunQ → RunQ) : (s.setQueue q f).exports = s.exports := rfl
@[simp] theorem State.setQueue_interrupts (s : State) (q : QueueId) (f : RunQ → RunQ) : (s.setQueue q f).interrupts = s.interrupts := rfl
@[simp] theorem State.setQueue_resp (s : State) (q : QueueId) (f : RunQ → RunQ) : (s.setQueue q f).resp = s.resp := rfl
@[simp] theorem State.setQueue_freeCount (s : State) (q : QueueId) (f : RunQ → RunQ) : (s.setQueue q f).freeCount = s.freeCount := rfl
@[simp] theorem State.setQueue_reg (s : State) (q : QueueId) (f : RunQ → RunQ) (r' : Reg) (d' k' : Nat) : (s.setQueue q f).reg r' d' k' = s.reg r' d' k' := rfl
@[simp] theorem State.setQueue_ctx (s : State) (q : QueueId) (f : RunQ → RunQ) (i : Nat) : (s.setQueue q f).ctx i = s.ctx i := rfl
@[simp] theorem State.setQueue_unit (s : State) (q : QueueId) (f : RunQ → RunQ) (i : Nat) : (s.setQueue q f).unit i = s.unit i := rfl
@[simp] theorem State.setQueue_eng (s : State) (q : QueueId) (f : RunQ → RunQ) (i : Nat) : (s.setQueue q f).eng i = s.eng i := rfl
@[simp] theorem State.setQueue_die (s : State) (q : QueueId) (f : RunQ → RunQ) (i : Nat) : (s.setQueue q f).die i = s.die i := rfl
@[simp] theorem State.setQueue_ring (s : State) (q : QueueId) (f : RunQ → RunQ) (i : Nat) : (s.setQueue q f).ring i = s.ring i := rfl
@[simp] theorem State.setQueue_bridge (s : State) (q : QueueId) (f : RunQ → RunQ) (i j : Nat) : (s.setQueue q f).bridge i j = s.bridge i j := rfl
@[simp] theorem State.setQueue_port (s : State) (q : QueueId) (f : RunQ → RunQ) (i : Nat) : (s.setQueue q f).port i = s.port i := rfl

/-! setDie -/

@[simp] theorem State.setDie_pending (s : State) (d : Nat) (f : DiePwr → DiePwr) : (s.setDie d f).pending = s.pending := rfl
@[simp] theorem State.setDie_ft (s : State) (d : Nat) (f : DiePwr → DiePwr) : (s.setDie d f).ft = s.ft := rfl
@[simp] theorem State.setDie_aon (s : State) (d : Nat) (f : DiePwr → DiePwr) : (s.setDie d f).aon = s.aon := rfl
@[simp] theorem State.setDie_regs (s : State) (d : Nat) (f : DiePwr → DiePwr) : (s.setDie d f).regs = s.regs := rfl
@[simp] theorem State.setDie_mem (s : State) (d : Nat) (f : DiePwr → DiePwr) : (s.setDie d f).mem = s.mem := rfl
@[simp] theorem State.setDie_ecc (s : State) (d : Nat) (f : DiePwr → DiePwr) : (s.setDie d f).ecc = s.ecc := rfl
@[simp] theorem State.setDie_upsets (s : State) (d : Nat) (f : DiePwr → DiePwr) : (s.setDie d f).upsets = s.upsets := rfl
@[simp] theorem State.setDie_wcb (s : State) (d : Nat) (f : DiePwr → DiePwr) : (s.setDie d f).wcb = s.wcb := rfl
@[simp] theorem State.setDie_failedFills (s : State) (d : Nat) (f : DiePwr → DiePwr) : (s.setDie d f).failedFills = s.failedFills := rfl
@[simp] theorem State.setDie_clean (s : State) (d : Nat) (f : DiePwr → DiePwr) : (s.setDie d f).clean = s.clean := rfl
@[simp] theorem State.setDie_flash (s : State) (d : Nat) (f : DiePwr → DiePwr) : (s.setDie d f).flash = s.flash := rfl
@[simp] theorem State.setDie_queues (s : State) (d : Nat) (f : DiePwr → DiePwr) : (s.setDie d f).queues = s.queues := rfl
@[simp] theorem State.setDie_units (s : State) (d : Nat) (f : DiePwr → DiePwr) : (s.setDie d f).units = s.units := rfl
@[simp] theorem State.setDie_engs (s : State) (d : Nat) (f : DiePwr → DiePwr) : (s.setDie d f).engs = s.engs := rfl
@[simp] theorem State.setDie_ctxs (s : State) (d : Nat) (f : DiePwr → DiePwr) : (s.setDie d f).ctxs = s.ctxs := rfl
@[simp] theorem State.setDie_rings (s : State) (d : Nat) (f : DiePwr → DiePwr) : (s.setDie d f).rings = s.rings := rfl
@[simp] theorem State.setDie_tc (s : State) (d : Nat) (f : DiePwr → DiePwr) : (s.setDie d f).tc = s.tc := rfl
@[simp] theorem State.setDie_invals (s : State) (d : Nat) (f : DiePwr → DiePwr) : (s.setDie d f).invals = s.invals := rfl
@[simp] theorem State.setDie_pwr (s : State) (d : Nat) (f : DiePwr → DiePwr) : (s.setDie d f).pwr = modAt f s.pwr d := rfl
@[simp] theorem State.setDie_energy (s : State) (d : Nat) (f : DiePwr → DiePwr) : (s.setDie d f).energy = s.energy := rfl
@[simp] theorem State.setDie_energyAt (s : State) (d : Nat) (f : DiePwr → DiePwr) : (s.setDie d f).energyAt = s.energyAt := rfl
@[simp] theorem State.setDie_energyEnd (s : State) (d : Nat) (f : DiePwr → DiePwr) : (s.setDie d f).energyEnd = s.energyEnd := rfl
@[simp] theorem State.setDie_asleep (s : State) (d : Nat) (f : DiePwr → DiePwr) : (s.setDie d f).asleep = s.asleep := rfl
@[simp] theorem State.setDie_stackUse (s : State) (d : Nat) (f : DiePwr → DiePwr) : (s.setDie d f).stackUse = s.stackUse := rfl
@[simp] theorem State.setDie_boot (s : State) (d : Nat) (f : DiePwr → DiePwr) : (s.setDie d f).boot = s.boot := rfl
@[simp] theorem State.setDie_sec (s : State) (d : Nat) (f : DiePwr → DiePwr) : (s.setDie d f).sec = s.sec := rfl
@[simp] theorem State.setDie_pins (s : State) (d : Nat) (f : DiePwr → DiePwr) : (s.setDie d f).pins = s.pins := rfl
@[simp] theorem State.setDie_mgmt (s : State) (d : Nat) (f : DiePwr → DiePwr) : (s.setDie d f).mgmt = s.mgmt := rfl
@[simp] theorem State.setDie_svnMin (s : State) (d : Nat) (f : DiePwr → DiePwr) : (s.setDie d f).svnMin = s.svnMin := rfl
@[simp] theorem State.setDie_revoked (s : State) (d : Nat) (f : DiePwr → DiePwr) : (s.setDie d f).revoked = s.revoked := rfl
@[simp] theorem State.setDie_bridges (s : State) (d : Nat) (f : DiePwr → DiePwr) : (s.setDie d f).bridges = s.bridges := rfl
@[simp] theorem State.setDie_ftu (s : State) (d : Nat) (f : DiePwr → DiePwr) : (s.setDie d f).ftu = s.ftu := rfl
@[simp] theorem State.setDie_ports (s : State) (d : Nat) (f : DiePwr → DiePwr) : (s.setDie d f).ports = s.ports := rfl
@[simp] theorem State.setDie_routes (s : State) (d : Nat) (f : DiePwr → DiePwr) : (s.setDie d f).routes = s.routes := rfl
@[simp] theorem State.setDie_bias (s : State) (d : Nat) (f : DiePwr → DiePwr) : (s.setDie d f).bias = s.bias := rfl
@[simp] theorem State.setDie_hcx (s : State) (d : Nat) (f : DiePwr → DiePwr) : (s.setDie d f).hcx = s.hcx := rfl
@[simp] theorem State.setDie_tags (s : State) (d : Nat) (f : DiePwr → DiePwr) : (s.setDie d f).tags = s.tags := rfl
@[simp] theorem State.setDie_nodes (s : State) (d : Nat) (f : DiePwr → DiePwr) : (s.setDie d f).nodes = s.nodes := rfl
@[simp] theorem State.setDie_rx (s : State) (d : Nat) (f : DiePwr → DiePwr) : (s.setDie d f).rx = s.rx := rfl
@[simp] theorem State.setDie_regions (s : State) (d : Nat) (f : DiePwr → DiePwr) : (s.setDie d f).regions = s.regions := rfl
@[simp] theorem State.setDie_uuTables (s : State) (d : Nat) (f : DiePwr → DiePwr) : (s.setDie d f).uuTables = s.uuTables := rfl
@[simp] theorem State.setDie_cmps (s : State) (d : Nat) (f : DiePwr → DiePwr) : (s.setDie d f).cmps = s.cmps := rfl
@[simp] theorem State.setDie_exports (s : State) (d : Nat) (f : DiePwr → DiePwr) : (s.setDie d f).exports = s.exports := rfl
@[simp] theorem State.setDie_interrupts (s : State) (d : Nat) (f : DiePwr → DiePwr) : (s.setDie d f).interrupts = s.interrupts := rfl
@[simp] theorem State.setDie_resp (s : State) (d : Nat) (f : DiePwr → DiePwr) : (s.setDie d f).resp = s.resp := rfl
@[simp] theorem State.setDie_freeCount (s : State) (d : Nat) (f : DiePwr → DiePwr) : (s.setDie d f).freeCount = s.freeCount := rfl
@[simp] theorem State.setDie_reg (s : State) (d : Nat) (f : DiePwr → DiePwr) (r' : Reg) (d' k' : Nat) : (s.setDie d f).reg r' d' k' = s.reg r' d' k' := rfl
@[simp] theorem State.setDie_ctx (s : State) (d : Nat) (f : DiePwr → DiePwr) (i : Nat) : (s.setDie d f).ctx i = s.ctx i := rfl
@[simp] theorem State.setDie_unit (s : State) (d : Nat) (f : DiePwr → DiePwr) (i : Nat) : (s.setDie d f).unit i = s.unit i := rfl
@[simp] theorem State.setDie_eng (s : State) (d : Nat) (f : DiePwr → DiePwr) (i : Nat) : (s.setDie d f).eng i = s.eng i := rfl
@[simp] theorem State.setDie_queue (s : State) (d : Nat) (f : DiePwr → DiePwr) (i : QueueId) : (s.setDie d f).queue i = s.queue i := rfl
@[simp] theorem State.setDie_ring (s : State) (d : Nat) (f : DiePwr → DiePwr) (i : Nat) : (s.setDie d f).ring i = s.ring i := rfl
@[simp] theorem State.setDie_bridge (s : State) (d : Nat) (f : DiePwr → DiePwr) (i j : Nat) : (s.setDie d f).bridge i j = s.bridge i j := rfl
@[simp] theorem State.setDie_port (s : State) (d : Nat) (f : DiePwr → DiePwr) (i : Nat) : (s.setDie d f).port i = s.port i := rfl

/-! setRing -/

@[simp] theorem State.setRing_pending (s : State) (r : Nat) (f : Ring → Ring) : (s.setRing r f).pending = s.pending := rfl
@[simp] theorem State.setRing_ft (s : State) (r : Nat) (f : Ring → Ring) : (s.setRing r f).ft = s.ft := rfl
@[simp] theorem State.setRing_aon (s : State) (r : Nat) (f : Ring → Ring) : (s.setRing r f).aon = s.aon := rfl
@[simp] theorem State.setRing_regs (s : State) (r : Nat) (f : Ring → Ring) : (s.setRing r f).regs = s.regs := rfl
@[simp] theorem State.setRing_mem (s : State) (r : Nat) (f : Ring → Ring) : (s.setRing r f).mem = s.mem := rfl
@[simp] theorem State.setRing_ecc (s : State) (r : Nat) (f : Ring → Ring) : (s.setRing r f).ecc = s.ecc := rfl
@[simp] theorem State.setRing_upsets (s : State) (r : Nat) (f : Ring → Ring) : (s.setRing r f).upsets = s.upsets := rfl
@[simp] theorem State.setRing_wcb (s : State) (r : Nat) (f : Ring → Ring) : (s.setRing r f).wcb = s.wcb := rfl
@[simp] theorem State.setRing_failedFills (s : State) (r : Nat) (f : Ring → Ring) : (s.setRing r f).failedFills = s.failedFills := rfl
@[simp] theorem State.setRing_clean (s : State) (r : Nat) (f : Ring → Ring) : (s.setRing r f).clean = s.clean := rfl
@[simp] theorem State.setRing_flash (s : State) (r : Nat) (f : Ring → Ring) : (s.setRing r f).flash = s.flash := rfl
@[simp] theorem State.setRing_queues (s : State) (r : Nat) (f : Ring → Ring) : (s.setRing r f).queues = s.queues := rfl
@[simp] theorem State.setRing_units (s : State) (r : Nat) (f : Ring → Ring) : (s.setRing r f).units = s.units := rfl
@[simp] theorem State.setRing_engs (s : State) (r : Nat) (f : Ring → Ring) : (s.setRing r f).engs = s.engs := rfl
@[simp] theorem State.setRing_ctxs (s : State) (r : Nat) (f : Ring → Ring) : (s.setRing r f).ctxs = s.ctxs := rfl
@[simp] theorem State.setRing_rings (s : State) (r : Nat) (f : Ring → Ring) : (s.setRing r f).rings = modAt f s.rings r := rfl
@[simp] theorem State.setRing_tc (s : State) (r : Nat) (f : Ring → Ring) : (s.setRing r f).tc = s.tc := rfl
@[simp] theorem State.setRing_invals (s : State) (r : Nat) (f : Ring → Ring) : (s.setRing r f).invals = s.invals := rfl
@[simp] theorem State.setRing_pwr (s : State) (r : Nat) (f : Ring → Ring) : (s.setRing r f).pwr = s.pwr := rfl
@[simp] theorem State.setRing_energy (s : State) (r : Nat) (f : Ring → Ring) : (s.setRing r f).energy = s.energy := rfl
@[simp] theorem State.setRing_energyAt (s : State) (r : Nat) (f : Ring → Ring) : (s.setRing r f).energyAt = s.energyAt := rfl
@[simp] theorem State.setRing_energyEnd (s : State) (r : Nat) (f : Ring → Ring) : (s.setRing r f).energyEnd = s.energyEnd := rfl
@[simp] theorem State.setRing_asleep (s : State) (r : Nat) (f : Ring → Ring) : (s.setRing r f).asleep = s.asleep := rfl
@[simp] theorem State.setRing_stackUse (s : State) (r : Nat) (f : Ring → Ring) : (s.setRing r f).stackUse = s.stackUse := rfl
@[simp] theorem State.setRing_boot (s : State) (r : Nat) (f : Ring → Ring) : (s.setRing r f).boot = s.boot := rfl
@[simp] theorem State.setRing_sec (s : State) (r : Nat) (f : Ring → Ring) : (s.setRing r f).sec = s.sec := rfl
@[simp] theorem State.setRing_pins (s : State) (r : Nat) (f : Ring → Ring) : (s.setRing r f).pins = s.pins := rfl
@[simp] theorem State.setRing_mgmt (s : State) (r : Nat) (f : Ring → Ring) : (s.setRing r f).mgmt = s.mgmt := rfl
@[simp] theorem State.setRing_svnMin (s : State) (r : Nat) (f : Ring → Ring) : (s.setRing r f).svnMin = s.svnMin := rfl
@[simp] theorem State.setRing_revoked (s : State) (r : Nat) (f : Ring → Ring) : (s.setRing r f).revoked = s.revoked := rfl
@[simp] theorem State.setRing_bridges (s : State) (r : Nat) (f : Ring → Ring) : (s.setRing r f).bridges = s.bridges := rfl
@[simp] theorem State.setRing_ftu (s : State) (r : Nat) (f : Ring → Ring) : (s.setRing r f).ftu = s.ftu := rfl
@[simp] theorem State.setRing_ports (s : State) (r : Nat) (f : Ring → Ring) : (s.setRing r f).ports = s.ports := rfl
@[simp] theorem State.setRing_routes (s : State) (r : Nat) (f : Ring → Ring) : (s.setRing r f).routes = s.routes := rfl
@[simp] theorem State.setRing_bias (s : State) (r : Nat) (f : Ring → Ring) : (s.setRing r f).bias = s.bias := rfl
@[simp] theorem State.setRing_hcx (s : State) (r : Nat) (f : Ring → Ring) : (s.setRing r f).hcx = s.hcx := rfl
@[simp] theorem State.setRing_tags (s : State) (r : Nat) (f : Ring → Ring) : (s.setRing r f).tags = s.tags := rfl
@[simp] theorem State.setRing_nodes (s : State) (r : Nat) (f : Ring → Ring) : (s.setRing r f).nodes = s.nodes := rfl
@[simp] theorem State.setRing_rx (s : State) (r : Nat) (f : Ring → Ring) : (s.setRing r f).rx = s.rx := rfl
@[simp] theorem State.setRing_regions (s : State) (r : Nat) (f : Ring → Ring) : (s.setRing r f).regions = s.regions := rfl
@[simp] theorem State.setRing_uuTables (s : State) (r : Nat) (f : Ring → Ring) : (s.setRing r f).uuTables = s.uuTables := rfl
@[simp] theorem State.setRing_cmps (s : State) (r : Nat) (f : Ring → Ring) : (s.setRing r f).cmps = s.cmps := rfl
@[simp] theorem State.setRing_exports (s : State) (r : Nat) (f : Ring → Ring) : (s.setRing r f).exports = s.exports := rfl
@[simp] theorem State.setRing_interrupts (s : State) (r : Nat) (f : Ring → Ring) : (s.setRing r f).interrupts = s.interrupts := rfl
@[simp] theorem State.setRing_resp (s : State) (r : Nat) (f : Ring → Ring) : (s.setRing r f).resp = s.resp := rfl
@[simp] theorem State.setRing_freeCount (s : State) (r : Nat) (f : Ring → Ring) : (s.setRing r f).freeCount = s.freeCount := rfl
@[simp] theorem State.setRing_reg (s : State) (r : Nat) (f : Ring → Ring) (r' : Reg) (d' k' : Nat) : (s.setRing r f).reg r' d' k' = s.reg r' d' k' := rfl
@[simp] theorem State.setRing_ctx (s : State) (r : Nat) (f : Ring → Ring) (i : Nat) : (s.setRing r f).ctx i = s.ctx i := rfl
@[simp] theorem State.setRing_unit (s : State) (r : Nat) (f : Ring → Ring) (i : Nat) : (s.setRing r f).unit i = s.unit i := rfl
@[simp] theorem State.setRing_eng (s : State) (r : Nat) (f : Ring → Ring) (i : Nat) : (s.setRing r f).eng i = s.eng i := rfl
@[simp] theorem State.setRing_queue (s : State) (r : Nat) (f : Ring → Ring) (i : QueueId) : (s.setRing r f).queue i = s.queue i := rfl
@[simp] theorem State.setRing_die (s : State) (r : Nat) (f : Ring → Ring) (i : Nat) : (s.setRing r f).die i = s.die i := rfl
@[simp] theorem State.setRing_bridge (s : State) (r : Nat) (f : Ring → Ring) (i j : Nat) : (s.setRing r f).bridge i j = s.bridge i j := rfl
@[simp] theorem State.setRing_port (s : State) (r : Nat) (f : Ring → Ring) (i : Nat) : (s.setRing r f).port i = s.port i := rfl

/-! setBridge -/

@[simp] theorem State.setBridge_pending (s : State) (die slot : Nat) (f : BridgeSt → BridgeSt) : (s.setBridge die slot f).pending = s.pending := rfl
@[simp] theorem State.setBridge_ft (s : State) (die slot : Nat) (f : BridgeSt → BridgeSt) : (s.setBridge die slot f).ft = s.ft := rfl
@[simp] theorem State.setBridge_aon (s : State) (die slot : Nat) (f : BridgeSt → BridgeSt) : (s.setBridge die slot f).aon = s.aon := rfl
@[simp] theorem State.setBridge_regs (s : State) (die slot : Nat) (f : BridgeSt → BridgeSt) : (s.setBridge die slot f).regs = s.regs := rfl
@[simp] theorem State.setBridge_mem (s : State) (die slot : Nat) (f : BridgeSt → BridgeSt) : (s.setBridge die slot f).mem = s.mem := rfl
@[simp] theorem State.setBridge_ecc (s : State) (die slot : Nat) (f : BridgeSt → BridgeSt) : (s.setBridge die slot f).ecc = s.ecc := rfl
@[simp] theorem State.setBridge_upsets (s : State) (die slot : Nat) (f : BridgeSt → BridgeSt) : (s.setBridge die slot f).upsets = s.upsets := rfl
@[simp] theorem State.setBridge_wcb (s : State) (die slot : Nat) (f : BridgeSt → BridgeSt) : (s.setBridge die slot f).wcb = s.wcb := rfl
@[simp] theorem State.setBridge_failedFills (s : State) (die slot : Nat) (f : BridgeSt → BridgeSt) : (s.setBridge die slot f).failedFills = s.failedFills := rfl
@[simp] theorem State.setBridge_clean (s : State) (die slot : Nat) (f : BridgeSt → BridgeSt) : (s.setBridge die slot f).clean = s.clean := rfl
@[simp] theorem State.setBridge_flash (s : State) (die slot : Nat) (f : BridgeSt → BridgeSt) : (s.setBridge die slot f).flash = s.flash := rfl
@[simp] theorem State.setBridge_queues (s : State) (die slot : Nat) (f : BridgeSt → BridgeSt) : (s.setBridge die slot f).queues = s.queues := rfl
@[simp] theorem State.setBridge_units (s : State) (die slot : Nat) (f : BridgeSt → BridgeSt) : (s.setBridge die slot f).units = s.units := rfl
@[simp] theorem State.setBridge_engs (s : State) (die slot : Nat) (f : BridgeSt → BridgeSt) : (s.setBridge die slot f).engs = s.engs := rfl
@[simp] theorem State.setBridge_ctxs (s : State) (die slot : Nat) (f : BridgeSt → BridgeSt) : (s.setBridge die slot f).ctxs = s.ctxs := rfl
@[simp] theorem State.setBridge_rings (s : State) (die slot : Nat) (f : BridgeSt → BridgeSt) : (s.setBridge die slot f).rings = s.rings := rfl
@[simp] theorem State.setBridge_tc (s : State) (die slot : Nat) (f : BridgeSt → BridgeSt) : (s.setBridge die slot f).tc = s.tc := rfl
@[simp] theorem State.setBridge_invals (s : State) (die slot : Nat) (f : BridgeSt → BridgeSt) : (s.setBridge die slot f).invals = s.invals := rfl
@[simp] theorem State.setBridge_pwr (s : State) (die slot : Nat) (f : BridgeSt → BridgeSt) : (s.setBridge die slot f).pwr = s.pwr := rfl
@[simp] theorem State.setBridge_energy (s : State) (die slot : Nat) (f : BridgeSt → BridgeSt) : (s.setBridge die slot f).energy = s.energy := rfl
@[simp] theorem State.setBridge_energyAt (s : State) (die slot : Nat) (f : BridgeSt → BridgeSt) : (s.setBridge die slot f).energyAt = s.energyAt := rfl
@[simp] theorem State.setBridge_energyEnd (s : State) (die slot : Nat) (f : BridgeSt → BridgeSt) : (s.setBridge die slot f).energyEnd = s.energyEnd := rfl
@[simp] theorem State.setBridge_asleep (s : State) (die slot : Nat) (f : BridgeSt → BridgeSt) : (s.setBridge die slot f).asleep = s.asleep := rfl
@[simp] theorem State.setBridge_stackUse (s : State) (die slot : Nat) (f : BridgeSt → BridgeSt) : (s.setBridge die slot f).stackUse = s.stackUse := rfl
@[simp] theorem State.setBridge_boot (s : State) (die slot : Nat) (f : BridgeSt → BridgeSt) : (s.setBridge die slot f).boot = s.boot := rfl
@[simp] theorem State.setBridge_sec (s : State) (die slot : Nat) (f : BridgeSt → BridgeSt) : (s.setBridge die slot f).sec = s.sec := rfl
@[simp] theorem State.setBridge_pins (s : State) (die slot : Nat) (f : BridgeSt → BridgeSt) : (s.setBridge die slot f).pins = s.pins := rfl
@[simp] theorem State.setBridge_mgmt (s : State) (die slot : Nat) (f : BridgeSt → BridgeSt) : (s.setBridge die slot f).mgmt = s.mgmt := rfl
@[simp] theorem State.setBridge_svnMin (s : State) (die slot : Nat) (f : BridgeSt → BridgeSt) : (s.setBridge die slot f).svnMin = s.svnMin := rfl
@[simp] theorem State.setBridge_revoked (s : State) (die slot : Nat) (f : BridgeSt → BridgeSt) : (s.setBridge die slot f).revoked = s.revoked := rfl
@[simp] theorem State.setBridge_bridges (s : State) (die slot : Nat) (f : BridgeSt → BridgeSt) : (s.setBridge die slot f).bridges = setKey s.bridges (die * 3 + slot) (f (s.bridge die slot)) := rfl
@[simp] theorem State.setBridge_ftu (s : State) (die slot : Nat) (f : BridgeSt → BridgeSt) : (s.setBridge die slot f).ftu = s.ftu := rfl
@[simp] theorem State.setBridge_ports (s : State) (die slot : Nat) (f : BridgeSt → BridgeSt) : (s.setBridge die slot f).ports = s.ports := rfl
@[simp] theorem State.setBridge_routes (s : State) (die slot : Nat) (f : BridgeSt → BridgeSt) : (s.setBridge die slot f).routes = s.routes := rfl
@[simp] theorem State.setBridge_bias (s : State) (die slot : Nat) (f : BridgeSt → BridgeSt) : (s.setBridge die slot f).bias = s.bias := rfl
@[simp] theorem State.setBridge_hcx (s : State) (die slot : Nat) (f : BridgeSt → BridgeSt) : (s.setBridge die slot f).hcx = s.hcx := rfl
@[simp] theorem State.setBridge_tags (s : State) (die slot : Nat) (f : BridgeSt → BridgeSt) : (s.setBridge die slot f).tags = s.tags := rfl
@[simp] theorem State.setBridge_nodes (s : State) (die slot : Nat) (f : BridgeSt → BridgeSt) : (s.setBridge die slot f).nodes = s.nodes := rfl
@[simp] theorem State.setBridge_rx (s : State) (die slot : Nat) (f : BridgeSt → BridgeSt) : (s.setBridge die slot f).rx = s.rx := rfl
@[simp] theorem State.setBridge_regions (s : State) (die slot : Nat) (f : BridgeSt → BridgeSt) : (s.setBridge die slot f).regions = s.regions := rfl
@[simp] theorem State.setBridge_uuTables (s : State) (die slot : Nat) (f : BridgeSt → BridgeSt) : (s.setBridge die slot f).uuTables = s.uuTables := rfl
@[simp] theorem State.setBridge_cmps (s : State) (die slot : Nat) (f : BridgeSt → BridgeSt) : (s.setBridge die slot f).cmps = s.cmps := rfl
@[simp] theorem State.setBridge_exports (s : State) (die slot : Nat) (f : BridgeSt → BridgeSt) : (s.setBridge die slot f).exports = s.exports := rfl
@[simp] theorem State.setBridge_interrupts (s : State) (die slot : Nat) (f : BridgeSt → BridgeSt) : (s.setBridge die slot f).interrupts = s.interrupts := rfl
@[simp] theorem State.setBridge_resp (s : State) (die slot : Nat) (f : BridgeSt → BridgeSt) : (s.setBridge die slot f).resp = s.resp := rfl
@[simp] theorem State.setBridge_freeCount (s : State) (die slot : Nat) (f : BridgeSt → BridgeSt) : (s.setBridge die slot f).freeCount = s.freeCount := rfl
@[simp] theorem State.setBridge_reg (s : State) (die slot : Nat) (f : BridgeSt → BridgeSt) (r' : Reg) (d' k' : Nat) : (s.setBridge die slot f).reg r' d' k' = s.reg r' d' k' := rfl
@[simp] theorem State.setBridge_ctx (s : State) (die slot : Nat) (f : BridgeSt → BridgeSt) (i : Nat) : (s.setBridge die slot f).ctx i = s.ctx i := rfl
@[simp] theorem State.setBridge_unit (s : State) (die slot : Nat) (f : BridgeSt → BridgeSt) (i : Nat) : (s.setBridge die slot f).unit i = s.unit i := rfl
@[simp] theorem State.setBridge_eng (s : State) (die slot : Nat) (f : BridgeSt → BridgeSt) (i : Nat) : (s.setBridge die slot f).eng i = s.eng i := rfl
@[simp] theorem State.setBridge_queue (s : State) (die slot : Nat) (f : BridgeSt → BridgeSt) (i : QueueId) : (s.setBridge die slot f).queue i = s.queue i := rfl
@[simp] theorem State.setBridge_die (s : State) (die slot : Nat) (f : BridgeSt → BridgeSt) (i : Nat) : (s.setBridge die slot f).die i = s.die i := rfl
@[simp] theorem State.setBridge_ring (s : State) (die slot : Nat) (f : BridgeSt → BridgeSt) (i : Nat) : (s.setBridge die slot f).ring i = s.ring i := rfl
@[simp] theorem State.setBridge_port (s : State) (die slot : Nat) (f : BridgeSt → BridgeSt) (i : Nat) : (s.setBridge die slot f).port i = s.port i := rfl

/-! setDir -/

@[simp] theorem State.setDir_pending (s : State) (d : Dir) (f : BridgeSt → BridgeSt) : (s.setDir d f).pending = s.pending := rfl
@[simp] theorem State.setDir_ft (s : State) (d : Dir) (f : BridgeSt → BridgeSt) : (s.setDir d f).ft = s.ft := rfl
@[simp] theorem State.setDir_aon (s : State) (d : Dir) (f : BridgeSt → BridgeSt) : (s.setDir d f).aon = s.aon := rfl
@[simp] theorem State.setDir_regs (s : State) (d : Dir) (f : BridgeSt → BridgeSt) : (s.setDir d f).regs = s.regs := rfl
@[simp] theorem State.setDir_mem (s : State) (d : Dir) (f : BridgeSt → BridgeSt) : (s.setDir d f).mem = s.mem := rfl
@[simp] theorem State.setDir_ecc (s : State) (d : Dir) (f : BridgeSt → BridgeSt) : (s.setDir d f).ecc = s.ecc := rfl
@[simp] theorem State.setDir_upsets (s : State) (d : Dir) (f : BridgeSt → BridgeSt) : (s.setDir d f).upsets = s.upsets := rfl
@[simp] theorem State.setDir_wcb (s : State) (d : Dir) (f : BridgeSt → BridgeSt) : (s.setDir d f).wcb = s.wcb := rfl
@[simp] theorem State.setDir_failedFills (s : State) (d : Dir) (f : BridgeSt → BridgeSt) : (s.setDir d f).failedFills = s.failedFills := rfl
@[simp] theorem State.setDir_clean (s : State) (d : Dir) (f : BridgeSt → BridgeSt) : (s.setDir d f).clean = s.clean := rfl
@[simp] theorem State.setDir_flash (s : State) (d : Dir) (f : BridgeSt → BridgeSt) : (s.setDir d f).flash = s.flash := rfl
@[simp] theorem State.setDir_queues (s : State) (d : Dir) (f : BridgeSt → BridgeSt) : (s.setDir d f).queues = s.queues := rfl
@[simp] theorem State.setDir_units (s : State) (d : Dir) (f : BridgeSt → BridgeSt) : (s.setDir d f).units = s.units := rfl
@[simp] theorem State.setDir_engs (s : State) (d : Dir) (f : BridgeSt → BridgeSt) : (s.setDir d f).engs = s.engs := rfl
@[simp] theorem State.setDir_ctxs (s : State) (d : Dir) (f : BridgeSt → BridgeSt) : (s.setDir d f).ctxs = s.ctxs := rfl
@[simp] theorem State.setDir_rings (s : State) (d : Dir) (f : BridgeSt → BridgeSt) : (s.setDir d f).rings = s.rings := rfl
@[simp] theorem State.setDir_tc (s : State) (d : Dir) (f : BridgeSt → BridgeSt) : (s.setDir d f).tc = s.tc := rfl
@[simp] theorem State.setDir_invals (s : State) (d : Dir) (f : BridgeSt → BridgeSt) : (s.setDir d f).invals = s.invals := rfl
@[simp] theorem State.setDir_pwr (s : State) (d : Dir) (f : BridgeSt → BridgeSt) : (s.setDir d f).pwr = s.pwr := rfl
@[simp] theorem State.setDir_energy (s : State) (d : Dir) (f : BridgeSt → BridgeSt) : (s.setDir d f).energy = s.energy := rfl
@[simp] theorem State.setDir_energyAt (s : State) (d : Dir) (f : BridgeSt → BridgeSt) : (s.setDir d f).energyAt = s.energyAt := rfl
@[simp] theorem State.setDir_energyEnd (s : State) (d : Dir) (f : BridgeSt → BridgeSt) : (s.setDir d f).energyEnd = s.energyEnd := rfl
@[simp] theorem State.setDir_asleep (s : State) (d : Dir) (f : BridgeSt → BridgeSt) : (s.setDir d f).asleep = s.asleep := rfl
@[simp] theorem State.setDir_stackUse (s : State) (d : Dir) (f : BridgeSt → BridgeSt) : (s.setDir d f).stackUse = s.stackUse := rfl
@[simp] theorem State.setDir_boot (s : State) (d : Dir) (f : BridgeSt → BridgeSt) : (s.setDir d f).boot = s.boot := rfl
@[simp] theorem State.setDir_sec (s : State) (d : Dir) (f : BridgeSt → BridgeSt) : (s.setDir d f).sec = s.sec := rfl
@[simp] theorem State.setDir_pins (s : State) (d : Dir) (f : BridgeSt → BridgeSt) : (s.setDir d f).pins = s.pins := rfl
@[simp] theorem State.setDir_mgmt (s : State) (d : Dir) (f : BridgeSt → BridgeSt) : (s.setDir d f).mgmt = s.mgmt := rfl
@[simp] theorem State.setDir_svnMin (s : State) (d : Dir) (f : BridgeSt → BridgeSt) : (s.setDir d f).svnMin = s.svnMin := rfl
@[simp] theorem State.setDir_revoked (s : State) (d : Dir) (f : BridgeSt → BridgeSt) : (s.setDir d f).revoked = s.revoked := rfl
@[simp] theorem State.setDir_bridges (s : State) (d : Dir) (f : BridgeSt → BridgeSt) : (s.setDir d f).bridges = setKey s.bridges (d.die * 3 + d.slot) (f (s.dir d)) := rfl
@[simp] theorem State.setDir_ftu (s : State) (d : Dir) (f : BridgeSt → BridgeSt) : (s.setDir d f).ftu = s.ftu := rfl
@[simp] theorem State.setDir_ports (s : State) (d : Dir) (f : BridgeSt → BridgeSt) : (s.setDir d f).ports = s.ports := rfl
@[simp] theorem State.setDir_routes (s : State) (d : Dir) (f : BridgeSt → BridgeSt) : (s.setDir d f).routes = s.routes := rfl
@[simp] theorem State.setDir_bias (s : State) (d : Dir) (f : BridgeSt → BridgeSt) : (s.setDir d f).bias = s.bias := rfl
@[simp] theorem State.setDir_hcx (s : State) (d : Dir) (f : BridgeSt → BridgeSt) : (s.setDir d f).hcx = s.hcx := rfl
@[simp] theorem State.setDir_tags (s : State) (d : Dir) (f : BridgeSt → BridgeSt) : (s.setDir d f).tags = s.tags := rfl
@[simp] theorem State.setDir_nodes (s : State) (d : Dir) (f : BridgeSt → BridgeSt) : (s.setDir d f).nodes = s.nodes := rfl
@[simp] theorem State.setDir_rx (s : State) (d : Dir) (f : BridgeSt → BridgeSt) : (s.setDir d f).rx = s.rx := rfl
@[simp] theorem State.setDir_regions (s : State) (d : Dir) (f : BridgeSt → BridgeSt) : (s.setDir d f).regions = s.regions := rfl
@[simp] theorem State.setDir_uuTables (s : State) (d : Dir) (f : BridgeSt → BridgeSt) : (s.setDir d f).uuTables = s.uuTables := rfl
@[simp] theorem State.setDir_cmps (s : State) (d : Dir) (f : BridgeSt → BridgeSt) : (s.setDir d f).cmps = s.cmps := rfl
@[simp] theorem State.setDir_exports (s : State) (d : Dir) (f : BridgeSt → BridgeSt) : (s.setDir d f).exports = s.exports := rfl
@[simp] theorem State.setDir_interrupts (s : State) (d : Dir) (f : BridgeSt → BridgeSt) : (s.setDir d f).interrupts = s.interrupts := rfl
@[simp] theorem State.setDir_resp (s : State) (d : Dir) (f : BridgeSt → BridgeSt) : (s.setDir d f).resp = s.resp := rfl
@[simp] theorem State.setDir_freeCount (s : State) (d : Dir) (f : BridgeSt → BridgeSt) : (s.setDir d f).freeCount = s.freeCount := rfl
@[simp] theorem State.setDir_reg (s : State) (d : Dir) (f : BridgeSt → BridgeSt) (r' : Reg) (d' k' : Nat) : (s.setDir d f).reg r' d' k' = s.reg r' d' k' := rfl
@[simp] theorem State.setDir_ctx (s : State) (d : Dir) (f : BridgeSt → BridgeSt) (i : Nat) : (s.setDir d f).ctx i = s.ctx i := rfl
@[simp] theorem State.setDir_unit (s : State) (d : Dir) (f : BridgeSt → BridgeSt) (i : Nat) : (s.setDir d f).unit i = s.unit i := rfl
@[simp] theorem State.setDir_eng (s : State) (d : Dir) (f : BridgeSt → BridgeSt) (i : Nat) : (s.setDir d f).eng i = s.eng i := rfl
@[simp] theorem State.setDir_queue (s : State) (d : Dir) (f : BridgeSt → BridgeSt) (i : QueueId) : (s.setDir d f).queue i = s.queue i := rfl
@[simp] theorem State.setDir_die (s : State) (d : Dir) (f : BridgeSt → BridgeSt) (i : Nat) : (s.setDir d f).die i = s.die i := rfl
@[simp] theorem State.setDir_ring (s : State) (d : Dir) (f : BridgeSt → BridgeSt) (i : Nat) : (s.setDir d f).ring i = s.ring i := rfl
@[simp] theorem State.setDir_port (s : State) (d : Dir) (f : BridgeSt → BridgeSt) (i : Nat) : (s.setDir d f).port i = s.port i := rfl

/-! setPort -/

@[simp] theorem State.setPort_pending (s : State) (p : Nat) (f : PortSt → PortSt) : (s.setPort p f).pending = s.pending := rfl
@[simp] theorem State.setPort_ft (s : State) (p : Nat) (f : PortSt → PortSt) : (s.setPort p f).ft = s.ft := rfl
@[simp] theorem State.setPort_aon (s : State) (p : Nat) (f : PortSt → PortSt) : (s.setPort p f).aon = s.aon := rfl
@[simp] theorem State.setPort_regs (s : State) (p : Nat) (f : PortSt → PortSt) : (s.setPort p f).regs = s.regs := rfl
@[simp] theorem State.setPort_mem (s : State) (p : Nat) (f : PortSt → PortSt) : (s.setPort p f).mem = s.mem := rfl
@[simp] theorem State.setPort_ecc (s : State) (p : Nat) (f : PortSt → PortSt) : (s.setPort p f).ecc = s.ecc := rfl
@[simp] theorem State.setPort_upsets (s : State) (p : Nat) (f : PortSt → PortSt) : (s.setPort p f).upsets = s.upsets := rfl
@[simp] theorem State.setPort_wcb (s : State) (p : Nat) (f : PortSt → PortSt) : (s.setPort p f).wcb = s.wcb := rfl
@[simp] theorem State.setPort_failedFills (s : State) (p : Nat) (f : PortSt → PortSt) : (s.setPort p f).failedFills = s.failedFills := rfl
@[simp] theorem State.setPort_clean (s : State) (p : Nat) (f : PortSt → PortSt) : (s.setPort p f).clean = s.clean := rfl
@[simp] theorem State.setPort_flash (s : State) (p : Nat) (f : PortSt → PortSt) : (s.setPort p f).flash = s.flash := rfl
@[simp] theorem State.setPort_queues (s : State) (p : Nat) (f : PortSt → PortSt) : (s.setPort p f).queues = s.queues := rfl
@[simp] theorem State.setPort_units (s : State) (p : Nat) (f : PortSt → PortSt) : (s.setPort p f).units = s.units := rfl
@[simp] theorem State.setPort_engs (s : State) (p : Nat) (f : PortSt → PortSt) : (s.setPort p f).engs = s.engs := rfl
@[simp] theorem State.setPort_ctxs (s : State) (p : Nat) (f : PortSt → PortSt) : (s.setPort p f).ctxs = s.ctxs := rfl
@[simp] theorem State.setPort_rings (s : State) (p : Nat) (f : PortSt → PortSt) : (s.setPort p f).rings = s.rings := rfl
@[simp] theorem State.setPort_tc (s : State) (p : Nat) (f : PortSt → PortSt) : (s.setPort p f).tc = s.tc := rfl
@[simp] theorem State.setPort_invals (s : State) (p : Nat) (f : PortSt → PortSt) : (s.setPort p f).invals = s.invals := rfl
@[simp] theorem State.setPort_pwr (s : State) (p : Nat) (f : PortSt → PortSt) : (s.setPort p f).pwr = s.pwr := rfl
@[simp] theorem State.setPort_energy (s : State) (p : Nat) (f : PortSt → PortSt) : (s.setPort p f).energy = s.energy := rfl
@[simp] theorem State.setPort_energyAt (s : State) (p : Nat) (f : PortSt → PortSt) : (s.setPort p f).energyAt = s.energyAt := rfl
@[simp] theorem State.setPort_energyEnd (s : State) (p : Nat) (f : PortSt → PortSt) : (s.setPort p f).energyEnd = s.energyEnd := rfl
@[simp] theorem State.setPort_asleep (s : State) (p : Nat) (f : PortSt → PortSt) : (s.setPort p f).asleep = s.asleep := rfl
@[simp] theorem State.setPort_stackUse (s : State) (p : Nat) (f : PortSt → PortSt) : (s.setPort p f).stackUse = s.stackUse := rfl
@[simp] theorem State.setPort_boot (s : State) (p : Nat) (f : PortSt → PortSt) : (s.setPort p f).boot = s.boot := rfl
@[simp] theorem State.setPort_sec (s : State) (p : Nat) (f : PortSt → PortSt) : (s.setPort p f).sec = s.sec := rfl
@[simp] theorem State.setPort_pins (s : State) (p : Nat) (f : PortSt → PortSt) : (s.setPort p f).pins = s.pins := rfl
@[simp] theorem State.setPort_mgmt (s : State) (p : Nat) (f : PortSt → PortSt) : (s.setPort p f).mgmt = s.mgmt := rfl
@[simp] theorem State.setPort_svnMin (s : State) (p : Nat) (f : PortSt → PortSt) : (s.setPort p f).svnMin = s.svnMin := rfl
@[simp] theorem State.setPort_revoked (s : State) (p : Nat) (f : PortSt → PortSt) : (s.setPort p f).revoked = s.revoked := rfl
@[simp] theorem State.setPort_bridges (s : State) (p : Nat) (f : PortSt → PortSt) : (s.setPort p f).bridges = s.bridges := rfl
@[simp] theorem State.setPort_ftu (s : State) (p : Nat) (f : PortSt → PortSt) : (s.setPort p f).ftu = s.ftu := rfl
@[simp] theorem State.setPort_ports (s : State) (p : Nat) (f : PortSt → PortSt) : (s.setPort p f).ports = modAt f s.ports p := rfl
@[simp] theorem State.setPort_routes (s : State) (p : Nat) (f : PortSt → PortSt) : (s.setPort p f).routes = s.routes := rfl
@[simp] theorem State.setPort_bias (s : State) (p : Nat) (f : PortSt → PortSt) : (s.setPort p f).bias = s.bias := rfl
@[simp] theorem State.setPort_hcx (s : State) (p : Nat) (f : PortSt → PortSt) : (s.setPort p f).hcx = s.hcx := rfl
@[simp] theorem State.setPort_tags (s : State) (p : Nat) (f : PortSt → PortSt) : (s.setPort p f).tags = s.tags := rfl
@[simp] theorem State.setPort_nodes (s : State) (p : Nat) (f : PortSt → PortSt) : (s.setPort p f).nodes = s.nodes := rfl
@[simp] theorem State.setPort_rx (s : State) (p : Nat) (f : PortSt → PortSt) : (s.setPort p f).rx = s.rx := rfl
@[simp] theorem State.setPort_regions (s : State) (p : Nat) (f : PortSt → PortSt) : (s.setPort p f).regions = s.regions := rfl
@[simp] theorem State.setPort_uuTables (s : State) (p : Nat) (f : PortSt → PortSt) : (s.setPort p f).uuTables = s.uuTables := rfl
@[simp] theorem State.setPort_cmps (s : State) (p : Nat) (f : PortSt → PortSt) : (s.setPort p f).cmps = s.cmps := rfl
@[simp] theorem State.setPort_exports (s : State) (p : Nat) (f : PortSt → PortSt) : (s.setPort p f).exports = s.exports := rfl
@[simp] theorem State.setPort_interrupts (s : State) (p : Nat) (f : PortSt → PortSt) : (s.setPort p f).interrupts = s.interrupts := rfl
@[simp] theorem State.setPort_resp (s : State) (p : Nat) (f : PortSt → PortSt) : (s.setPort p f).resp = s.resp := rfl
@[simp] theorem State.setPort_freeCount (s : State) (p : Nat) (f : PortSt → PortSt) : (s.setPort p f).freeCount = s.freeCount := rfl
@[simp] theorem State.setPort_reg (s : State) (p : Nat) (f : PortSt → PortSt) (r' : Reg) (d' k' : Nat) : (s.setPort p f).reg r' d' k' = s.reg r' d' k' := rfl
@[simp] theorem State.setPort_ctx (s : State) (p : Nat) (f : PortSt → PortSt) (i : Nat) : (s.setPort p f).ctx i = s.ctx i := rfl
@[simp] theorem State.setPort_unit (s : State) (p : Nat) (f : PortSt → PortSt) (i : Nat) : (s.setPort p f).unit i = s.unit i := rfl
@[simp] theorem State.setPort_eng (s : State) (p : Nat) (f : PortSt → PortSt) (i : Nat) : (s.setPort p f).eng i = s.eng i := rfl
@[simp] theorem State.setPort_queue (s : State) (p : Nat) (f : PortSt → PortSt) (i : QueueId) : (s.setPort p f).queue i = s.queue i := rfl
@[simp] theorem State.setPort_die (s : State) (p : Nat) (f : PortSt → PortSt) (i : Nat) : (s.setPort p f).die i = s.die i := rfl
@[simp] theorem State.setPort_ring (s : State) (p : Nat) (f : PortSt → PortSt) (i : Nat) : (s.setPort p f).ring i = s.ring i := rfl
@[simp] theorem State.setPort_bridge (s : State) (p : Nat) (f : PortSt → PortSt) (i j : Nat) : (s.setPort p f).bridge i j = s.bridge i j := rfl

/-! setEntry -/

@[simp] theorem State.setEntry_pending (s : State) (ln : Nat) (w : Wcb) : (s.setEntry ln w).pending = s.pending := rfl
@[simp] theorem State.setEntry_ft (s : State) (ln : Nat) (w : Wcb) : (s.setEntry ln w).ft = s.ft := rfl
@[simp] theorem State.setEntry_aon (s : State) (ln : Nat) (w : Wcb) : (s.setEntry ln w).aon = s.aon := rfl
@[simp] theorem State.setEntry_regs (s : State) (ln : Nat) (w : Wcb) : (s.setEntry ln w).regs = s.regs := rfl
@[simp] theorem State.setEntry_mem (s : State) (ln : Nat) (w : Wcb) : (s.setEntry ln w).mem = s.mem := rfl
@[simp] theorem State.setEntry_ecc (s : State) (ln : Nat) (w : Wcb) : (s.setEntry ln w).ecc = s.ecc := rfl
@[simp] theorem State.setEntry_upsets (s : State) (ln : Nat) (w : Wcb) : (s.setEntry ln w).upsets = s.upsets := rfl
@[simp] theorem State.setEntry_wcb (s : State) (ln : Nat) (w : Wcb) : (s.setEntry ln w).wcb = setKey s.wcb ln w := rfl
@[simp] theorem State.setEntry_failedFills (s : State) (ln : Nat) (w : Wcb) : (s.setEntry ln w).failedFills = s.failedFills := rfl
@[simp] theorem State.setEntry_clean (s : State) (ln : Nat) (w : Wcb) : (s.setEntry ln w).clean = s.clean := rfl
@[simp] theorem State.setEntry_flash (s : State) (ln : Nat) (w : Wcb) : (s.setEntry ln w).flash = s.flash := rfl
@[simp] theorem State.setEntry_queues (s : State) (ln : Nat) (w : Wcb) : (s.setEntry ln w).queues = s.queues := rfl
@[simp] theorem State.setEntry_units (s : State) (ln : Nat) (w : Wcb) : (s.setEntry ln w).units = s.units := rfl
@[simp] theorem State.setEntry_engs (s : State) (ln : Nat) (w : Wcb) : (s.setEntry ln w).engs = s.engs := rfl
@[simp] theorem State.setEntry_ctxs (s : State) (ln : Nat) (w : Wcb) : (s.setEntry ln w).ctxs = s.ctxs := rfl
@[simp] theorem State.setEntry_rings (s : State) (ln : Nat) (w : Wcb) : (s.setEntry ln w).rings = s.rings := rfl
@[simp] theorem State.setEntry_tc (s : State) (ln : Nat) (w : Wcb) : (s.setEntry ln w).tc = s.tc := rfl
@[simp] theorem State.setEntry_invals (s : State) (ln : Nat) (w : Wcb) : (s.setEntry ln w).invals = s.invals := rfl
@[simp] theorem State.setEntry_pwr (s : State) (ln : Nat) (w : Wcb) : (s.setEntry ln w).pwr = s.pwr := rfl
@[simp] theorem State.setEntry_energy (s : State) (ln : Nat) (w : Wcb) : (s.setEntry ln w).energy = s.energy := rfl
@[simp] theorem State.setEntry_energyAt (s : State) (ln : Nat) (w : Wcb) : (s.setEntry ln w).energyAt = s.energyAt := rfl
@[simp] theorem State.setEntry_energyEnd (s : State) (ln : Nat) (w : Wcb) : (s.setEntry ln w).energyEnd = s.energyEnd := rfl
@[simp] theorem State.setEntry_asleep (s : State) (ln : Nat) (w : Wcb) : (s.setEntry ln w).asleep = s.asleep := rfl
@[simp] theorem State.setEntry_stackUse (s : State) (ln : Nat) (w : Wcb) : (s.setEntry ln w).stackUse = s.stackUse := rfl
@[simp] theorem State.setEntry_boot (s : State) (ln : Nat) (w : Wcb) : (s.setEntry ln w).boot = s.boot := rfl
@[simp] theorem State.setEntry_sec (s : State) (ln : Nat) (w : Wcb) : (s.setEntry ln w).sec = s.sec := rfl
@[simp] theorem State.setEntry_pins (s : State) (ln : Nat) (w : Wcb) : (s.setEntry ln w).pins = s.pins := rfl
@[simp] theorem State.setEntry_mgmt (s : State) (ln : Nat) (w : Wcb) : (s.setEntry ln w).mgmt = s.mgmt := rfl
@[simp] theorem State.setEntry_svnMin (s : State) (ln : Nat) (w : Wcb) : (s.setEntry ln w).svnMin = s.svnMin := rfl
@[simp] theorem State.setEntry_revoked (s : State) (ln : Nat) (w : Wcb) : (s.setEntry ln w).revoked = s.revoked := rfl
@[simp] theorem State.setEntry_bridges (s : State) (ln : Nat) (w : Wcb) : (s.setEntry ln w).bridges = s.bridges := rfl
@[simp] theorem State.setEntry_ftu (s : State) (ln : Nat) (w : Wcb) : (s.setEntry ln w).ftu = s.ftu := rfl
@[simp] theorem State.setEntry_ports (s : State) (ln : Nat) (w : Wcb) : (s.setEntry ln w).ports = s.ports := rfl
@[simp] theorem State.setEntry_routes (s : State) (ln : Nat) (w : Wcb) : (s.setEntry ln w).routes = s.routes := rfl
@[simp] theorem State.setEntry_bias (s : State) (ln : Nat) (w : Wcb) : (s.setEntry ln w).bias = s.bias := rfl
@[simp] theorem State.setEntry_hcx (s : State) (ln : Nat) (w : Wcb) : (s.setEntry ln w).hcx = s.hcx := rfl
@[simp] theorem State.setEntry_tags (s : State) (ln : Nat) (w : Wcb) : (s.setEntry ln w).tags = s.tags := rfl
@[simp] theorem State.setEntry_nodes (s : State) (ln : Nat) (w : Wcb) : (s.setEntry ln w).nodes = s.nodes := rfl
@[simp] theorem State.setEntry_rx (s : State) (ln : Nat) (w : Wcb) : (s.setEntry ln w).rx = s.rx := rfl
@[simp] theorem State.setEntry_regions (s : State) (ln : Nat) (w : Wcb) : (s.setEntry ln w).regions = s.regions := rfl
@[simp] theorem State.setEntry_uuTables (s : State) (ln : Nat) (w : Wcb) : (s.setEntry ln w).uuTables = s.uuTables := rfl
@[simp] theorem State.setEntry_cmps (s : State) (ln : Nat) (w : Wcb) : (s.setEntry ln w).cmps = s.cmps := rfl
@[simp] theorem State.setEntry_exports (s : State) (ln : Nat) (w : Wcb) : (s.setEntry ln w).exports = s.exports := rfl
@[simp] theorem State.setEntry_interrupts (s : State) (ln : Nat) (w : Wcb) : (s.setEntry ln w).interrupts = s.interrupts := rfl
@[simp] theorem State.setEntry_resp (s : State) (ln : Nat) (w : Wcb) : (s.setEntry ln w).resp = s.resp := rfl
@[simp] theorem State.setEntry_freeCount (s : State) (ln : Nat) (w : Wcb) : (s.setEntry ln w).freeCount = s.freeCount := rfl
@[simp] theorem State.setEntry_reg (s : State) (ln : Nat) (w : Wcb) (r' : Reg) (d' k' : Nat) : (s.setEntry ln w).reg r' d' k' = s.reg r' d' k' := rfl
@[simp] theorem State.setEntry_ctx (s : State) (ln : Nat) (w : Wcb) (i : Nat) : (s.setEntry ln w).ctx i = s.ctx i := rfl
@[simp] theorem State.setEntry_unit (s : State) (ln : Nat) (w : Wcb) (i : Nat) : (s.setEntry ln w).unit i = s.unit i := rfl
@[simp] theorem State.setEntry_eng (s : State) (ln : Nat) (w : Wcb) (i : Nat) : (s.setEntry ln w).eng i = s.eng i := rfl
@[simp] theorem State.setEntry_queue (s : State) (ln : Nat) (w : Wcb) (i : QueueId) : (s.setEntry ln w).queue i = s.queue i := rfl
@[simp] theorem State.setEntry_die (s : State) (ln : Nat) (w : Wcb) (i : Nat) : (s.setEntry ln w).die i = s.die i := rfl
@[simp] theorem State.setEntry_ring (s : State) (ln : Nat) (w : Wcb) (i : Nat) : (s.setEntry ln w).ring i = s.ring i := rfl
@[simp] theorem State.setEntry_bridge (s : State) (ln : Nat) (w : Wcb) (i j : Nat) : (s.setEntry ln w).bridge i j = s.bridge i j := rfl
@[simp] theorem State.setEntry_port (s : State) (ln : Nat) (w : Wcb) (i : Nat) : (s.setEntry ln w).port i = s.port i := rfl

/-! setHcx -/

@[simp] theorem State.setHcx_pending (s : State) (f : Hcx → Hcx) : (s.setHcx f).pending = s.pending := rfl
@[simp] theorem State.setHcx_ft (s : State) (f : Hcx → Hcx) : (s.setHcx f).ft = s.ft := rfl
@[simp] theorem State.setHcx_aon (s : State) (f : Hcx → Hcx) : (s.setHcx f).aon = s.aon := rfl
@[simp] theorem State.setHcx_regs (s : State) (f : Hcx → Hcx) : (s.setHcx f).regs = s.regs := rfl
@[simp] theorem State.setHcx_mem (s : State) (f : Hcx → Hcx) : (s.setHcx f).mem = s.mem := rfl
@[simp] theorem State.setHcx_ecc (s : State) (f : Hcx → Hcx) : (s.setHcx f).ecc = s.ecc := rfl
@[simp] theorem State.setHcx_upsets (s : State) (f : Hcx → Hcx) : (s.setHcx f).upsets = s.upsets := rfl
@[simp] theorem State.setHcx_wcb (s : State) (f : Hcx → Hcx) : (s.setHcx f).wcb = s.wcb := rfl
@[simp] theorem State.setHcx_failedFills (s : State) (f : Hcx → Hcx) : (s.setHcx f).failedFills = s.failedFills := rfl
@[simp] theorem State.setHcx_clean (s : State) (f : Hcx → Hcx) : (s.setHcx f).clean = s.clean := rfl
@[simp] theorem State.setHcx_flash (s : State) (f : Hcx → Hcx) : (s.setHcx f).flash = s.flash := rfl
@[simp] theorem State.setHcx_queues (s : State) (f : Hcx → Hcx) : (s.setHcx f).queues = s.queues := rfl
@[simp] theorem State.setHcx_units (s : State) (f : Hcx → Hcx) : (s.setHcx f).units = s.units := rfl
@[simp] theorem State.setHcx_engs (s : State) (f : Hcx → Hcx) : (s.setHcx f).engs = s.engs := rfl
@[simp] theorem State.setHcx_ctxs (s : State) (f : Hcx → Hcx) : (s.setHcx f).ctxs = s.ctxs := rfl
@[simp] theorem State.setHcx_rings (s : State) (f : Hcx → Hcx) : (s.setHcx f).rings = s.rings := rfl
@[simp] theorem State.setHcx_tc (s : State) (f : Hcx → Hcx) : (s.setHcx f).tc = s.tc := rfl
@[simp] theorem State.setHcx_invals (s : State) (f : Hcx → Hcx) : (s.setHcx f).invals = s.invals := rfl
@[simp] theorem State.setHcx_pwr (s : State) (f : Hcx → Hcx) : (s.setHcx f).pwr = s.pwr := rfl
@[simp] theorem State.setHcx_energy (s : State) (f : Hcx → Hcx) : (s.setHcx f).energy = s.energy := rfl
@[simp] theorem State.setHcx_energyAt (s : State) (f : Hcx → Hcx) : (s.setHcx f).energyAt = s.energyAt := rfl
@[simp] theorem State.setHcx_energyEnd (s : State) (f : Hcx → Hcx) : (s.setHcx f).energyEnd = s.energyEnd := rfl
@[simp] theorem State.setHcx_asleep (s : State) (f : Hcx → Hcx) : (s.setHcx f).asleep = s.asleep := rfl
@[simp] theorem State.setHcx_stackUse (s : State) (f : Hcx → Hcx) : (s.setHcx f).stackUse = s.stackUse := rfl
@[simp] theorem State.setHcx_boot (s : State) (f : Hcx → Hcx) : (s.setHcx f).boot = s.boot := rfl
@[simp] theorem State.setHcx_sec (s : State) (f : Hcx → Hcx) : (s.setHcx f).sec = s.sec := rfl
@[simp] theorem State.setHcx_pins (s : State) (f : Hcx → Hcx) : (s.setHcx f).pins = s.pins := rfl
@[simp] theorem State.setHcx_mgmt (s : State) (f : Hcx → Hcx) : (s.setHcx f).mgmt = s.mgmt := rfl
@[simp] theorem State.setHcx_svnMin (s : State) (f : Hcx → Hcx) : (s.setHcx f).svnMin = s.svnMin := rfl
@[simp] theorem State.setHcx_revoked (s : State) (f : Hcx → Hcx) : (s.setHcx f).revoked = s.revoked := rfl
@[simp] theorem State.setHcx_bridges (s : State) (f : Hcx → Hcx) : (s.setHcx f).bridges = s.bridges := rfl
@[simp] theorem State.setHcx_ftu (s : State) (f : Hcx → Hcx) : (s.setHcx f).ftu = s.ftu := rfl
@[simp] theorem State.setHcx_ports (s : State) (f : Hcx → Hcx) : (s.setHcx f).ports = s.ports := rfl
@[simp] theorem State.setHcx_routes (s : State) (f : Hcx → Hcx) : (s.setHcx f).routes = s.routes := rfl
@[simp] theorem State.setHcx_bias (s : State) (f : Hcx → Hcx) : (s.setHcx f).bias = s.bias := rfl
@[simp] theorem State.setHcx_hcx (s : State) (f : Hcx → Hcx) : (s.setHcx f).hcx = f s.hcx := rfl
@[simp] theorem State.setHcx_tags (s : State) (f : Hcx → Hcx) : (s.setHcx f).tags = s.tags := rfl
@[simp] theorem State.setHcx_nodes (s : State) (f : Hcx → Hcx) : (s.setHcx f).nodes = s.nodes := rfl
@[simp] theorem State.setHcx_rx (s : State) (f : Hcx → Hcx) : (s.setHcx f).rx = s.rx := rfl
@[simp] theorem State.setHcx_regions (s : State) (f : Hcx → Hcx) : (s.setHcx f).regions = s.regions := rfl
@[simp] theorem State.setHcx_uuTables (s : State) (f : Hcx → Hcx) : (s.setHcx f).uuTables = s.uuTables := rfl
@[simp] theorem State.setHcx_cmps (s : State) (f : Hcx → Hcx) : (s.setHcx f).cmps = s.cmps := rfl
@[simp] theorem State.setHcx_exports (s : State) (f : Hcx → Hcx) : (s.setHcx f).exports = s.exports := rfl
@[simp] theorem State.setHcx_interrupts (s : State) (f : Hcx → Hcx) : (s.setHcx f).interrupts = s.interrupts := rfl
@[simp] theorem State.setHcx_resp (s : State) (f : Hcx → Hcx) : (s.setHcx f).resp = s.resp := rfl
@[simp] theorem State.setHcx_freeCount (s : State) (f : Hcx → Hcx) : (s.setHcx f).freeCount = s.freeCount := rfl
@[simp] theorem State.setHcx_reg (s : State) (f : Hcx → Hcx) (r' : Reg) (d' k' : Nat) : (s.setHcx f).reg r' d' k' = s.reg r' d' k' := rfl
@[simp] theorem State.setHcx_ctx (s : State) (f : Hcx → Hcx) (i : Nat) : (s.setHcx f).ctx i = s.ctx i := rfl
@[simp] theorem State.setHcx_unit (s : State) (f : Hcx → Hcx) (i : Nat) : (s.setHcx f).unit i = s.unit i := rfl
@[simp] theorem State.setHcx_eng (s : State) (f : Hcx → Hcx) (i : Nat) : (s.setHcx f).eng i = s.eng i := rfl
@[simp] theorem State.setHcx_queue (s : State) (f : Hcx → Hcx) (i : QueueId) : (s.setHcx f).queue i = s.queue i := rfl
@[simp] theorem State.setHcx_die (s : State) (f : Hcx → Hcx) (i : Nat) : (s.setHcx f).die i = s.die i := rfl
@[simp] theorem State.setHcx_ring (s : State) (f : Hcx → Hcx) (i : Nat) : (s.setHcx f).ring i = s.ring i := rfl
@[simp] theorem State.setHcx_bridge (s : State) (f : Hcx → Hcx) (i j : Nat) : (s.setHcx f).bridge i j = s.bridge i j := rfl
@[simp] theorem State.setHcx_port (s : State) (f : Hcx → Hcx) (i : Nat) : (s.setHcx f).port i = s.port i := rfl

/-! setMgmt -/

@[simp] theorem State.setMgmt_pending (s : State) (f : Mgmt → Mgmt) : (s.setMgmt f).pending = s.pending := rfl
@[simp] theorem State.setMgmt_ft (s : State) (f : Mgmt → Mgmt) : (s.setMgmt f).ft = s.ft := rfl
@[simp] theorem State.setMgmt_aon (s : State) (f : Mgmt → Mgmt) : (s.setMgmt f).aon = s.aon := rfl
@[simp] theorem State.setMgmt_regs (s : State) (f : Mgmt → Mgmt) : (s.setMgmt f).regs = s.regs := rfl
@[simp] theorem State.setMgmt_mem (s : State) (f : Mgmt → Mgmt) : (s.setMgmt f).mem = s.mem := rfl
@[simp] theorem State.setMgmt_ecc (s : State) (f : Mgmt → Mgmt) : (s.setMgmt f).ecc = s.ecc := rfl
@[simp] theorem State.setMgmt_upsets (s : State) (f : Mgmt → Mgmt) : (s.setMgmt f).upsets = s.upsets := rfl
@[simp] theorem State.setMgmt_wcb (s : State) (f : Mgmt → Mgmt) : (s.setMgmt f).wcb = s.wcb := rfl
@[simp] theorem State.setMgmt_failedFills (s : State) (f : Mgmt → Mgmt) : (s.setMgmt f).failedFills = s.failedFills := rfl
@[simp] theorem State.setMgmt_clean (s : State) (f : Mgmt → Mgmt) : (s.setMgmt f).clean = s.clean := rfl
@[simp] theorem State.setMgmt_flash (s : State) (f : Mgmt → Mgmt) : (s.setMgmt f).flash = s.flash := rfl
@[simp] theorem State.setMgmt_queues (s : State) (f : Mgmt → Mgmt) : (s.setMgmt f).queues = s.queues := rfl
@[simp] theorem State.setMgmt_units (s : State) (f : Mgmt → Mgmt) : (s.setMgmt f).units = s.units := rfl
@[simp] theorem State.setMgmt_engs (s : State) (f : Mgmt → Mgmt) : (s.setMgmt f).engs = s.engs := rfl
@[simp] theorem State.setMgmt_ctxs (s : State) (f : Mgmt → Mgmt) : (s.setMgmt f).ctxs = s.ctxs := rfl
@[simp] theorem State.setMgmt_rings (s : State) (f : Mgmt → Mgmt) : (s.setMgmt f).rings = s.rings := rfl
@[simp] theorem State.setMgmt_tc (s : State) (f : Mgmt → Mgmt) : (s.setMgmt f).tc = s.tc := rfl
@[simp] theorem State.setMgmt_invals (s : State) (f : Mgmt → Mgmt) : (s.setMgmt f).invals = s.invals := rfl
@[simp] theorem State.setMgmt_pwr (s : State) (f : Mgmt → Mgmt) : (s.setMgmt f).pwr = s.pwr := rfl
@[simp] theorem State.setMgmt_energy (s : State) (f : Mgmt → Mgmt) : (s.setMgmt f).energy = s.energy := rfl
@[simp] theorem State.setMgmt_energyAt (s : State) (f : Mgmt → Mgmt) : (s.setMgmt f).energyAt = s.energyAt := rfl
@[simp] theorem State.setMgmt_energyEnd (s : State) (f : Mgmt → Mgmt) : (s.setMgmt f).energyEnd = s.energyEnd := rfl
@[simp] theorem State.setMgmt_asleep (s : State) (f : Mgmt → Mgmt) : (s.setMgmt f).asleep = s.asleep := rfl
@[simp] theorem State.setMgmt_stackUse (s : State) (f : Mgmt → Mgmt) : (s.setMgmt f).stackUse = s.stackUse := rfl
@[simp] theorem State.setMgmt_boot (s : State) (f : Mgmt → Mgmt) : (s.setMgmt f).boot = s.boot := rfl
@[simp] theorem State.setMgmt_sec (s : State) (f : Mgmt → Mgmt) : (s.setMgmt f).sec = s.sec := rfl
@[simp] theorem State.setMgmt_pins (s : State) (f : Mgmt → Mgmt) : (s.setMgmt f).pins = s.pins := rfl
@[simp] theorem State.setMgmt_mgmt (s : State) (f : Mgmt → Mgmt) : (s.setMgmt f).mgmt = f s.mgmt := rfl
@[simp] theorem State.setMgmt_svnMin (s : State) (f : Mgmt → Mgmt) : (s.setMgmt f).svnMin = s.svnMin := rfl
@[simp] theorem State.setMgmt_revoked (s : State) (f : Mgmt → Mgmt) : (s.setMgmt f).revoked = s.revoked := rfl
@[simp] theorem State.setMgmt_bridges (s : State) (f : Mgmt → Mgmt) : (s.setMgmt f).bridges = s.bridges := rfl
@[simp] theorem State.setMgmt_ftu (s : State) (f : Mgmt → Mgmt) : (s.setMgmt f).ftu = s.ftu := rfl
@[simp] theorem State.setMgmt_ports (s : State) (f : Mgmt → Mgmt) : (s.setMgmt f).ports = s.ports := rfl
@[simp] theorem State.setMgmt_routes (s : State) (f : Mgmt → Mgmt) : (s.setMgmt f).routes = s.routes := rfl
@[simp] theorem State.setMgmt_bias (s : State) (f : Mgmt → Mgmt) : (s.setMgmt f).bias = s.bias := rfl
@[simp] theorem State.setMgmt_hcx (s : State) (f : Mgmt → Mgmt) : (s.setMgmt f).hcx = s.hcx := rfl
@[simp] theorem State.setMgmt_tags (s : State) (f : Mgmt → Mgmt) : (s.setMgmt f).tags = s.tags := rfl
@[simp] theorem State.setMgmt_nodes (s : State) (f : Mgmt → Mgmt) : (s.setMgmt f).nodes = s.nodes := rfl
@[simp] theorem State.setMgmt_rx (s : State) (f : Mgmt → Mgmt) : (s.setMgmt f).rx = s.rx := rfl
@[simp] theorem State.setMgmt_regions (s : State) (f : Mgmt → Mgmt) : (s.setMgmt f).regions = s.regions := rfl
@[simp] theorem State.setMgmt_uuTables (s : State) (f : Mgmt → Mgmt) : (s.setMgmt f).uuTables = s.uuTables := rfl
@[simp] theorem State.setMgmt_cmps (s : State) (f : Mgmt → Mgmt) : (s.setMgmt f).cmps = s.cmps := rfl
@[simp] theorem State.setMgmt_exports (s : State) (f : Mgmt → Mgmt) : (s.setMgmt f).exports = s.exports := rfl
@[simp] theorem State.setMgmt_interrupts (s : State) (f : Mgmt → Mgmt) : (s.setMgmt f).interrupts = s.interrupts := rfl
@[simp] theorem State.setMgmt_resp (s : State) (f : Mgmt → Mgmt) : (s.setMgmt f).resp = s.resp := rfl
@[simp] theorem State.setMgmt_freeCount (s : State) (f : Mgmt → Mgmt) : (s.setMgmt f).freeCount = s.freeCount := rfl
@[simp] theorem State.setMgmt_reg (s : State) (f : Mgmt → Mgmt) (r' : Reg) (d' k' : Nat) : (s.setMgmt f).reg r' d' k' = s.reg r' d' k' := rfl
@[simp] theorem State.setMgmt_ctx (s : State) (f : Mgmt → Mgmt) (i : Nat) : (s.setMgmt f).ctx i = s.ctx i := rfl
@[simp] theorem State.setMgmt_unit (s : State) (f : Mgmt → Mgmt) (i : Nat) : (s.setMgmt f).unit i = s.unit i := rfl
@[simp] theorem State.setMgmt_eng (s : State) (f : Mgmt → Mgmt) (i : Nat) : (s.setMgmt f).eng i = s.eng i := rfl
@[simp] theorem State.setMgmt_queue (s : State) (f : Mgmt → Mgmt) (i : QueueId) : (s.setMgmt f).queue i = s.queue i := rfl
@[simp] theorem State.setMgmt_die (s : State) (f : Mgmt → Mgmt) (i : Nat) : (s.setMgmt f).die i = s.die i := rfl
@[simp] theorem State.setMgmt_ring (s : State) (f : Mgmt → Mgmt) (i : Nat) : (s.setMgmt f).ring i = s.ring i := rfl
@[simp] theorem State.setMgmt_bridge (s : State) (f : Mgmt → Mgmt) (i j : Nat) : (s.setMgmt f).bridge i j = s.bridge i j := rfl
@[simp] theorem State.setMgmt_port (s : State) (f : Mgmt → Mgmt) (i : Nat) : (s.setMgmt f).port i = s.port i := rfl

/-! setSec -/

@[simp] theorem State.setSec_pending (s : State) (f : Sec → Sec) : (s.setSec f).pending = s.pending := rfl
@[simp] theorem State.setSec_ft (s : State) (f : Sec → Sec) : (s.setSec f).ft = s.ft := rfl
@[simp] theorem State.setSec_aon (s : State) (f : Sec → Sec) : (s.setSec f).aon = s.aon := rfl
@[simp] theorem State.setSec_regs (s : State) (f : Sec → Sec) : (s.setSec f).regs = s.regs := rfl
@[simp] theorem State.setSec_mem (s : State) (f : Sec → Sec) : (s.setSec f).mem = s.mem := rfl
@[simp] theorem State.setSec_ecc (s : State) (f : Sec → Sec) : (s.setSec f).ecc = s.ecc := rfl
@[simp] theorem State.setSec_upsets (s : State) (f : Sec → Sec) : (s.setSec f).upsets = s.upsets := rfl
@[simp] theorem State.setSec_wcb (s : State) (f : Sec → Sec) : (s.setSec f).wcb = s.wcb := rfl
@[simp] theorem State.setSec_failedFills (s : State) (f : Sec → Sec) : (s.setSec f).failedFills = s.failedFills := rfl
@[simp] theorem State.setSec_clean (s : State) (f : Sec → Sec) : (s.setSec f).clean = s.clean := rfl
@[simp] theorem State.setSec_flash (s : State) (f : Sec → Sec) : (s.setSec f).flash = s.flash := rfl
@[simp] theorem State.setSec_queues (s : State) (f : Sec → Sec) : (s.setSec f).queues = s.queues := rfl
@[simp] theorem State.setSec_units (s : State) (f : Sec → Sec) : (s.setSec f).units = s.units := rfl
@[simp] theorem State.setSec_engs (s : State) (f : Sec → Sec) : (s.setSec f).engs = s.engs := rfl
@[simp] theorem State.setSec_ctxs (s : State) (f : Sec → Sec) : (s.setSec f).ctxs = s.ctxs := rfl
@[simp] theorem State.setSec_rings (s : State) (f : Sec → Sec) : (s.setSec f).rings = s.rings := rfl
@[simp] theorem State.setSec_tc (s : State) (f : Sec → Sec) : (s.setSec f).tc = s.tc := rfl
@[simp] theorem State.setSec_invals (s : State) (f : Sec → Sec) : (s.setSec f).invals = s.invals := rfl
@[simp] theorem State.setSec_pwr (s : State) (f : Sec → Sec) : (s.setSec f).pwr = s.pwr := rfl
@[simp] theorem State.setSec_energy (s : State) (f : Sec → Sec) : (s.setSec f).energy = s.energy := rfl
@[simp] theorem State.setSec_energyAt (s : State) (f : Sec → Sec) : (s.setSec f).energyAt = s.energyAt := rfl
@[simp] theorem State.setSec_energyEnd (s : State) (f : Sec → Sec) : (s.setSec f).energyEnd = s.energyEnd := rfl
@[simp] theorem State.setSec_asleep (s : State) (f : Sec → Sec) : (s.setSec f).asleep = s.asleep := rfl
@[simp] theorem State.setSec_stackUse (s : State) (f : Sec → Sec) : (s.setSec f).stackUse = s.stackUse := rfl
@[simp] theorem State.setSec_boot (s : State) (f : Sec → Sec) : (s.setSec f).boot = s.boot := rfl
@[simp] theorem State.setSec_sec (s : State) (f : Sec → Sec) : (s.setSec f).sec = f s.sec := rfl
@[simp] theorem State.setSec_pins (s : State) (f : Sec → Sec) : (s.setSec f).pins = s.pins := rfl
@[simp] theorem State.setSec_mgmt (s : State) (f : Sec → Sec) : (s.setSec f).mgmt = s.mgmt := rfl
@[simp] theorem State.setSec_svnMin (s : State) (f : Sec → Sec) : (s.setSec f).svnMin = s.svnMin := rfl
@[simp] theorem State.setSec_revoked (s : State) (f : Sec → Sec) : (s.setSec f).revoked = s.revoked := rfl
@[simp] theorem State.setSec_bridges (s : State) (f : Sec → Sec) : (s.setSec f).bridges = s.bridges := rfl
@[simp] theorem State.setSec_ftu (s : State) (f : Sec → Sec) : (s.setSec f).ftu = s.ftu := rfl
@[simp] theorem State.setSec_ports (s : State) (f : Sec → Sec) : (s.setSec f).ports = s.ports := rfl
@[simp] theorem State.setSec_routes (s : State) (f : Sec → Sec) : (s.setSec f).routes = s.routes := rfl
@[simp] theorem State.setSec_bias (s : State) (f : Sec → Sec) : (s.setSec f).bias = s.bias := rfl
@[simp] theorem State.setSec_hcx (s : State) (f : Sec → Sec) : (s.setSec f).hcx = s.hcx := rfl
@[simp] theorem State.setSec_tags (s : State) (f : Sec → Sec) : (s.setSec f).tags = s.tags := rfl
@[simp] theorem State.setSec_nodes (s : State) (f : Sec → Sec) : (s.setSec f).nodes = s.nodes := rfl
@[simp] theorem State.setSec_rx (s : State) (f : Sec → Sec) : (s.setSec f).rx = s.rx := rfl
@[simp] theorem State.setSec_regions (s : State) (f : Sec → Sec) : (s.setSec f).regions = s.regions := rfl
@[simp] theorem State.setSec_uuTables (s : State) (f : Sec → Sec) : (s.setSec f).uuTables = s.uuTables := rfl
@[simp] theorem State.setSec_cmps (s : State) (f : Sec → Sec) : (s.setSec f).cmps = s.cmps := rfl
@[simp] theorem State.setSec_exports (s : State) (f : Sec → Sec) : (s.setSec f).exports = s.exports := rfl
@[simp] theorem State.setSec_interrupts (s : State) (f : Sec → Sec) : (s.setSec f).interrupts = s.interrupts := rfl
@[simp] theorem State.setSec_resp (s : State) (f : Sec → Sec) : (s.setSec f).resp = s.resp := rfl
@[simp] theorem State.setSec_freeCount (s : State) (f : Sec → Sec) : (s.setSec f).freeCount = s.freeCount := rfl
@[simp] theorem State.setSec_reg (s : State) (f : Sec → Sec) (r' : Reg) (d' k' : Nat) : (s.setSec f).reg r' d' k' = s.reg r' d' k' := rfl
@[simp] theorem State.setSec_ctx (s : State) (f : Sec → Sec) (i : Nat) : (s.setSec f).ctx i = s.ctx i := rfl
@[simp] theorem State.setSec_unit (s : State) (f : Sec → Sec) (i : Nat) : (s.setSec f).unit i = s.unit i := rfl
@[simp] theorem State.setSec_eng (s : State) (f : Sec → Sec) (i : Nat) : (s.setSec f).eng i = s.eng i := rfl
@[simp] theorem State.setSec_queue (s : State) (f : Sec → Sec) (i : QueueId) : (s.setSec f).queue i = s.queue i := rfl
@[simp] theorem State.setSec_die (s : State) (f : Sec → Sec) (i : Nat) : (s.setSec f).die i = s.die i := rfl
@[simp] theorem State.setSec_ring (s : State) (f : Sec → Sec) (i : Nat) : (s.setSec f).ring i = s.ring i := rfl
@[simp] theorem State.setSec_bridge (s : State) (f : Sec → Sec) (i j : Nat) : (s.setSec f).bridge i j = s.bridge i j := rfl
@[simp] theorem State.setSec_port (s : State) (f : Sec → Sec) (i : Nat) : (s.setSec f).port i = s.port i := rfl

/-! setFtu -/

@[simp] theorem State.setFtu_pending (s : State) (f : FtUnit → FtUnit) : (s.setFtu f).pending = s.pending := rfl
@[simp] theorem State.setFtu_ft (s : State) (f : FtUnit → FtUnit) : (s.setFtu f).ft = s.ft := rfl
@[simp] theorem State.setFtu_aon (s : State) (f : FtUnit → FtUnit) : (s.setFtu f).aon = s.aon := rfl
@[simp] theorem State.setFtu_regs (s : State) (f : FtUnit → FtUnit) : (s.setFtu f).regs = s.regs := rfl
@[simp] theorem State.setFtu_mem (s : State) (f : FtUnit → FtUnit) : (s.setFtu f).mem = s.mem := rfl
@[simp] theorem State.setFtu_ecc (s : State) (f : FtUnit → FtUnit) : (s.setFtu f).ecc = s.ecc := rfl
@[simp] theorem State.setFtu_upsets (s : State) (f : FtUnit → FtUnit) : (s.setFtu f).upsets = s.upsets := rfl
@[simp] theorem State.setFtu_wcb (s : State) (f : FtUnit → FtUnit) : (s.setFtu f).wcb = s.wcb := rfl
@[simp] theorem State.setFtu_failedFills (s : State) (f : FtUnit → FtUnit) : (s.setFtu f).failedFills = s.failedFills := rfl
@[simp] theorem State.setFtu_clean (s : State) (f : FtUnit → FtUnit) : (s.setFtu f).clean = s.clean := rfl
@[simp] theorem State.setFtu_flash (s : State) (f : FtUnit → FtUnit) : (s.setFtu f).flash = s.flash := rfl
@[simp] theorem State.setFtu_queues (s : State) (f : FtUnit → FtUnit) : (s.setFtu f).queues = s.queues := rfl
@[simp] theorem State.setFtu_units (s : State) (f : FtUnit → FtUnit) : (s.setFtu f).units = s.units := rfl
@[simp] theorem State.setFtu_engs (s : State) (f : FtUnit → FtUnit) : (s.setFtu f).engs = s.engs := rfl
@[simp] theorem State.setFtu_ctxs (s : State) (f : FtUnit → FtUnit) : (s.setFtu f).ctxs = s.ctxs := rfl
@[simp] theorem State.setFtu_rings (s : State) (f : FtUnit → FtUnit) : (s.setFtu f).rings = s.rings := rfl
@[simp] theorem State.setFtu_tc (s : State) (f : FtUnit → FtUnit) : (s.setFtu f).tc = s.tc := rfl
@[simp] theorem State.setFtu_invals (s : State) (f : FtUnit → FtUnit) : (s.setFtu f).invals = s.invals := rfl
@[simp] theorem State.setFtu_pwr (s : State) (f : FtUnit → FtUnit) : (s.setFtu f).pwr = s.pwr := rfl
@[simp] theorem State.setFtu_energy (s : State) (f : FtUnit → FtUnit) : (s.setFtu f).energy = s.energy := rfl
@[simp] theorem State.setFtu_energyAt (s : State) (f : FtUnit → FtUnit) : (s.setFtu f).energyAt = s.energyAt := rfl
@[simp] theorem State.setFtu_energyEnd (s : State) (f : FtUnit → FtUnit) : (s.setFtu f).energyEnd = s.energyEnd := rfl
@[simp] theorem State.setFtu_asleep (s : State) (f : FtUnit → FtUnit) : (s.setFtu f).asleep = s.asleep := rfl
@[simp] theorem State.setFtu_stackUse (s : State) (f : FtUnit → FtUnit) : (s.setFtu f).stackUse = s.stackUse := rfl
@[simp] theorem State.setFtu_boot (s : State) (f : FtUnit → FtUnit) : (s.setFtu f).boot = s.boot := rfl
@[simp] theorem State.setFtu_sec (s : State) (f : FtUnit → FtUnit) : (s.setFtu f).sec = s.sec := rfl
@[simp] theorem State.setFtu_pins (s : State) (f : FtUnit → FtUnit) : (s.setFtu f).pins = s.pins := rfl
@[simp] theorem State.setFtu_mgmt (s : State) (f : FtUnit → FtUnit) : (s.setFtu f).mgmt = s.mgmt := rfl
@[simp] theorem State.setFtu_svnMin (s : State) (f : FtUnit → FtUnit) : (s.setFtu f).svnMin = s.svnMin := rfl
@[simp] theorem State.setFtu_revoked (s : State) (f : FtUnit → FtUnit) : (s.setFtu f).revoked = s.revoked := rfl
@[simp] theorem State.setFtu_bridges (s : State) (f : FtUnit → FtUnit) : (s.setFtu f).bridges = s.bridges := rfl
@[simp] theorem State.setFtu_ftu (s : State) (f : FtUnit → FtUnit) : (s.setFtu f).ftu = f s.ftu := rfl
@[simp] theorem State.setFtu_ports (s : State) (f : FtUnit → FtUnit) : (s.setFtu f).ports = s.ports := rfl
@[simp] theorem State.setFtu_routes (s : State) (f : FtUnit → FtUnit) : (s.setFtu f).routes = s.routes := rfl
@[simp] theorem State.setFtu_bias (s : State) (f : FtUnit → FtUnit) : (s.setFtu f).bias = s.bias := rfl
@[simp] theorem State.setFtu_hcx (s : State) (f : FtUnit → FtUnit) : (s.setFtu f).hcx = s.hcx := rfl
@[simp] theorem State.setFtu_tags (s : State) (f : FtUnit → FtUnit) : (s.setFtu f).tags = s.tags := rfl
@[simp] theorem State.setFtu_nodes (s : State) (f : FtUnit → FtUnit) : (s.setFtu f).nodes = s.nodes := rfl
@[simp] theorem State.setFtu_rx (s : State) (f : FtUnit → FtUnit) : (s.setFtu f).rx = s.rx := rfl
@[simp] theorem State.setFtu_regions (s : State) (f : FtUnit → FtUnit) : (s.setFtu f).regions = s.regions := rfl
@[simp] theorem State.setFtu_uuTables (s : State) (f : FtUnit → FtUnit) : (s.setFtu f).uuTables = s.uuTables := rfl
@[simp] theorem State.setFtu_cmps (s : State) (f : FtUnit → FtUnit) : (s.setFtu f).cmps = s.cmps := rfl
@[simp] theorem State.setFtu_exports (s : State) (f : FtUnit → FtUnit) : (s.setFtu f).exports = s.exports := rfl
@[simp] theorem State.setFtu_interrupts (s : State) (f : FtUnit → FtUnit) : (s.setFtu f).interrupts = s.interrupts := rfl
@[simp] theorem State.setFtu_resp (s : State) (f : FtUnit → FtUnit) : (s.setFtu f).resp = s.resp := rfl
@[simp] theorem State.setFtu_freeCount (s : State) (f : FtUnit → FtUnit) : (s.setFtu f).freeCount = s.freeCount := rfl
@[simp] theorem State.setFtu_reg (s : State) (f : FtUnit → FtUnit) (r' : Reg) (d' k' : Nat) : (s.setFtu f).reg r' d' k' = s.reg r' d' k' := rfl
@[simp] theorem State.setFtu_ctx (s : State) (f : FtUnit → FtUnit) (i : Nat) : (s.setFtu f).ctx i = s.ctx i := rfl
@[simp] theorem State.setFtu_unit (s : State) (f : FtUnit → FtUnit) (i : Nat) : (s.setFtu f).unit i = s.unit i := rfl
@[simp] theorem State.setFtu_eng (s : State) (f : FtUnit → FtUnit) (i : Nat) : (s.setFtu f).eng i = s.eng i := rfl
@[simp] theorem State.setFtu_queue (s : State) (f : FtUnit → FtUnit) (i : QueueId) : (s.setFtu f).queue i = s.queue i := rfl
@[simp] theorem State.setFtu_die (s : State) (f : FtUnit → FtUnit) (i : Nat) : (s.setFtu f).die i = s.die i := rfl
@[simp] theorem State.setFtu_ring (s : State) (f : FtUnit → FtUnit) (i : Nat) : (s.setFtu f).ring i = s.ring i := rfl
@[simp] theorem State.setFtu_bridge (s : State) (f : FtUnit → FtUnit) (i j : Nat) : (s.setFtu f).bridge i j = s.bridge i j := rfl
@[simp] theorem State.setFtu_port (s : State) (f : FtUnit → FtUnit) (i : Nat) : (s.setFtu f).port i = s.port i := rfl

/-! setNode -/

@[simp] theorem State.setNode_pending (s : State) (n n' : Node) : (s.setNode n n').pending = s.pending := rfl
@[simp] theorem State.setNode_ft (s : State) (n n' : Node) : (s.setNode n n').ft = s.ft := rfl
@[simp] theorem State.setNode_aon (s : State) (n n' : Node) : (s.setNode n n').aon = s.aon := rfl
@[simp] theorem State.setNode_regs (s : State) (n n' : Node) : (s.setNode n n').regs = s.regs := rfl
@[simp] theorem State.setNode_mem (s : State) (n n' : Node) : (s.setNode n n').mem = s.mem := rfl
@[simp] theorem State.setNode_ecc (s : State) (n n' : Node) : (s.setNode n n').ecc = s.ecc := rfl
@[simp] theorem State.setNode_upsets (s : State) (n n' : Node) : (s.setNode n n').upsets = s.upsets := rfl
@[simp] theorem State.setNode_wcb (s : State) (n n' : Node) : (s.setNode n n').wcb = s.wcb := rfl
@[simp] theorem State.setNode_failedFills (s : State) (n n' : Node) : (s.setNode n n').failedFills = s.failedFills := rfl
@[simp] theorem State.setNode_clean (s : State) (n n' : Node) : (s.setNode n n').clean = s.clean := rfl
@[simp] theorem State.setNode_flash (s : State) (n n' : Node) : (s.setNode n n').flash = s.flash := rfl
@[simp] theorem State.setNode_queues (s : State) (n n' : Node) : (s.setNode n n').queues = s.queues := rfl
@[simp] theorem State.setNode_units (s : State) (n n' : Node) : (s.setNode n n').units = s.units := rfl
@[simp] theorem State.setNode_engs (s : State) (n n' : Node) : (s.setNode n n').engs = s.engs := rfl
@[simp] theorem State.setNode_ctxs (s : State) (n n' : Node) : (s.setNode n n').ctxs = s.ctxs := rfl
@[simp] theorem State.setNode_rings (s : State) (n n' : Node) : (s.setNode n n').rings = s.rings := rfl
@[simp] theorem State.setNode_tc (s : State) (n n' : Node) : (s.setNode n n').tc = s.tc := rfl
@[simp] theorem State.setNode_invals (s : State) (n n' : Node) : (s.setNode n n').invals = s.invals := rfl
@[simp] theorem State.setNode_pwr (s : State) (n n' : Node) : (s.setNode n n').pwr = s.pwr := rfl
@[simp] theorem State.setNode_energy (s : State) (n n' : Node) : (s.setNode n n').energy = s.energy := rfl
@[simp] theorem State.setNode_energyAt (s : State) (n n' : Node) : (s.setNode n n').energyAt = s.energyAt := rfl
@[simp] theorem State.setNode_energyEnd (s : State) (n n' : Node) : (s.setNode n n').energyEnd = s.energyEnd := rfl
@[simp] theorem State.setNode_asleep (s : State) (n n' : Node) : (s.setNode n n').asleep = s.asleep := rfl
@[simp] theorem State.setNode_stackUse (s : State) (n n' : Node) : (s.setNode n n').stackUse = s.stackUse := rfl
@[simp] theorem State.setNode_boot (s : State) (n n' : Node) : (s.setNode n n').boot = s.boot := rfl
@[simp] theorem State.setNode_sec (s : State) (n n' : Node) : (s.setNode n n').sec = s.sec := rfl
@[simp] theorem State.setNode_pins (s : State) (n n' : Node) : (s.setNode n n').pins = s.pins := rfl
@[simp] theorem State.setNode_mgmt (s : State) (n n' : Node) : (s.setNode n n').mgmt = s.mgmt := rfl
@[simp] theorem State.setNode_svnMin (s : State) (n n' : Node) : (s.setNode n n').svnMin = s.svnMin := rfl
@[simp] theorem State.setNode_revoked (s : State) (n n' : Node) : (s.setNode n n').revoked = s.revoked := rfl
@[simp] theorem State.setNode_bridges (s : State) (n n' : Node) : (s.setNode n n').bridges = s.bridges := rfl
@[simp] theorem State.setNode_ftu (s : State) (n n' : Node) : (s.setNode n n').ftu = s.ftu := rfl
@[simp] theorem State.setNode_ports (s : State) (n n' : Node) : (s.setNode n n').ports = s.ports := rfl
@[simp] theorem State.setNode_routes (s : State) (n n' : Node) : (s.setNode n n').routes = s.routes := rfl
@[simp] theorem State.setNode_bias (s : State) (n n' : Node) : (s.setNode n n').bias = s.bias := rfl
@[simp] theorem State.setNode_hcx (s : State) (n n' : Node) : (s.setNode n n').hcx = s.hcx := rfl
@[simp] theorem State.setNode_tags (s : State) (n n' : Node) : (s.setNode n n').tags = s.tags := rfl
@[simp] theorem State.setNode_nodes (s : State) (n n' : Node) : (s.setNode n n').nodes = s.nodes.map (fun m => if m = n then n' else m) := rfl
@[simp] theorem State.setNode_rx (s : State) (n n' : Node) : (s.setNode n n').rx = s.rx := rfl
@[simp] theorem State.setNode_regions (s : State) (n n' : Node) : (s.setNode n n').regions = s.regions := rfl
@[simp] theorem State.setNode_uuTables (s : State) (n n' : Node) : (s.setNode n n').uuTables = s.uuTables := rfl
@[simp] theorem State.setNode_cmps (s : State) (n n' : Node) : (s.setNode n n').cmps = s.cmps := rfl
@[simp] theorem State.setNode_exports (s : State) (n n' : Node) : (s.setNode n n').exports = s.exports := rfl
@[simp] theorem State.setNode_interrupts (s : State) (n n' : Node) : (s.setNode n n').interrupts = s.interrupts := rfl
@[simp] theorem State.setNode_resp (s : State) (n n' : Node) : (s.setNode n n').resp = s.resp := rfl
@[simp] theorem State.setNode_freeCount (s : State) (n n' : Node) : (s.setNode n n').freeCount = s.freeCount := rfl
@[simp] theorem State.setNode_reg (s : State) (n n' : Node) (r' : Reg) (d' k' : Nat) : (s.setNode n n').reg r' d' k' = s.reg r' d' k' := rfl
@[simp] theorem State.setNode_ctx (s : State) (n n' : Node) (i : Nat) : (s.setNode n n').ctx i = s.ctx i := rfl
@[simp] theorem State.setNode_unit (s : State) (n n' : Node) (i : Nat) : (s.setNode n n').unit i = s.unit i := rfl
@[simp] theorem State.setNode_eng (s : State) (n n' : Node) (i : Nat) : (s.setNode n n').eng i = s.eng i := rfl
@[simp] theorem State.setNode_queue (s : State) (n n' : Node) (i : QueueId) : (s.setNode n n').queue i = s.queue i := rfl
@[simp] theorem State.setNode_die (s : State) (n n' : Node) (i : Nat) : (s.setNode n n').die i = s.die i := rfl
@[simp] theorem State.setNode_ring (s : State) (n n' : Node) (i : Nat) : (s.setNode n n').ring i = s.ring i := rfl
@[simp] theorem State.setNode_bridge (s : State) (n n' : Node) (i j : Nat) : (s.setNode n n').bridge i j = s.bridge i j := rfl
@[simp] theorem State.setNode_port (s : State) (n n' : Node) (i : Nat) : (s.setNode n n').port i = s.port i := rfl

/-! setCmp -/

@[simp] theorem State.setCmp_pending (s : State) (n n' : Cmp) : (s.setCmp n n').pending = s.pending := rfl
@[simp] theorem State.setCmp_ft (s : State) (n n' : Cmp) : (s.setCmp n n').ft = s.ft := rfl
@[simp] theorem State.setCmp_aon (s : State) (n n' : Cmp) : (s.setCmp n n').aon = s.aon := rfl
@[simp] theorem State.setCmp_regs (s : State) (n n' : Cmp) : (s.setCmp n n').regs = s.regs := rfl
@[simp] theorem State.setCmp_mem (s : State) (n n' : Cmp) : (s.setCmp n n').mem = s.mem := rfl
@[simp] theorem State.setCmp_ecc (s : State) (n n' : Cmp) : (s.setCmp n n').ecc = s.ecc := rfl
@[simp] theorem State.setCmp_upsets (s : State) (n n' : Cmp) : (s.setCmp n n').upsets = s.upsets := rfl
@[simp] theorem State.setCmp_wcb (s : State) (n n' : Cmp) : (s.setCmp n n').wcb = s.wcb := rfl
@[simp] theorem State.setCmp_failedFills (s : State) (n n' : Cmp) : (s.setCmp n n').failedFills = s.failedFills := rfl
@[simp] theorem State.setCmp_clean (s : State) (n n' : Cmp) : (s.setCmp n n').clean = s.clean := rfl
@[simp] theorem State.setCmp_flash (s : State) (n n' : Cmp) : (s.setCmp n n').flash = s.flash := rfl
@[simp] theorem State.setCmp_queues (s : State) (n n' : Cmp) : (s.setCmp n n').queues = s.queues := rfl
@[simp] theorem State.setCmp_units (s : State) (n n' : Cmp) : (s.setCmp n n').units = s.units := rfl
@[simp] theorem State.setCmp_engs (s : State) (n n' : Cmp) : (s.setCmp n n').engs = s.engs := rfl
@[simp] theorem State.setCmp_ctxs (s : State) (n n' : Cmp) : (s.setCmp n n').ctxs = s.ctxs := rfl
@[simp] theorem State.setCmp_rings (s : State) (n n' : Cmp) : (s.setCmp n n').rings = s.rings := rfl
@[simp] theorem State.setCmp_tc (s : State) (n n' : Cmp) : (s.setCmp n n').tc = s.tc := rfl
@[simp] theorem State.setCmp_invals (s : State) (n n' : Cmp) : (s.setCmp n n').invals = s.invals := rfl
@[simp] theorem State.setCmp_pwr (s : State) (n n' : Cmp) : (s.setCmp n n').pwr = s.pwr := rfl
@[simp] theorem State.setCmp_energy (s : State) (n n' : Cmp) : (s.setCmp n n').energy = s.energy := rfl
@[simp] theorem State.setCmp_energyAt (s : State) (n n' : Cmp) : (s.setCmp n n').energyAt = s.energyAt := rfl
@[simp] theorem State.setCmp_energyEnd (s : State) (n n' : Cmp) : (s.setCmp n n').energyEnd = s.energyEnd := rfl
@[simp] theorem State.setCmp_asleep (s : State) (n n' : Cmp) : (s.setCmp n n').asleep = s.asleep := rfl
@[simp] theorem State.setCmp_stackUse (s : State) (n n' : Cmp) : (s.setCmp n n').stackUse = s.stackUse := rfl
@[simp] theorem State.setCmp_boot (s : State) (n n' : Cmp) : (s.setCmp n n').boot = s.boot := rfl
@[simp] theorem State.setCmp_sec (s : State) (n n' : Cmp) : (s.setCmp n n').sec = s.sec := rfl
@[simp] theorem State.setCmp_pins (s : State) (n n' : Cmp) : (s.setCmp n n').pins = s.pins := rfl
@[simp] theorem State.setCmp_mgmt (s : State) (n n' : Cmp) : (s.setCmp n n').mgmt = s.mgmt := rfl
@[simp] theorem State.setCmp_svnMin (s : State) (n n' : Cmp) : (s.setCmp n n').svnMin = s.svnMin := rfl
@[simp] theorem State.setCmp_revoked (s : State) (n n' : Cmp) : (s.setCmp n n').revoked = s.revoked := rfl
@[simp] theorem State.setCmp_bridges (s : State) (n n' : Cmp) : (s.setCmp n n').bridges = s.bridges := rfl
@[simp] theorem State.setCmp_ftu (s : State) (n n' : Cmp) : (s.setCmp n n').ftu = s.ftu := rfl
@[simp] theorem State.setCmp_ports (s : State) (n n' : Cmp) : (s.setCmp n n').ports = s.ports := rfl
@[simp] theorem State.setCmp_routes (s : State) (n n' : Cmp) : (s.setCmp n n').routes = s.routes := rfl
@[simp] theorem State.setCmp_bias (s : State) (n n' : Cmp) : (s.setCmp n n').bias = s.bias := rfl
@[simp] theorem State.setCmp_hcx (s : State) (n n' : Cmp) : (s.setCmp n n').hcx = s.hcx := rfl
@[simp] theorem State.setCmp_tags (s : State) (n n' : Cmp) : (s.setCmp n n').tags = s.tags := rfl
@[simp] theorem State.setCmp_nodes (s : State) (n n' : Cmp) : (s.setCmp n n').nodes = s.nodes := rfl
@[simp] theorem State.setCmp_rx (s : State) (n n' : Cmp) : (s.setCmp n n').rx = s.rx := rfl
@[simp] theorem State.setCmp_regions (s : State) (n n' : Cmp) : (s.setCmp n n').regions = s.regions := rfl
@[simp] theorem State.setCmp_uuTables (s : State) (n n' : Cmp) : (s.setCmp n n').uuTables = s.uuTables := rfl
@[simp] theorem State.setCmp_cmps (s : State) (n n' : Cmp) : (s.setCmp n n').cmps = s.cmps.map (fun m => if m = n then n' else m) := rfl
@[simp] theorem State.setCmp_exports (s : State) (n n' : Cmp) : (s.setCmp n n').exports = s.exports := rfl
@[simp] theorem State.setCmp_interrupts (s : State) (n n' : Cmp) : (s.setCmp n n').interrupts = s.interrupts := rfl
@[simp] theorem State.setCmp_resp (s : State) (n n' : Cmp) : (s.setCmp n n').resp = s.resp := rfl
@[simp] theorem State.setCmp_freeCount (s : State) (n n' : Cmp) : (s.setCmp n n').freeCount = s.freeCount := rfl
@[simp] theorem State.setCmp_reg (s : State) (n n' : Cmp) (r' : Reg) (d' k' : Nat) : (s.setCmp n n').reg r' d' k' = s.reg r' d' k' := rfl
@[simp] theorem State.setCmp_ctx (s : State) (n n' : Cmp) (i : Nat) : (s.setCmp n n').ctx i = s.ctx i := rfl
@[simp] theorem State.setCmp_unit (s : State) (n n' : Cmp) (i : Nat) : (s.setCmp n n').unit i = s.unit i := rfl
@[simp] theorem State.setCmp_eng (s : State) (n n' : Cmp) (i : Nat) : (s.setCmp n n').eng i = s.eng i := rfl
@[simp] theorem State.setCmp_queue (s : State) (n n' : Cmp) (i : QueueId) : (s.setCmp n n').queue i = s.queue i := rfl
@[simp] theorem State.setCmp_die (s : State) (n n' : Cmp) (i : Nat) : (s.setCmp n n').die i = s.die i := rfl
@[simp] theorem State.setCmp_ring (s : State) (n n' : Cmp) (i : Nat) : (s.setCmp n n').ring i = s.ring i := rfl
@[simp] theorem State.setCmp_bridge (s : State) (n n' : Cmp) (i j : Nat) : (s.setCmp n n').bridge i j = s.bridge i j := rfl
@[simp] theorem State.setCmp_port (s : State) (n n' : Cmp) (i : Nat) : (s.setCmp n n').port i = s.port i := rfl

end Sys2Proof.Machine
end

