-- ==== Sys2Proof/Tests/Slice0.lean ====
section
/-!
SUPPORT. Tests. For every statement with hypotheses, states and operands that meet them, in one theorem or several named
witness_<statement>; the spec's worked examples; and terms that the checks of well-formedness refuse.
-/
open Sys2Proof Sys2Proof.Machine

namespace Sys2Proof.Tests

set_option Elab.async false

/-- Just after package reset, with PKG_RESET_N deasserted, and every register 0 (which keeps the evaluation short). -/
def live : State := { State.reset with regs := [], pins := { State.reset.pins with pkgReset := false, ftHeld := false } }

/-- In service: boot has ended with BOOT_DONE. -/
def serving : State := { live with boot := { State.reset.boot with st := .done, stage := 9 }, ft := 1000, aon := 1000 }

/-- Boot at a stage. -/
def atBoot (k : Nat) : State := { live with boot := { State.reset.boot with st := .booting, stage := k, busy := true } }

theorem le_foldl_max {α : Type} (l : List α) (a : Nat) (f : α → Nat) : a ≤ l.foldl (fun m d => max m (f d)) a := by
  induction l generalizing a with
  | nil => exact Nat.le_refl _
  | cons x l ih => exact le_trans (Nat.le_max_left _ _) (ih _)

theorem foldl_max_le {α : Type} (l : List α) (a b : Nat) (f : α → Nat) (ha : a ≤ b) (h : ∀ x ∈ l, f x ≤ b) :
    l.foldl (fun m d => max m (f d)) a ≤ b := by
  induction l generalizing a with
  | nil => exact ha
  | cons x l ih => exact ih _ (max_le ha (h x (by simp))) (fun y hy => h y (by simp [hy]))

/-! Registers, counters, fault records and runner queues. -/

theorem witness_ResetGivesEveryRegisterItsValue : 0 < regWindows .DIE_SCRATCH ∧ 0 < (regInfo .DIE_SCRATCH).slots ∧
    Reg.DIE_SCRATCH ∉ dieValued ∧ Reg.PWR_BUDGET ∉ dieValued := by decide +kernel

theorem witness_ResetGivesEveryRegisterItsValue_states : State.reset.clearedBy State.reset :=
  ⟨by decide +kernel, rfl, rfl, (⟨rfl, rfl⟩ : State.reset.svnMin = State.reset.svnMin ∧ State.reset.revoked = State.reset.revoked)⟩

theorem witness_RegisterMapIsUnambiguous : 7 < regWindows .DIE_SCRATCH ∧ 1 < (regInfo .SEC_ATTEST_NONCE).slots ∧
    0 < regWindows .SEC_ATTEST_NONCE := by decide +kernel

theorem witness_RegistersReadAndWriteByTheirCode_odd : isRegAddr (regAddr .DIE_SCRATCH 0 0) = true ∧ (4 : Nat) ≠ 8 ∧
    isRegAddr (regAddr .DIE_SCRATCH 0 0 + 1) = true ∧ (regAddr .DIE_SCRATCH 0 0 + 1) % 8 ≠ 0 := by decide +kernel

theorem witness_RegistersReadAndWriteByTheirCode_write : Sparse.wf 0#64 live.regs = true ∧ Reg.DIE_SCRATCH ∈ plainRegs ∧
    7 < regWindows .DIE_SCRATCH ∧ 0 < (regInfo .DIE_SCRATCH).slots := by decide +kernel

theorem witness_RegistersReadAndWriteByTheirCode_codes : readOnly .DIE_ID 0 = true ∧ readOnly .CMDP_RING_BASE 15 = true ∧ readOnly .CMDP_RING_BASE 16 = false ∧
    (regInfo .FT_BEACON_RX).access = .ctr ∧ (regInfo .ME_BUSY).access = .ctr ∧ (regInfo .VE_TQD_STATUS).access = .st ∧
    (∀ r ∈ [Reg.VE_TQD_STATUS, .ERR_FQ_STATUS, .MDP_WQ_STATUS], 0 < regWindows r ∧ 0 < (regInfo r).slots ∧ (regInfo r).access = .st ∧
      ∀ q ∈ queueOf r 0 0, (live.queue q).lostFt ≠ some (live.advance 5).ft) := by decide +kernel

theorem witness_CountersCountSaturateAndClear : Sparse.wf 0#64 live.regs = true ∧ (regInfo .FT_BEACON_RX).access = .ctr ∧
    0 < regWindows .FT_BEACON_RX ∧ 0 < (regInfo .FT_BEACON_RX).slots ∧
    Reg.FT_BEACON_RX ∉ [Reg.ERR_RAISED, .ERR_SAT_EVENTS, .ERR_FQ_LOST] ∧ live.reg .FT_BEACON_RX 0 0 < countMax := by decide +kernel

/-- A NOTICE of the primary die's command processor. -/
def notice : FaultIn := { code := 0, unit := 0, ctx := 0, severity := 0, address := 0, detail := 0 }

theorem witness_FaultRecordIsStoredOrLost : isStatus notice.code = true ∧ isStatus 0x1234 = false ∧
    (∀ x ∈ [{ notice with unit := 0x100 }], notice.unit < x.unit) ∧ (∀ x ∈ [notice], notice.unit ≤ x.unit) ∧ Sparse.wf 0#64 live.regs = true ∧ ¬(notice.severity = 2 ∧ (live.ctx notice.ctx).created = true) ∧
    (∀ c ∈ [Reg.ERR_RAISED, Reg.ERR_FQ_LOST], live.reg c (faultDie notice.unit) 0 + 1 < countMax) ∧
    live.reg .ERR_INJECT (faultDie notice.unit) 0 = 0 := by decide +kernel

theorem witness_FaultRecordIsStoredOrLost_waiting : ∀ d, live.noRelease 5 (.faultQueue d) := fun _ _ h => by
  have e : live.pending = [] := rfl
  rw [e] at h
  cases h

/-- A record as the fault queue keeps it. -/
def oneEntry (q : QueueId) : QEntry := { bytes := List.replicate (queueWidth q) 0x11#8, valid := 2 ^ queueWidth q - 1, last := true }

/-- One entry in a queue, written, seen and not yet read. -/
def holding (q : QueueId) (n : Nat) : State :=
  live.setQueue q (fun _ => { entries := List.replicate n (oneEntry q), wr := n, wrSeen := n })

theorem witness_FaultQueueShowsAndReleasesTheOldest :
    [Reg.ERR_FQ_REC0, .ERR_FQ_REC1, .ERR_FQ_REC2, .ERR_FQ_REC3][3]? = some .ERR_FQ_REC3 ∧
    (live.queue (.faultQueue 7)).entries = [] ∧
    ((holding (.faultQueue 7) 2).queue (.faultQueue 7)).entries = [oneEntry (.faultQueue 7), oneEntry (.faultQueue 7)] ∧
    (oneEntry (.faultQueue 7)).err = 0 ∧
    ((holding (.faultQueue 7) 2).queue (.faultQueue 7)).rd = ((holding (.faultQueue 7) 2).queue (.faultQueue 7)).rp ∧
    ((holding (.faultQueue 7) 2).queue (.faultQueue 7)).entries.length =
      ((holding (.faultQueue 7) 2).queue (.faultQueue 7)).wr - ((holding (.faultQueue 7) 2).queue (.faultQueue 7)).rp := by decide +kernel

theorem witness_QueuePositionsStayInOrder (n : Nat) (hn : n ≤ 1024) : queueExists .dataPort = true ∧
    ((holding .dataPort n).queue .dataPort).Ordered (queueDepth .dataPort) := by
  refine ⟨rfl, ?_⟩
  have h : (holding .dataPort n).queue .dataPort = { entries := List.replicate n (oneEntry .dataPort), wr := n, wrSeen := n } := rfl
  rw [h]
  exact ⟨by simp, by simp, by simp, by simp, by simp, by simp, by simpa [queueDepth] using hn⟩

theorem witness_QueuesReadWriteAndLose_read : ((holding .dataPort 3).queue .dataPort).rd + 3 ≤ ((holding .dataPort 3).queue .dataPort).wrSeen ∧
    (∀ e ∈ ((holding .dataPort 3).queue .dataPort).entries, e.err = 0 ∧ e.errs = []) := by decide +kernel

theorem witness_QueuesReadWriteAndLose_room : ((holding .dataPort 1023).queue .dataPort).packer = [] ∧
    (oneEntry .dataPort).bytes.length = queueWidth .dataPort ∧
    ((holding .dataPort 1023).queue .dataPort).wr - ((holding .dataPort 1023).queue .dataPort).rpSeen < queueDepth .dataPort ∧
    ((holding .dataPort 1024).queue .dataPort).wr - ((holding .dataPort 1024).queue .dataPort).rp = queueDepth .dataPort := by decide +kernel

theorem witness_QueuesReadWriteAndLose_stops : ((holding .dataPort 3).queue .dataPort).serves .dataPort 3 = true ∧
    ((holding .dataPort 3).queue .dataPort).serves .dataPort 4 = false ∧ ((holding .dataPort 3).queue .dataPort).wrSeen < 0 + 4 ∧
    (let q := { (holding .dataPort 3).queue .dataPort with packets := [(2, 100)] }
     q.serves .dataPort 3 = false ∧ q.rd ≤ 2 ∧ 2 < q.rd + 3 ∧ q.wrSeen < 2 + min (queueThresh .dataPort 100) 100) ∧
    (let e := { oneEntry .dataPort with errs := [3] }
     e.bad = true ∧ ([oneEntry .dataPort, e].take 2).any QEntry.bad = true) ∧
    (∀ e ∈ ((holding .dataPort 3).queue .dataPort).entries, e.err = 0 ∧ e.errs = [] ∧ e.bad = false) := by decide +kernel

/-- A full queue of one clock whose release waits. -/
def fullWithRelease : State :=
  { (live.setQueue (.faultQueue 3) (fun _ => { entries := List.replicate 256 (oneEntry (.faultQueue 3)), wr := 256, wrSeen := 256, rd := 1, mark := 0 })) with
    pending := [.queueRelease 5 (.faultQueue 3) 1] }

theorem witness_QueuesReadWriteAndLose_release : queueSync (.faultQueue 3) = true ∧ queueExists (.faultQueue 3) = true ∧
    (let q := fullWithRelease.queue (.faultQueue 3)
     q.packer = [] ∧ q.wr - q.rp = queueDepth (.faultQueue 3) ∧ q.rp < 1 ∧ 1 ≤ q.rd ∧ q.rp ≤ q.mark ∧ q.mark ≤ q.rd ∧ q.rd ≤ q.wrSeen ∧
       q.wrSeen ≤ q.wr ∧ q.rpSeen ≤ q.rp ∧ q.entries.length = q.wr - q.rp) ∧
    fullWithRelease.pending = [.queueRelease 5 (.faultQueue 3) 1] := by decide +kernel

/-! Resets, pins and boot. -/

theorem witness_PackageResetsClearThePackage_others : ∀ t w, Instr.trstNAssert 5 ≠ .pkgResetNAssert t w ∧ Instr.trstNAssert 5 ≠ .hcxResetNAssert t w :=
  fun _ _ => ⟨nofun, nofun⟩

theorem witness_PackageResetsClearThePackage : live.sec.img ≠ .programming ∧ live.pinsLive = true ∧ live.pins.powered = true ∧
    (31999 : Nat) < 32000 ∧ (40000 : Nat) < 40001 := by decide +kernel

theorem witness_PinsAct : live.pinsLive = true ∧ State.reset.pinsLive = true ∧ State.reset.pins.pkgReset = true ∧
    ({ live with pins := { live.pins with refclk := false } } : State).pins.refclk = false ∧
    ({ serving with pins := { live.pins with hcxReset := true } } : State).pins.hcxReset = true ∧ serving.boot.st = .done ∧
    serving.boot.busy = false ∧
    ({ live with pins := { live.pins with tripUntil := some 1000000000 } } : State).pins.tripUntil = some 1000000000 ∧
    1000000000 ≤ (({ live with pins := { live.pins with tripUntil := some 1000000000 } } : State).advanceAon 1000000000).aon := by
  decide +kernel

theorem witness_PinsAct_outputs : serving.pinsLive = true ∧ ({ serving with pins := { serving.pins with vioOk := false } } : State).pinsLive = false ∧
    (∀ d < 8, (serving.die d).level = 0) ∧ 0 < ((serving.setDie 7 (fun p => { p with level := 1 })).die 7).level ∧ serving.boot.dbgLevel = 0 ∧
    ({ serving with boot := { serving.boot with dbgLevel := 1 } } : State).boot.dbgLevel ≠ 0 := by decide +kernel

theorem witness_FirstBootStagesPassOrHold : ∀ k ∈ [1, 2, 3, 4], (atBoot k).stageOpen 10 k = true := by decide +kernel

theorem witness_FirstBootStagesPassOrHold_readable : ∀ k ∈ [4, 9], (atBoot k).stageOpen 10 k = true ∧ ((atBoot k).bootAt 10).readable := by
  unfold State.readable
  decide +kernel

/-- D0 to D`n` have been released, the last one at AON time 0. -/
def released (n : Nat) : State := (List.range (n + 1)).foldl (fun s d => s.setReg .DIE_STATUS d 0 1) (atBoot 5)

theorem witness_LaterBootStagesPassOrHold_dies : (released 0).stageOpen 10 5 = true ∧ ((released 0).bootAt 10).releasedDies.length = 1 ∧
    (released 6).stageOpen 1000000 5 = true ∧ ((released 6).bootAt 1000000).releasedDies.length = 7 ∧
    ((released 6).bootAt 1000000).boot.lastRelease + 1000000 ≤ ((released 6).bootAt 1000000).aon ∧
    7 < ((released 7).bootAt 10).releasedDies.length ∧ 7 ∉ ((released 7).bootAt 10).boot.passed := by decide +kernel

/-- Stage 0x08 with the registers of every port loaded and every port disabled. -/
def portsLoaded : State := { atBoot 8 with boot := { (atBoot 8).boot with portsLoaded := true } }

theorem witness_LaterBootStagesPassOrHold_others : (∀ k ∈ [6, 7, 8, 9, 0x0A], (atBoot k).stageOpen 10 k = true) ∧
    portsLoaded.stageOpen 10 8 = true ∧ (portsLoaded.bootAt 10).boot.portsLoaded = true ∧
    ((List.range 16).all fun p => (portsLoaded.bootAt 10).portMode p == 0 || ((portsLoaded.bootAt 10).port p).trained) = true ∧
    (portsLoaded.bootAt 10).ftSource = 0 ∧ ((atBoot 1).bootAt 30000000000).stageOver = true := by decide +kernel

theorem witness_LaterBootStagesPassOrHold_burn : ((atBoot 9).bootAt 10).boot.burnEnd = none ∧
    (({ atBoot 9 with boot := { (atBoot 9).boot with burnEnd := some 20 } } : State).bootAt 10).boot.burnEnd = some 20 ∧
    ((atBoot 0x0A).bootAt 10).pins.vioOk = true ∧ 7 < ((atBoot 0x0A).bootAt 10).sec.meas.length ∧
    (0x06, 0x0F, 0x0F) ∈ [(0x01, 0x01, 0x01), (0x02, 0x02, 0x04), (0x03, 0x06, 0x06), (0x04, 0x08, 0x0E), (0x05, 0x05, 0x05),
      (0x06, 0x0F, 0x0F), (0x07, 0x10, 0x10), (0x0A, 0x06, 0x06)] := by decide +kernel

/-- An image in the staging area that has no manifest. -/
theorem witness_ImagesAreCheckedAndLoaded_manifest : manifestOk [] = false := by decide +kernel

/-- A manifest that passes check 1 depends on the stepping fused in the part, and the later checks on its keys: free values, for which
no concrete manifest can be named. The states of R441 are met here. -/
theorem witness_ImagesAreCheckedAndLoaded_states : live.sec.img ≠ .verifying ∧ live.sec.img ≠ .programming ∧
    (live.setSec (fun x => { x with img := .verifying })).sec.img = .verifying ∧
    (live.setSec (fun x => { x with img := .programming })).sec.img = .programming ∧
    (live.setSec (fun x => { x with img := .programming })).sec.resetDue = false ∧ Sparse.wf 0#8 live.flash = true ∧
    live.boot.st ≠ .hold ∧
    ({ live with boot := { live.boot with st := .hold } } : State).boot.st = .hold := by decide +kernel

theorem witness_ImagesAreCheckedAndLoaded_readable : ∀ k ∈ [ImgSt.verifying, .programming],
    (live.setSec (fun x => { x with img := k })).sec.img = k ∧ (live.setSec (fun x => { x with img := k })).readable ∧
      (live.setSec (fun x => { x with img := k })).pins.vioOk = true := by
  unfold State.readable
  decide +kernel

theorem witness_HostComplexResetFencesEverything : serving.pinsLive = true ∧ bitOf 1 0 = true ∧ serving.boot.st = .done ∧
    serving.boot.busy = false ∧ serving.sec.committed = false ∧ live.boot.st ≠ .done ∧
    (serving.setSec (fun x => { x with committed := true })).sec.committed = true ∧
    (serving.setSec (fun x => { x with committed := true })).sec.img ≠ .programming ∧
    (serving.setSec (fun x => { x with committed := true, img := .programming })).sec.img = .programming := by decide +kernel

/-- A report in progress. -/
def reporting : State := serving.setSec (fun x => { x with attBusy := true, attNonce := List.replicate 48 0x5A#8 })

theorem witness_AttestationMeasurementAndDebug_report : bitOf 1 0 = true ∧ reporting.sec.attBusy = true ∧ reporting.sec.attCerts = false ∧
    reporting.sec.attNonce.length = 48 ∧ reporting.sec.meas.length = 8 ∧ (∀ m ∈ reporting.sec.meas, m.length = 48) := by decide +kernel

theorem witness_AttestationMeasurementAndDebug_written :
    (let s := reporting.setSec (fun x => { x with attDest := wsBase 3 })
     s.memoryQuiet ∧ s.sec.attDest % 64 = 0 ∧ isWs s.sec.attDest = true ∧ isWs (s.sec.attDest + 17119) = true) ∧
    isTier1 0 = true ∧ isTier1 (0 + 17119) = true ∧ (∀ d < 8, live.loops d = false) := by
  unfold State.memoryQuiet State.errorFree
  decide +kernel

/-- A line of tier 1 that lies in the write-combining buffer, so that its read costs no energy, whose price is the part's own. -/
def buffered (s : State) (lines : List (Nat × List Byte)) : State :=
  { s with wcb := lines.map (fun l => (l.1, { bytes := l.2, lastWrite := 0 })) }

/-- The message of a measurement lies at the base of tier 1. -/
def extending : State := buffered serving [(0, List.replicate 64 0x33#8)]

theorem witness_AttestationMeasurementAndDebug_extend : 4 ≤ 7 % 8 ∧ 7 % 8 < extending.sec.meas.length ∧
    isTier1 (extending.reg .SEC_EXTEND_ADDR 0 0) = true ∧
    ∃ u bs, (extending.advance 1000).load (extending.reg .SEC_EXTEND_ADDR 0 0) 48 = (u, some bs) := by
  refine ⟨by decide, by decide +kernel, by decide +kernel, ?_⟩
  have h : ((extending.advance 1000).load (extending.reg .SEC_EXTEND_ADDR 0 0) 48).2.isSome = true := by decide +kernel
  obtain ⟨bs, hb⟩ := Option.isSome_iff_exists.mp h
  exact ⟨_, bs, by rw [← hb]⟩

/-- Boot waits at the debug window. -/
def unlocking : State := { atBoot 2 with boot := { (atBoot 2).boot with dbgSince := some 5 } }

theorem witness_AttestationMeasurementAndDebug_debug : unlocking.pinsLive = true ∧ unlocking.boot.dbgSince = some 5 ∧
    5 + 10000000000 ≤ max unlocking.aon 10000000005 ∧ Sparse.wf 0#64 unlocking.regs = true := by decide +kernel

/-! Power and fabric time. -/

theorem witness_BudgetsFollowTheReports : 100000 % 100000 = 0 ∧ serving.ft < 100000 ∧ serving.pwr.length = 8 ∧
    140000 % 100000 = 40000 ∧ serving.ft ≤ 140000 ∧ Sparse.wf 0#64 serving.regs = true := by decide +kernel

theorem witness_BudgetsFollowTheReports_due : serving.energyEnd ≠ 200000 ∧ serving.ft < 200000 ∧ 200000 % 100000 = 0 ∧
    ({ serving with energyEnd := 200000 } : State).energyEnd = 200000 := by decide +kernel

/-- Budgets wait on every die. -/
def budgeted : State := { serving with pwr := List.replicate 8 { power := 520000, nextBudget := some 500000, level := 8 } }

theorem witness_BackstopLevelFollowsTheBudget : 150000 % 100000 = 50000 ∧ budgeted.ft ≤ 150000 ∧ budgeted.pwr.length = 8 ∧
    (∀ d < 8, (budgeted.die d).level ≤ 8) ∧ 1024 % 1024 = 0 ∧ isArith (unitId 7 clsME 0) = true ∧
    ({ budgeted with ft := 511 } : State).ft % 1024 < 64 * (budgeted.die (unitDie (unitId 7 clsME 0))).level := by decide +kernel

theorem witness_BackstopLevelFollowsTheBudget_slot : budgeted.ft ≤ 2048 ∧ 2048 % 1024 = 0 ∧ (budgeted.die 7).slotFt ≠ some 2048 ∧
    ((budgeted.setDie 7 (fun p => { p with slotFt := some 2048 })).die 7).slotFt = some 2048 := by decide +kernel

/-- Every die has been free for longer than an entry into an idle state needs, and its tolerance allows the deepest. -/
def idling : State := { serving with ft := 100000, pwr := List.replicate 8 { ltv := 2 ^ 30 } }

theorem witness_IdleStatesAndSensors_enter : 7 < idling.pwr.length ∧ idling.boot.st = .done ∧ idling.eligible 7 = true ∧
    idling.eligibleSince 7 + 10240 ≤ max idling.ft 0 ∧ (idling.die 7).exitBy = none ∧ (idling.die 7).entering = none ∧
    idleCode (idling.die 7).idle < idleCode (idling.idleTarget 7) := by decide +kernel

/-- A die on its way into DAMPED, another on its way out, and one with its stacks awake in DAMPED. -/
def damping : State := { idling with asleep := [14], pwr := [{ entering := some (.damped, 100000) }, { idle := .damped, exitBy := some 200000 },
  { idle := .damped }] }

theorem witness_IdleStatesAndSensors_move : (damping.die 0).entering = some (.damped, 100000) ∧ 100000 ≤ max damping.ft 0 ∧
    (damping.die 1).exitBy.isSome = true ∧ damping.asleep.contains 14 = true ∧ damping.asleep.contains 5 = false ∧
    (damping.die (5 / 2)).idle = .damped ∧ Sparse.at? 0 damping.stackUse 5 + 1000000 ≤ max damping.ft 1000000 := by decide +kernel

theorem witness_IdleStatesAndSensors_sensor : 7 < serving.pwr.length ∧ (serving.die 7).temps.length = 24 ∧ serving.boot.st ≠ .reset ∧
    serving.pins.tripped = false ∧ serving.pins.powered = true ∧ (serving.die 7).hot.contains 23 = false ∧
    ((serving.setDie 7 (fun p => { p with hot := [23] })).die 7).hot.contains 23 = true ∧ 100 * 8 ≤ 801 := by decide +kernel

/-- Port P0 is a Darzil port that beacons may come in on; the FT unit follows beacons. -/
def timed (lock : Lock) : State := ((serving.setReg .FT_CTRL 0 0 (1 + 3 * 2 ^ 16)).setFtu (fun u => { u with lock := lock, master := 3 })).setReg
  .PORT_CTRL 0 0 1

/-- A beacon of master 3. -/
def beacon3 : Beacon := { ftTx := 900, master := 3, stratum := 1, seq := 0, turnaround := 0, crcOk := true, ack := 0xFFFF, cvc := 0, cunits := 0 }

theorem witness_FabricTimeIsDisciplined_beacon : (∀ l ∈ [Lock.free, .acquiring, .holdover, .locked], (timed l).isDarzil 0 = true ∧
      bitOf (timed l).ftMask 0 = true ∧ (timed l).ftSource ≠ 0 ∧ (timed l).anyActive = false) ∧
    beacon3.crcOk = true ∧ beacon3.stratum < 15 ∧ beacon3.master = (timed .locked).ftu.master ∧
    ({ beacon3 with stratum := 15 } : Beacon).stratum = 15 ∧ (((timed .free).setReg .FT_CTRL 0 0 (2 ^ 16)).ftSource = 0) ∧
    (∀ l ∈ [Lock.acquiring, .locked], ((timed l).heardBeacon 0 beacon3).bestBeacon.any (fun q => q.port == 0) = true ∧
      (((timed l).setFtu (fun u => { u with heard := [⟨1, 0, 1000, 3, 0⟩] })).heardBeacon 0 beacon3).bestBeacon.any (fun q => q.port == 1) = true) ∧
    ((1000 : Int) - 900).natAbs = 100 ∧ ((1000 : Int) - (({ beacon3 with ftTx := 1000 } : Beacon).ftTx : Nat)).natAbs ≤ 4 := by
  decide +kernel

theorem witness_FabricTimeIsDisciplined_timers : ((timed .locked).setReg .FT_CTRL 0 0 2).ftSource = 2 ∧ (timed .locked).ftu.lock ≠ .free ∧
    (timed .locked).ftu.delayReq = none ∧ 0 < (timed .locked).ports.length ∧
    ((timed .locked).setFtu (fun u => { u with delayReq := some (0, 500) })).ftu.delayReq = some (0, 500) ∧
    Sparse.wf 0#64 (timed .locked).regs = true := by decide +kernel

theorem witness_FabricTimeIsDisciplined_port : (timed .locked).isDarzil (timed .locked).ftu.port = true ∧
    ((timed .locked).setReg .PORT_CTRL 0 0 2).isDarzil 0 = false ∧ ((timed .locked).setReg .PORT_CTRL 0 0 2).ftu.port = 0 ∧ 0 < 16 := by decide +kernel

/-! Commands. -/

/-- Context 0 is created, its ring and the control ring have room, and the context stands as `f` says. -/
def manned (f : Ctx → Ctx) : State := { serving with
  ctxs := f { created := true } :: List.replicate 15 {}
  rings := List.replicate 17 { cmdLog := 3, cplLog := 4 } }

/-- A command of context 0's ring, and one of the control ring for a context. -/
def ofCtx : Cmd := { ring := 0, seq := 1, ctx := 0, ordered := false }

def ofControl (k : Nat) : Cmd := { ring := 16, seq := 1, ctx := k, ordered := false }

/-- A mould of one slot and no pour. -/
def plainMould : Mould := { header := List.replicate 256 0#8, bounds := [0], groups := [], pours := List.replicate 8 [] }

theorem witness_CommandsPassTheirHeader : commandOf (.energyQuery 1000 ofCtx) = some (1000, ofCtx, 0x10) ∧
    (serving.advance 1000).ringReady ofCtx 0x10 = false ∧ ((manned id).advance 1000).ringReady ofCtx 0x10 = true ∧
    ((manned id).advance 1000).ringReady { ofCtx with ctx := 3 } 0x10 = true ∧
    (((manned id).advance 1000).recovered 0).headerStatus { ofCtx with ctx := 3 } 0x10 ≠ stOk ∧
    (let u := ({ manned id with upsets := [(.cmdp 0 5, 3)] } : State).advance 1000
     u.ringReady ofCtx 0x10 = true ∧ u.memoryFails ofCtx 0x10 = true) := by decide +kernel

theorem witness_CommandsPassTheirHeader_table : (manned id).boot.st ≠ .hold ∧ opRow 0x13 = none ∧
    ({ serving with boot := { serving.boot with st := .hold } } : State).boot.st = .hold ∧ 0x22 ∉ [0x0B, 0x0C, 0x11] ∧
    0x22 ∉ [0x10, 0x11, 0x12] ∧ 16 ≤ (ofControl 15).ring ∧ (ofControl 15).ctx < 16 ∧ ({ ofCtx with ctx := 3 } : Cmd).ctx ≠ ofCtx.ring := by
  decide +kernel

/-- The control ring has a completion ring in working store. -/
def replying : State := (manned id).setRing 16 (fun g => { g with cplBase := wsBase 0 + 0x8000 })

theorem witness_RepliesAndRingRegisters : 16 < replying.rings.length ∧ Memory.wf replying.mem = true ∧
    (let a := (replying.ring 16).cplBase + 32 * (replying.ring 16).cplTail
     isWs a = true ∧ isWs (a + 31) = true ∧ a % 32 = 0) ∧ (replying.ring 16).cplTail < 2 ^ (replying.ring 16).cplLog ∧
    ((serving.ring 0).cmdLog = 0 ∧ (replying.ring 0).cmdLog ≠ 0 ∧ 7 % 65536 < 2 ^ (replying.ring 0).cmdLog ∧ (serving.ring 0).cplLog = 0 ∧
      (replying.ring 0).cplLog ≠ 0 ∧ (0 % 65536 + 2 ^ (replying.ring 0).cplLog - (replying.ring 0).cplHead) % 2 ^ (replying.ring 0).cplLog ≤
        (replying.ring 0).used) := by decide +kernel

/-- Context 0 holds a plain mould in a state. -/
def holds (st : CtxSt) : State := manned (fun x => { x with st := st, mould := some plainMould, heatUnits := 1024, span := 1048576 })

theorem witness_ArmAndHalt_arm : ((holds .loaded).advance 1000).takes ofCtx 0x02 = true ∧
    (let v := (((holds .loaded).advance 1000).entered ofCtx 0x02).2
     let x := v.ctx (cmdTarget ofCtx)
     x.st = .loaded ∧ x.timingPending = false ∧ 21504 % 1024 = 0 ∧ v.ft + 20480 ≤ 21504 ∧ x.fabric = false ∧
       v.namesDisabled (cmdTarget ofCtx) = false) := by decide +kernel

theorem witness_ArmAndHalt_halt : ∀ st ∈ [CtxSt.running, .armed, .faulted], ((holds st).advance 1000).takes ofCtx 0x03 = true ∧
    (let x := (((holds st).advance 1000).entered ofCtx 0x03).2.ctx (cmdTarget ofCtx)
     x.st = st ∧ x.haltPending = false ∧ x.preempt = none ∧ x.preemptTaken = false) := by decide +kernel

theorem witness_ArmAndHalt_alone : ∀ st ∈ [CtxSt.running, .armed, .faulted], (((holds st).advance 1000).entered ofCtx 0x03).2.outOf 0 0x12 = none := by
  decide +kernel

/-- A command of context 0 that waits for its completion. -/
def owes (s : State) (ring op a : Nat) : State := s.setRing ring (fun g => { g with out := [{ op := op, seq := 1, ring := ring, a := a }] })

theorem witness_ArmAndHalt_end : ((holds .halting).ctx 0).destroying = false ∧ (∀ e ∈ (owes (holds .halting) 0 0x03 0).units, ∀ h ∈ e.2.queue, h.ctx ≠ 0) ∧
    (((holds .halting).setCtx 0 (fun x => { x with lastCode := 3 })).ctx 0).lastCode ≠ 0 ∧ Sparse.wf 0#64 (holds .halting).regs = true ∧
    ((owes (holds .halting) 0 0x03 0).setCtx 0 (fun x => { x with lastCode := 3 })).quiet 0 = true ∧ (owes (holds .halting) 0 0x03 0).quiet 0 = true ∧
    (owes (holds .halting) 0 0x03 0).outOf 0 0x03 = some { op := 0x03, seq := 1, ring := 0 } := by decide +kernel

/-- The partition of context 0 holds every unit of a kind that a test names. -/
def owning (st : CtxSt) : State := manned (fun x => { x with
  st := st, mould := some plainMould, heatUnits := 1024, span := 1048576
  part := { engines := 2 ^ 384 - 1, movers := 2 ^ 512 - 1, banks := 2 ^ 128 - 1, channels := 2 ^ 512 - 1, adders := 2 ^ 8 - 1,
            ways := List.replicate 8 0, allot := List.replicate 8 100, bridgeShare := List.replicate 20 0, portShare := List.replicate 16 0 } })

/-- A mould timing setting: HEAT_UNITS. -/
def heatSetting : StageItem := { unit := unitId 0 clsPLAN 0, param := 1, value := 2048 }

theorem witness_SettingsAreStagedAndCommitted_stage : ((owning .loaded).advance 1000).takes ofCtx 0x04 = true ∧
    (∀ g ∈ [heatSetting], (((owning .loaded).advance 1000).entered ofCtx 0x04).2.itemOk 0 g = true) ∧
    ([heatSetting].foldl (fun l g => putSetting l (stageKey g)) ((owning .loaded).ctx 0).stage).length ≤ 4096 ∧
    [heatSetting] = [] ++ [heatSetting] := by decide +kernel

/-- The setting is staged; and it is pending for T = 21,504. -/
def staged : State := (owning .loaded).setCtx 0 (fun x => { x with stage := [stageKey heatSetting] })

def pendingCommit : State := (owning .loaded).setCtx 0 (fun x => { x with commit := some (21504, [stageKey heatSetting]) })

theorem witness_SettingsAreStagedAndCommitted_commit : (staged.advance 1000).takes ofCtx 0x05 = true ∧
    (let v := ((staged.advance 1000).entered ofCtx 0x05).2;
     (v.ctx 0).commit = none ∧ 21504 % 64 = 0 ∧ v.ft + 20480 ≤ 21504 ∧ (v.ctx 0).active = false ∧ v.setOk 0 21504 (v.ctx 0).stage = true) ∧
    (pendingCommit.advance 1000).takes ofCtx 0x05 = true ∧
    (let v := ((pendingCommit.advance 1000).entered ofCtx 0x05).2;
     (v.ctx 0).commit = some (21504, [stageKey heatSetting]) ∧ v.ft + 10240 ≤ 21504) ∧ 21504 ≤ (pendingCommit.advance 21504).ft ∧
    [stageKey heatSetting].Pairwise (fun a b => ¬(a.unit = b.unit ∧ a.param = b.param)) ∧
    (∀ g ∈ [stageKey heatSetting], unitCls g.unit = clsPLAN → g.unit = unitId 0 clsPLAN 0) := by decide +kernel

/-- Creation of context 1 with an empty partition of its own, and one whose partition is too short. -/
def newContext : Create := { ringVa := 0x10000, cplVa := 0x20000, table := 0, tableBytes := 65536, n := 3, m := 4, home := 0, recover := false }

theorem witness_ContextsComeAndGo_create : ((manned id).advance 1000).takes (ofControl 1) 0x20 = true ∧
    (let v := (((manned id).advance 1000).entered (ofControl 1) 0x20).2
     1 < (manned id).ctxs.length ∧ 1 < (manned id).rings.length ∧ (v.ctx 1).created = false ∧
       v.partCheck 1 [] true 0 65536 ≠ stOk) := by decide +kernel

/-- A partition payload that names nothing. -/
def noUnits : List Byte := List.replicate 224 0#8

theorem witness_ContextsComeAndGo_created :
    (((manned id).advance 1000).entered (ofControl 1) 0x20).2.partCheck 1 noUnits true 0 65536 = stOk := by decide +kernel

theorem witness_ContextsComeAndGo_others : ((manned id).advance 1000).takes (ofControl 0) 0x21 = true ∧
    ((((manned id).advance 1000).entered (ofControl 0) 0x21).2.ctx 0).st = .empty ∧
    ((((manned id).advance 1000).entered (ofControl 0) 0x21).2.ctx 0).destroying = false ∧
    ((manned id).advance 1000).takes (ofControl 0) 0x22 = true ∧
    ((((manned id).advance 1000).entered (ofControl 0) 0x22).2.ctx 0).destroying = false ∧
    (let s := owes (manned (fun x => { x with destroying := true })) 16 0x22 0
     0 < s.ctxs.length ∧ (s.ctx 0).destroying = true ∧ s.quiet 0 = true ∧
       (s.ring 16).out.find? (fun x => x.op = 0x22 && x.ctx == 0) = some { op := 0x22, seq := 1, ring := 16 } ∧ 0 < s.rings.length) := by
  decide +kernel

theorem witness_ContextsComeAndGo_accounts : 1 < (manned id).energyAt.length ∧ Sparse.wf 0 (manned id).energy = true ∧
    ((((manned id).advance 1000).entered (ofControl 0) 0x21).2).pwr.length = 8 ∧
    (let v := (((manned id).advance 1000).entered (ofControl 0) 0x21).2
     v.partCheck 0 noUnits true (v.ctx 0).tableArea (v.ctx 0).tableBytes = stOk ∨ v.partCheck 0 noUnits true (v.ctx 0).tableArea (v.ctx 0).tableBytes ≠ stOk) ∧
    (let s := owes (manned (fun x => { x with destroying := true })) 16 0x22 0
     (s.advance 1000).landing.any (fun r => r.ctx = 0) = false ∧ s.controlBusy 0 = false) := by decide +kernel

/-- Context 0 runs and waits for a boundary of its heat. -/
def leaving (taken : Bool) : State := (holds .running).setCtx 0 (fun x => { x with preempt := some (0, 16), preemptTaken := taken })

theorem witness_PreemptionStopsAtABoundary : (∀ st ∈ [CtxSt.armed, .running], ((holds st).advance 1000).takes ofCtx 0x12 = true ∧
      (let x := (((holds st).advance 1000).entered ofCtx 0x12).2.ctx 0
       x.st = st ∧ x.haltPending = false ∧ x.commit = none ∧ x.preempt = none ∧ x.preemptTaken = false)) ∧
    ((leaving false).ctx 0).preempt = some (0, 16) ∧ ((leaving false).ctx 0).preemptTaken = false ∧
    ((leaving false).advance 1023).ft < ((leaving false).ctx 0).boundaryFt (0, 16) ∧
    ((leaving false).ctx 0).boundaryFt (0, 16) ≤ ((leaving false).advance 1024).ft ∧
    ((leaving true).ctx 0).preemptTaken = true ∧ ((leaving true).ctx 0).st = .running ∧ (leaving true).quiet 0 = true ∧
    (∀ e ∈ (leaving true).units, ∀ h ∈ e.2.queue, h.ctx ≠ 0) ∧
    (owes (leaving true) 0 0x12 0).outOf 0 0x12 = some { op := 0x12, seq := 1, ring := 0 } := by decide +kernel

/-- Context 0 is loaded with a resume point. -/
def paused : State := (holds .loaded).setCtx 0 (fun x => { x with resume := some 16 })

theorem witness_PreemptionStopsAtABoundary_resume : (paused.advance 1000).takes ofCtx 0x12 = true ∧
    (let v := ((paused.advance 1000).entered ofCtx 0x12).2;
     (v.ctx 0).resume = some 16 ∧ (v.ctx 0).st = .loaded ∧ (v.ctx 0).fabric = false ∧ 21504 % 1024 = 0 ∧ v.ft + 20480 ≤ 21504 ∧
       v.namesDisabled 0 = false ∧ (v.ctx 0).commit = none) ∧
    (let s := paused.setCtx 0 (fun x => { x with commit := some (21504, []) });
     (s.advance 1000).takes ofCtx 0x12 = true ∧ ((((s.advance 1000).entered ofCtx 0x12).2).ctx 0).commit ≠ none) := by decide +kernel

theorem witness_UnitsAndPowerCommands : unitExists (unitId 7 clsME 0) = true ∧ unitExists (unitId 7 clsME 48) = false ∧ (∀ op ∈ [0x0D, 0x0E, 0x0F, 0x11], ((manned id).advance 1000).takes (ofControl 0) op = true) ∧
    canDisable (unitId 7 clsME 0) = true ∧ ((manned id).unit (unitId 7 clsME 0)).disabled = false ∧
    ((manned id).unit (unitId 7 clsME 0)).drainBy = none ∧ (manned id).pwr.length = 8 ∧ ((manned id).advance 1000).takes ofCtx 0x10 = true ∧
    (let u := unitId 7 clsME 0
     let s := owes ((manned id).setUnit u (fun x => { x with drainBy := some 2000 })) 16 0x0D u;
     (s.unit u).drainBy = some 2000 ∧ 2000 ≤ (s.advance 2000).ft ∧
       (s.ring 16).out.find? (fun x => x.op = 0x0D && x.a == u) = some { op := 0x0D, seq := 1, ring := 16, a := u } ∧
       (s.unit u).queue = [] ∧ (s.unit u).running = none ∧
       ((s.setUnit u (fun x => { x with disabled := true })).unit u).disabled = true) := by decide +kernel

/-! LOAD_MOULD. -/

/-- A mould image of one slot with one NOP pour on a matrix engine of D0, 296 bytes in five lines (R48 to R51); its digest is SHA-384 as
computed outside the model. -/
def imageLine0 : List Byte := [77, 79, 76, 68, 1, 0, 0, 1, 40, 1, 0, 0, 0, 0, 0, 0, 0, 4, 0, 0, 0, 0, 0, 0, 0, 0, 0, 0, 0, 0, 0, 0, 0,
  1, 0, 0, 0, 0, 0, 0, 1, 0, 0, 0, 0, 0, 0, 0, 0, 0, 0, 0, 0, 0, 0, 0, 0, 0, 0, 0, 0, 0, 0, 0].map (BitVec.ofNat 8)

def imageLine1 : List Byte := [0, 0, 0, 0, 0, 0, 0, 0, 8, 1, 0, 0, 0, 0, 0, 0, 1, 0, 0, 0, 0, 0, 0, 0, 0, 0, 0, 0, 0, 0, 0, 0, 0, 0, 0,
  0, 0, 0, 0, 0, 0, 0, 0, 0, 0, 0, 0, 0, 0, 0, 0, 0, 0, 0, 0, 0, 0, 0, 0, 0, 0, 0, 0, 0].map (BitVec.ofNat 8)

def imageLine2 : List Byte := [0, 0, 0, 0, 0, 0, 0, 0, 0, 0, 0, 0, 0, 0, 0, 0, 0, 0, 0, 0, 0, 0, 0, 0, 0, 0, 0, 0, 0, 0, 0, 0, 0, 0, 0,
  0, 0, 0, 0, 0, 0, 0, 0, 0, 0, 0, 0, 0, 0, 0, 0, 0, 0, 0, 0, 0, 0, 0, 0, 0, 0, 0, 0, 0].map (BitVec.ofNat 8)

def imageLine3 : List Byte := [0, 0, 0, 0, 0, 0, 0, 0, 130, 71, 174, 222, 16, 35, 186, 171, 170, 106, 13, 21, 190, 247, 138, 128, 9,
  121, 143, 132, 26, 242, 99, 39, 118, 139, 196, 214, 75, 192, 171, 156, 230, 253, 44, 135, 222, 247, 175, 6, 8, 95, 22, 148, 244, 172,
  102, 190, 0, 0, 0, 0, 0, 0, 0, 0].map (BitVec.ofNat 8)

def imageLine4 : List Byte := [0, 0, 0, 0, 0, 0, 0, 0, 16, 0, 0, 0, 0, 1, 0, 0, 0, 0, 0, 0, 0, 0, 0, 0, 0, 0, 0, 0, 255, 255, 0, 0, 255,
  255, 0, 0, 0, 0, 0, 0, 0, 0, 0, 0, 0, 0, 0, 0, 0, 0, 0, 0, 0, 0, 0, 0, 0, 0, 0, 0, 0, 0, 0, 0].map (BitVec.ofNat 8)

def image1 : List Byte := (imageLine0 ++ imageLine1 ++ imageLine2 ++ imageLine3 ++ imageLine4).take 296

theorem test_digest_of_image1 : sha384 (overlay image1 200 (List.replicate 48 0#8)) = (image1.drop 200).take 48 := by decide +kernel

/-- Context 0 owns tier 1, its pages at 0 are in the translation cache of its home, and the image lies there. -/
def withImage : State :=
  { buffered (owning .empty) [(0, imageLine0), (1, imageLine1), (2, imageLine2), (3, imageLine3), (4, imageLine4)] with
    tc := [⟨0, 0, false, 5, true⟩] :: List.replicate 7 [] }

/-- Context 0 as LOAD_MOULD reads the image, and after the reads of its header, tables and whole image. -/
def loading0 : State := ((withImage.advance 1000).entered ofCtx 0x01).2.setCtx 0 (fun x => { x with commit := none })

def loading1 : State := (loading0.readVa 0 0 0 256).1

def loading2 : State := (State.readMany 0 0 [(256, 8), (0, 0)] loading1).1

def loaded1 : State := (loading2.readVa 0 0 0 296).1

theorem loading_home : (loading0.ctx 0).home = 0 := by decide +kernel

theorem loading_header : loading0.readVa 0 0 0 256 = (loading1, .ok (image1.take 256)) :=
  pair_of_snd (p := loading0.readVa 0 0 0 256) (by decide +kernel)

theorem loading_tables : State.readMany 0 0 [(256, 8), (0, 0)] loading1 = (loading2, .ok [(image1.drop 256).take 8, []]) :=
  pair_of_snd (p := State.readMany 0 0 [(256, 8), (0, 0)] loading1) (by decide +kernel)

theorem loading_all : loading2.readVa 0 0 0 296 = (loaded1, .ok image1) := pair_of_snd (p := loading2.readVa 0 0 0 296) (by decide +kernel)

theorem witness_LoadMouldLoadsTheImage_reads : loading0.readsImage 0 0 image1 loaded1 := by
  unfold State.readsImage
  rw [loading_home]
  refine ⟨image1.take 256, (image1.drop 256).take 8, [], [], loading1, loading2, loading2, loading_header, ?_, ?_, ?_, ?_, ?_, ?_, ?_, ?_,
    test_digest_of_image1⟩
  · decide +kernel
  · exact loading_tables
  · decide +kernel
  · decide +kernel
  · rfl
  · decide +kernel
  · decide +kernel
  · exact loading_all

theorem loaded_entries : ∃ i n, loaded1.allot 0 0 1 = ({ loaded1 with freeCount := n }, some (i, 1)) := by
  have hr : freeRuns (loaded1.heldEntries 0 0) = [(0, 65536)] := by decide +kernel
  have hk : placeCount [(0, 65536)] 1 = 65536 := by decide +kernel
  unfold State.allot
  rw [hr]
  simp only [hk, State.free, nthPlace, Nat.reduceEqDiff, Nat.reduceLT, if_false]
  have hm := Nat.mod_lt (Config.freeNat loaded1.freeCount) (show 65536 > 0 by decide)
  rw [if_pos (by omega)]
  exact ⟨_, _, rfl⟩

theorem witness_LoadMouldLoadsTheImage_entries : ∃ entries w', loaded1.allotAll 0
    (((dies.map (imagePours image1)).map (fun l => l.map parsePour)).map List.length) = (w', some entries) ∧
    (∀ i < 20, 100 * popCount 64 (w'.dir (dirOf i)).retired ≤ 64 * fieldAt (image1.take 256) (48 + i) 1) := by
  obtain ⟨i, n, h⟩ := loaded_entries
  have hl : ((dies.map (imagePours image1)).map (fun l => l.map parsePour)).map List.length = [1, 0, 0, 0, 0, 0, 0, 0] := by decide +kernel
  have hd : ∀ i < 20, 100 * popCount 64 (loaded1.dir (dirOf i)).retired ≤ 64 * fieldAt (image1.take 256) (48 + i) 1 := by decide +kernel
  rw [hl]
  refine ⟨[(i, 1), (0, 0), (0, 0), (0, 0), (0, 0), (0, 0), (0, 0), (0, 0)], { loaded1 with freeCount := n }, ?_, by simpa only [State.dir, State.bridge] using hd⟩
  have ht : ∀ (s : State) (d : Nat), s.allot 0 d 0 = (s, some (0, 0)) := fun _ _ => rfl
  simp only [State.allotAll, dies, List.range, List.range.loop, List.zip_cons_cons, List.zip_nil_left, List.foldl_cons, List.foldl_nil, h, ht,
    Option.map_some, List.nil_append, List.cons_append]

theorem witness_LoadMouldLoadsTheImage : (withImage.advance 1000).takes ofCtx 0x01 = true ∧
    (((withImage.advance 1000).entered ofCtx 0x01).2.ctx (cmdTarget ofCtx)).st = .empty ∧
    (dies.all fun d => (imagePours image1 d).all fun b => pourOk (loaded1.ctx 0).part d (1024 * fieldAt image1 16 4) b) = true ∧
    (∀ l ∈ (dies.map (imagePours image1)).map (fun l => l.map parsePour), orderOk [] l = true ∧ gatedOk l = true) := by decide +kernel

/-! Translation, serving, heats and pours. -/

/-- Context 0 owns tier 1, whose write-combining buffer holds its tables: root at 0x800, then 0x1000, 0x2000 and 0x3000, with `leaf` for
the page at 0. -/
def walking (leaf : Nat) : State :=
  let line (e : Nat) : List Byte := leBytes 8 e ++ leBytes 56 0
  (buffered (owning .empty) [(0x20, line 0x1001), (0x40, line 0x2001), (0x80, line 0x3001), (0xC0, line leaf)]).setReg .PTU_CTX_ROOT 0 0 0x801

/-- A 64 MiB page at 0 that may be read and written is in the cache of D7. -/
def cached : State := { manned id with tc := List.replicate 7 [] ++ [[⟨0, 0, false, 0xF, false⟩]] }

theorem witness_TranslationFollowsTheTables_cache : (cached.ctx 0).created = true ∧ bitsOf 0x123 63 56 = 0 ∧
    tcHit (cached.tc.getD 7 []) 0 0x123 = some ⟨0, 0, false, 0xF, false⟩ ∧ leafAllows 0xF .rd = true ∧ leafAllows 0xF .wr = true ∧ cached.upsets = [] := by
  decide +kernel

theorem witness_TranslationFollowsTheTables_walk : ((walking 0xF).ctx 0).created = true ∧ tcHit ((walking 0xF).tc.getD 7 []) 0 0x123 = none ∧
    ∃ w, (((walking 0xF).advance 1000).count .PTU_MISSES 7 0 1).walkFrom .rd 0 0x123 = (w, .ok (0xF, false)) := by
  refine ⟨by decide +kernel, by decide +kernel, _,
    pair_of_snd (p := (((walking 0xF).advance 1000).count .PTU_MISSES 7 0 1).walkFrom .rd 0 0x123) (by decide +kernel)⟩

theorem witness_TranslationFollowsTheTables_tables : (walking 0xF).hcx.dir = [] ∧ (walking 0xF).hcx.msgs = [] ∧ (walking 0xF).hcx.down = none ∧ (walking 0xF).hcx.found = none ∧
    (walking 0xF).ecc = [] ∧ (walking 0xF).upsets = [] ∧ (∀ x ∈ (walking 0xF).wcb, x.2.err = [] ∧ x.2.fill = false) ∧
    bitOf ((walking 0xF).reg .PTU_CTX_ROOT 0 0) 0 = true ∧ 2048 * bitsOf ((walking 0xF).reg .PTU_CTX_ROOT 0 0) 43 11 = 0x800 ∧
    leNat ((walking 0xF).peekBytes 0x800 8) = 0x1001 ∧ leNat ((walking 0xF).peekBytes 0x1000 8) = 0x2001 ∧
    leNat ((walking 0xF).peekBytes 0x2000 8) = 0x3001 ∧ leNat ((walking 0xF).peekBytes 0x3000 8) = 0xF ∧
    (∀ e ∈ [0x1001, 0x2001, 0x3001], bitOf e 0 = true ∧ bitOf e 1 = false ∧ pointerOk e = true ∧
      128 * bitsOf e 43 7 = e - 1) ∧ bitOf 0xF 0 = true ∧ bitOf 0xF 1 = true ∧ leafOk 0 0xF = true := by decide +kernel

/-- MAP, UNMAP and INVAL_TC as context 0's ring brings them. -/
def entering (s : State) (op : Nat) : State := ((s.advance 1000).entered ofCtx op).2

theorem witness_MapsAndInvalidations_map : ((walking 0).advance 1000).takes ofCtx 0x06 = true ∧
    ((walking 0xF).advance 1000).takes ofCtx 0x06 = true ∧ 65536 < 65537 ∧ 0 % 2 ^ 26 = 0 ∧ 0 + 1 * 2 ^ 26 ≤ 2 ^ 56 ∧
    (State.mapAll 0 0 3 false (bitOf 3 3) 0 (List.range 1) (entering (walking 0xF) 0x06)).2 = some .mapped ∧
    (State.mapAll 0 0 11 false (bitOf 11 3) 0 (List.range 1) (entering (walking 0) 0x06)).2 = none ∧
    (∀ i < 1, (entering (walking 0) 0x06).targetOk 0 (0 + i * 2 ^ 26) false = true) ∧
    (∀ d < 8, touchesDie ((entering (walking 0) 0x06).ctx 0).part d = true →
      (entering (walking 0) 0x06).pinnedOf d 0 + 1 ≤ ((entering (walking 0) 0x06).ctx 0).part.allot.getD d 0) := by decide +kernel

/-- Context 0 owns tier 1, whose memory holds its tables: root at 0x800, then 0x1000, 0x2000 and 0x3000, where no leaf stands. -/
def tabled : State :=
  { owning .empty with mem := [(0x800, 1#8), (0x801, 0x10#8), (0x1000, 1#8), (0x1001, 0x20#8), (0x2000, 1#8), (0x2001, 0x30#8)] }.setReg .PTU_CTX_ROOT 0 0 0x801

theorem witness_MapsAndInvalidations_leaf : (tabled.advance 1000).takes ofCtx 0x06 = true ∧
    (let v := entering tabled 0x06
     v.memoryQuiet ∧ bitOf (v.reg .PTU_CTX_ROOT 0 0) 0 = true ∧ 2048 * bitsOf (v.reg .PTU_CTX_ROOT 0 0) 43 11 = 0x800 ∧
      leNat (v.peekBytes 0x800 8) = 0x1001 ∧ leNat (v.peekBytes 0x1000 8) = 0x2001 ∧ leNat (v.peekBytes 0x2000 8) = 0x3001 ∧
      (∀ e ∈ [0x1001, 0x2001, 0x3001], bitOf e 0 = true ∧ bitOf e 1 = false ∧ 128 * bitsOf e 43 7 = e - 1) ∧
      bitOf (leNat (v.peekBytes 0x3000 8)) 0 = false ∧ isTier1 0x3000 = true ∧ v.targetOk 0 0 false = true ∧
      ∀ d < 8, touchesDie (v.ctx 0).part d = true → v.pinnedOf d 0 + 1 ≤ (v.ctx 0).part.allot.getD d 0) := by
  unfold State.memoryQuiet State.errorFree
  decide +kernel

theorem witness_MapsAndInvalidations_unmap : ((walking 0xF).advance 1000).takes ofCtx 0x07 = true ∧
    ((walking 0xF).advance 1000).takes ofCtx 0x08 = true ∧
    ∃ w, State.clearLeaves 0 false ((List.range 1).map (fun i => 0 + i * 2 ^ 26)) (entering (walking 0xF) 0x07) = (w, true) := by
  refine ⟨by decide +kernel, by decide +kernel, _, pair_of_snd
    (p := State.clearLeaves 0 false ((List.range 1).map (fun i => 0 + i * 2 ^ 26)) (entering (walking 0xF) 0x07)) (by decide +kernel)⟩

/-- An invalidation on its way to D7, and one that waits for nothing more. -/
def inval (on : List Nat) : Inval := { ctx := 0, lo := 0, hi := 2 ^ 26, unmap := false, dies := on, cmd := { op := 0x08, seq := 1, ring := 0 } }

theorem witness_MapsAndInvalidations_points :
    ({ manned id with invals := [inval [7]] } : State).invals.find? (fun i => i.ctx = 0 && i.dies.contains 7) = some (inval [7]) ∧
    Sparse.wf 0#64 (manned id).regs = true ∧ (inval []).lastFt < 2 ^ 64 ∧
    ({ manned id with invals := [inval []] } : State).invals.find? (fun i => i.ctx = 0 && i.dies.isEmpty &&
      i.retiring.all (({ manned id with invals := [inval []] } : State).advance 1000).retired) = some (inval []) := by decide +kernel

/-- Context 0 serves: a pool of 64 pages of 16 tokens, one bound sequence with its page, and the next heat at 1,049,576. -/
def hosting : State := (manned id).setCtx 0 (fun x => { x with
  st := .running, mould := some plainMould, heatUnits := 1024, span := 1048576, heatStart := 1000
  settings := [⟨unitId 0 clsCMDP 0, 0x100, 0x100000⟩, ⟨unitId 0 clsCMDP 0, 0x101, 64⟩, ⟨unitId 0 clsCMDP 0, 0x102, 16⟩,
    ⟨unitId 0 clsCMDP 0, 0x103, 8⟩]
  seqs := [{ slot := 5, tokens := 4, maxTokens := 32, pageList := 0, pages := [0] }] })

/-- An entry of SEQ_ADMIT. -/
def newcomer : Admit := { slot := 65535, prompt := 1, maxTokens := 2, pageList := 4096 }

theorem witness_SequencesAreServed_commands : (hosting.advance 1000).takes ofCtx 0x09 = true ∧
    ((entering hosting 0x09).ctx 0).active = true ∧ (∀ e ∈ [newcomer], admitOk ((entering hosting 0x09).ctx 0).tpp e = true) ∧
    ([newcomer].map Admit.slot).Nodup ∧ (∀ e ∈ [newcomer], (entering hosting 0x09).slotBound e.slot = false) ∧
    (hosting.advance 1000).takes ofCtx 0x0A = true ∧ [5].Nodup ∧
    (∀ x ∈ [5], ∃ q ∈ ((entering hosting 0x0A).ctx 0).seqs, q.slot = x ∧ q.retiring = false) := by decide +kernel

theorem witness_SequencesAreServed_decision : (let x := hosting.ctx 0
    let u := hosting.advance 1040000
    x.active = true ∧ x.isServing = true ∧ x.decidedFor x.nextHeat.1 = false ∧ x.nextHeat.2 ≤ u.ft + 20480 ∧ u.ft + 4096 ≤ x.nextHeat.2 ∧
      (x.seqs.map SeqSt.slot).Nodup ∧ x.pagesTaken.Nodup ∧ (∀ a ∈ x.admits, ∀ q ∈ a.2.2, q.pages = [])) := by decide +kernel

/-- The foremost die is between 0 and 2 ns ahead of D0 (R47). -/
theorem frontFt_ge (s : State) : s.ft ≤ s.frontFt := le_foldl_max dies s.ft s.dieFt

theorem frontFt_le (s : State) : s.frontFt ≤ s.ft + 2 := foldl_max_le dies s.ft (s.ft + 2) s.dieFt (by omega) (fun d _ => by
  unfold State.dieFt
  split
  · omega
  · exact le_trans (Nat.min_le_right _ _) (foldl_max_le _ _ _ _ (by omega) (fun k _ => by unfold skewed; omega)))

theorem witness_HeatsStartAndFaultsEndContexts_heats : (let u := ((holds .running).advance 1000).applyBy 0 ((holds .running).advance 1000).frontFt;
      (u.ctx 0).active = true ∧ (u.ctx 0).destroying = false ∧ (u.ctx 0).preemptTaken = false ∧ u.frontFt < (u.ctx 0).nextHeat.2) ∧
    (let u := ((holds .running).advance 1048576).applyBy 0 ((holds .running).advance 1048576).frontFt;
      (u.ctx 0).nextHeat.2 ≤ u.frontFt ∧ (u.ctx 0).haltPending = false ∧ (u.ctx 0).diverged = false ∧ (u.ctx 0).preempt = none ∧
      (u.ctx 0).skipBelow = 0 ∧ (u.ctx 0).nextHeat.1 < 2 ^ 64) ∧
    (((holds .running).setCtx 0 (fun x => { x with haltPending := true })).ctx 0).haltPending = true := by
  have h0 : (((holds .running).advance 1000).ctx 0).commit = none := by decide +kernel
  have h1 : (((holds .running).advance 1048576).ctx 0).commit = none := by decide +kernel
  have b : ∀ t, ((holds .running).advance t).frontFt ≤ ((holds .running).advance t).ft + 2 := fun t => frontFt_le _
  have c : ∀ t, ((holds .running).advance t).ft ≤ ((holds .running).advance t).frontFt := fun t => frontFt_ge _
  simp only [State.applyBy, h0, h1]
  refine ⟨⟨by decide +kernel, by decide +kernel, by decide +kernel, lt_of_le_of_lt (b 1000) (by decide +kernel)⟩,
    ⟨le_trans (by decide +kernel) (c 1048576), by decide +kernel, by decide +kernel, by decide +kernel, by decide +kernel, by decide +kernel⟩,
    by decide +kernel⟩

/-- A fault against context 0. -/
def fatal : FaultIn := { code := 0x12, unit := 0x100, ctx := 0, severity := 2, address := 0, detail := 0 }

theorem witness_HeatsStartAndFaultsEndContexts_faults : isStatus fatal.code = true ∧ fatal.severity = 2 ∧ fatal.ctx < 16 ∧ ((holds .running).ctx fatal.ctx).created = true ∧ ((holds .running).ctx 0).haltPending = false ∧ ((holds .halting).ctx 0).st = .halting := by
  decide +kernel

theorem witness_HeatsStartAndFaultsEndContexts_first : ((holds .running).ctx fatal.ctx).hasFailed = false ∧ ((holds .halting).ctx fatal.ctx).hasFailed = false ∧
    (∀ s ∈ [holds .running, holds .halting], s.pending = []) ∧
    (let u := (((holds .running).setCtx 0 (fun x => { x with haltPending := true })).advance 1048576)
     u.outOf 0 0x12 = none) := by decide +kernel

/-- A pour of a unit in slot 32 of the heat, and a mould that holds it on D0. -/
def pour1 (unit action : Nat) : Pour :=
  { offset := 32, unit := unit, action := action, desc := 0, hold := 0, flags := 0, wait := 0xFFFF, waitCount := 0, signal := 3 }

/-- Context 0 runs heat 0 with that pour in its mould; the pour is handed over with a descriptor. -/
def pouring (unit action : Nat) : State := (owning .running).setCtx 0 (fun x => { x with
  mould := some { plainMould with pours := [pour1 unit action] :: List.replicate 7 [] } })

def held1 (unit action : Nat) (desc : Option (List Byte)) : Held :=
  { ctx := 0, heat := 0, die := 0, pour := pour1 unit action, due := 2048, desc := desc }

def handedOver (unit action : Nat) (desc : Option (List Byte)) : State :=
  (pouring unit action).setUnit unit (fun u => { u with queue := [held1 unit action desc] })

theorem witness_PoursGoFromDispatchToSignal_dispatch : (let s := pouring 0x100 1
    let x := s.ctx 0
    x.active = true ∧ x.destroying = false ∧ x.preemptTaken = false ∧
      x.mould.bind (fun m => (m.pours.getD 0 [])[0]?) = some (pour1 0x100 1) ∧ (s.unit 0x100).disabled = false ∧
      (s.unit 0x100).drainBy = none ∧ x.heatFor 0 0 (pour1 0x100 1) false (s.advance 1500).ft = some 0 ∧ descLen 0x100 1 = some 192 ∧
      s.upsets = [] ∧ unitCls 0x100 ≠ clsUU) ∧ descLen 0x100 0x7F = none ∧ (pour1 0x500 1).gated = false ∧ unitCls 0x500 = clsUU ∧
    2 ≤ popCount 64 3 := by
  decide +kernel

/-- The descriptor of a kernel lies in the write-combining buffer at a page that D0's cache holds. -/
def arriving : State := { buffered (handedOver 0x200 1 none) [(0, List.replicate 64 0xFF#8)] with
  tc := [⟨0, 0, false, 5, true⟩] :: List.replicate 7 [] }

theorem witness_PoursGoFromDispatchToSignal_arrive : (arriving.unit 0x200).queue.find? (fun h => h.desc.isNone) = some (held1 0x200 1 none) ∧
    (∃ w raw, (arriving.advance 1500).readVa (unitDie 0x200) 0 0 ((descLen 0x200 1).getD 0) = (w, .ok raw) ∧ raw = List.replicate 64 0xFF#8) ∧
    descCheck (arriving.ctx 0).part (pour1 0x200 1) (List.replicate 64 0xFF#8) ≠ stOk := by
  refine ⟨by decide +kernel, ⟨_, _, pair_of_snd
    (p := (arriving.advance 1500).readVa (unitDie 0x200) 0 0 ((descLen 0x200 1).getD 0)) (b := .ok (List.replicate 64 0xFF#8)) (by decide +kernel), rfl⟩,
    by decide +kernel⟩

theorem witness_PoursGoFromDispatchToSignal_launch : ∀ a ∈ [1, 0], (let s := handedOver 0x200 a (some (List.replicate 64 0#8))
    let h := held1 0x200 a (some (List.replicate 64 0#8))
    let u := (s.advance 2048).applyDue 0;
    (s.unit 0x200).queue = [h] ∧ (u.unit 0x200).queue = [h] ∧ u = (s.advance 2048).applyBy 0 (max (s.advance 2048).ft ((s.advance 2048).unitFt 0x200)) ∧
      h.due ≤ (s.advance 2048).unitFt 0x200 ∧ h.pour.overLast = false ∧ u.skips h = false ∧ u.unitFt 0x200 ≤ u.holdEndOf h ∧ u.clockRuns 0x200 = true ∧ u.ready 0x200 h = true ∧ Sparse.wf 0 (u.ctx 0).flags = true ∧ unitCls 0x200 ≠ clsME ∧
      h.pour.signal ≠ 0xFFFF ∧ h.pour.wait = 0xFFFF ∧ (u.ctx 0).flag h.die h.pour.signal < 65535) := by decide +kernel

theorem witness_PoursGoFromDispatchToSignal_late : (let s := handedOver 0x200 1 none
    let h := held1 0x200 1 none
    let u := s.advance 2304;
    (s.unit 0x200).queue = [h] ∧ (s.ctx 0).st = .running ∧ (s.ctx 0).destroying = false ∧ u.holdEndOf h ≤ u.unitFt 0x200 ∧ u.ready 0x200 h = false ∧
      u.skips h = false ∧ h.pour.overLast = false) ∧
    (let h := held1 0x200 1 none
     let g : Held := { h with pour := { h.pour with hold := 100 } }
     let s := (pouring 0x200 1).setUnit 0x200 (fun u => { u with queue := [g, h] })
     let u := s.advance 2304;
     (s.unit 0x200).queue = g :: ([] ++ h :: []) ∧ u.unitFt 0x200 < u.holdEndOf g ∧ u.holdEndOf h ≤ u.unitFt 0x200) := by decide +kernel

theorem witness_PoursGoFromDispatchToSignal_kept : ((handedOver 0x200 1 none).ctx 0).withdraws (held1 0x200 1 none) = false ∧
    (pouring 0x100 0x7F).upsets = [] ∧ descLen 0x100 0x7F = none ∧
    (StoredWord.plan 0 ((((pouring 0x100 1).ctx 0).entries.getD 0 (0, 0)).1 + 0), 3) ∈
      ({ pouring 0x100 1 with upsets := [(StoredWord.plan 0 ((((pouring 0x100 1).ctx 0).entries.getD 0 (0, 0)).1 + 0), 3)] } : State).upsets ∧
    (∀ seg ∈ [0, 1, 63], ((handedOver 0x100 1 (some (List.replicate 192 0#8))).advance 2048).veTouches (engineOf 0x100) seg 1 = none) := by decide +kernel

/-- The pour runs, with its progress. -/
def runs1 (unit action : Nat) (desc : List Byte) (prog : Prog) : Running := ⟨held1 unit action (some desc), 2048, 2048, prog⟩

def runningOn (unit action : Nat) (desc : List Byte) (prog : Prog) : State :=
  { (pouring unit action).setUnit unit (fun u => { u with running := some (runs1 unit action desc prog) }) with ft := 4096, aon := 4096 }

theorem witness_PoursGoFromDispatchToSignal_signal : (let s := runningOn 0x200 1 [] .ended;
    (s.unit 0x200).running = some (runs1 0x200 1 [] .ended) ∧ (runs1 0x200 1 [] .ended).prog = .ended ∧ (s.ctx 0).created = true ∧
      Sparse.wf 0 (s.ctx 0).flags = true ∧ (s.ctx 0).flag 0 3 < 65535) := by decide +kernel

/-! Numbers and matrix engines. -/

theorem witness_EveryEncodingConvertsToItself : 0xF < 2 ^ fmtWidth .e2m1 ∧ valOf .e2m1 0xF ≠ .nan ∧ ¬(Fmt.e2m1 = .gq8 ∧ 0xF = 0x80) ∧
    0xFF800000 < 2 ^ fmtWidth .fp32 ∧ valOf .fp32 0xFF800000 ≠ .nan := by decide +kernel

theorem witness_ChunkSumsAndSplitProducts : [valOf .fp32 1, valOf .fp32 2].Perm [valOf .fp32 2, valOf .fp32 1] ∧ 0 < 32 ∧
    (List.replicate 32 (valOf .fp32 1)).length % 32 = 0 := ⟨List.Perm.swap _ _ _, by decide, by decide⟩

/-- A PRODUCT of a 64 × 128 tile of FP16 operands with K = 1, and with CONTINUE; a DRAIN of one row of one FP32 element. -/
def opdBytes (off : Nat) : List Byte := leBytes 4 off ++ leBytes 4 0 ++ leBytes 4 64 ++ leBytes 4 0 ++ leBytes 1 3 ++ leBytes 15 0

def productBytes (flags : Nat) : List Byte :=
  leBytes 1 2 ++ leBytes 1 0 ++ leBytes 1 0 ++ leBytes 1 flags ++ leBytes 4 1 ++ leBytes 24 0 ++ opdBytes 0 ++ opdBytes 0x2000 ++ leBytes 96 0

def drainBytes : List Byte :=
  leBytes 1 2 ++ leBytes 95 0 ++ leBytes 4 0x4000 ++ leBytes 4 0 ++ leBytes 4 64 ++ leBytes 4 0 ++ leBytes 1 1 ++ leBytes 1 1 ++ leBytes 14 0 ++
  leBytes 4 1 ++ leBytes 2 1 ++ leBytes 2 1 ++ leBytes 56 0

theorem witness_MatrixPoursRunAndDrain_product : (let s := runningOn 0x100 1 (productBytes 0) .start
    let d := parseProd 1 (productBytes 0)
    unitCls 0x100 = clsME ∧ (s.unit 0x100).running = some (runs1 0x100 1 (productBytes 0) .start) ∧ d.cls = some .half ∧ d.a.isSome = true ∧
      d.b.isSome = true ∧ d.out = none ∧ d.drains = false ∧ d.cont = false ∧ s.upsets = [] ∧ (s.advance 4096).passed 0 2048 (coreCycles 1 d) = true) := by
  decide +kernel

theorem running_readable (unit action : Nat) (desc : List Byte) (prog : Prog) : ((runningOn unit action desc prog).advance 4096).readable := by
  have h : (runningOn unit action desc prog).advance 4096 = runningOn unit action desc prog := by
    unfold State.advance; exact if_pos (Nat.le_refl _)
  rw [h]
  exact ⟨rfl, fun _ hx => absurd hx List.not_mem_nil, rfl, rfl, rfl, rfl, rfl⟩

theorem setUnit_readable {s : State} (h : s.readable) (u : Nat) (f : UnitSt → UnitSt) : (s.setUnit u f).readable := h

theorem payProduct_readable {s : State} (h : s.readable) (u : Nat) (all : Bool) : (s.payProduct u all).readable := by
  unfold State.payProduct
  split
  · exact h
  · extract_lets die d
    split
    · exact setUnit_readable (readable_of_bare (by simp only [charge_bare]) h) _ _
    · exact h

theorem witness_MatrixPoursRunAndDrain_operands (a b : Opd) : ∃ w w' la lb,
    (((((runningOn 0x100 1 (productBytes 0) .start).advance 4096).followShare 0).payProduct 0x100 true).loadOpd 0 a (a.extent true 2 1).1 (a.extent true 2 1).2 = (w, some la)) ∧
    w.loadOpd 0 b (b.extent false 2 1).1 (b.extent false 2 1).2 = (w', some lb) := by
  have h : ((runningOn 0x100 1 (productBytes 0) .start).advance 4096).followShare 0 = (runningOn 0x100 1 (productBytes 0) .start).advance 4096 := by
    have h0 : ((runningOn 0x100 1 (productBytes 0) .start).advance 4096).runningOn (veUnit 0) = none := by decide +kernel
    unfold State.followShare
    simp only [h0]
  rw [h]
  have hr := payProduct_readable (running_readable 0x100 1 (productBytes 0) .start) 0x100 true
  obtain ⟨w, la, hw, cw⟩ := loadOpd_readable hr 0 a (a.extent true 2 1).1 (a.extent true 2 1).2
  obtain ⟨w', lb, hw', -⟩ := loadOpd_readable (readable_of_bare cw hr) 0 b (b.extent false 2 1).1 (b.extent false 2 1).2
  exact ⟨w, w', la, lb, hw, hw'⟩

theorem witness_MatrixPoursRunAndDrain_other : (parseProd 1 (productBytes 1)).cont = true ∧
    ((runningOn 0x100 1 (productBytes 1) .start).eng (engineOf 0x100)).tileOf (parseProd 1 (productBytes 1)) = none ∧
    (parseProd 1 (productBytes 0)).cont = false ∧
      ((runningOn 0x100 1 (productBytes 0) .start).advance 0).passed 0 4000 (coreCycles 1 (parseProd 1 (productBytes 0))) = false ∧ (parseProd 2 drainBytes).out.isSome = true ∧
    ((runningOn 0x100 2 drainBytes .start).eng (engineOf 0x100)).tileOf (parseProd 2 drainBytes) = none := by decide +kernel

/-- The tile that the drain finds. -/
def drained : State := (runningOn 0x100 2 drainBytes .start).setEng 0 (fun x => { x with
  tiles := [{ seg := 0, shape := 2, fmt := 0, elems := List.replicate 8192 (0, 0) }] })

theorem witness_MatrixPoursRunAndDrain_drain : ((drained.eng (engineOf 0x100)).tileOf (parseProd 2 drainBytes)).isSome = true ∧
    (drained.advance 4096).passed 0 2048 (coreCycles 2 (parseProd 2 drainBytes)) = true ∧ drained.upsets = [] ∧
    (drained.advance 4096).passed 0 4090 (coreCycles 2 (parseProd 2 drainBytes)) = false ∧ [(([] : List Byte), ([] : List Byte))].length ≤ shapeM 2 := by
  decide +kernel

/-- A drain with one write left, and one whose row finds the tile queue full. -/
def draining (q : List Byte) : DrainStep := { cycle := 3, elems := (0x4000, List.replicate 128 0x77#8), scales := (0, []), queue := q }

theorem witness_MatrixPoursRunAndDrain_write : (let s := runningOn 0x100 2 drainBytes (.draining [draining []] none 0)
    let u := s.advance 4096
    (draining []).queue = [] ∧ (draining []).scales.2 = [] ∧ 0 + 20 * (draining []).cycle ≤ 17 * u.arithNs 0 ∧
      (parseProd 2 drainBytes).out.any (fun o => decide (0 + 20 * drainCycles 2 o (parseProd 2 drainBytes).fuse ≤ 17 * u.arithNs 0)) = true ∧
      s.ecc = [] ∧ Memory.wf s.mem = true) ∧
    (let s := (runningOn 0x100 2 drainBytes (.draining [draining [1#8]] none 0)).setQueue (.tileData 0) (fun _ => { wr := 4096 })
     (s.advance 4096).rowFull 0 [1#8] = true ∧ (s.ctx 0).lastCode = 0 ∧ Sparse.wf 0#64 s.regs = true) := by decide +kernel

/-! The exchange. -/

/-- Descriptors of link adder pours, each for one block with its arrays 4 KiB apart. -/
def packBytes : List Byte := leBytes 4 0 ++ leBytes 4 0x1000 ++ leBytes 4 0x2000 ++ leBytes 4 0x3000 ++ leBytes 4 0x4000 ++ leBytes 4 0x5000 ++
  leBytes 4 0x6000 ++ leBytes 4 1 ++ leBytes 32 0

def tieBytes : List Byte := leBytes 4 32 ++ leBytes 4 2 ++ leBytes 4 0 ++ leBytes 4 0x1000 ++ leBytes 48 0

def combineBytes : List Byte := leBytes 4 0 ++ leBytes 4 0x1000 ++ leBytes 4 0x2000 ++ leBytes 4 0x3000 ++ leBytes 4 1 ++ leBytes 44 0

def renewBytes : List Byte := leBytes 4 0 ++ leBytes 4 0x1000 ++ leBytes 4 0x2000 ++ leBytes 4 0x3000 ++ leBytes 4 0x4000 ++ leBytes 4 1 ++
  leBytes 40 0

def sendBytes : List Byte := leBytes 4 0 ++ leBytes 4 0x1000 ++ leBytes 4 0x2000 ++ leBytes 4 0 ++ leBytes 4 1 ++ leBytes 2 5 ++ leBytes 2 0 ++
  leBytes 8 (2 ^ 44 + 0x80000000000) ++ leBytes 32 0

/-- The pour runs on the first link adder of D0; block 0 of the bitmap at 0x2000 is selected. -/
def adding (action : Nat) (desc : List Byte) (prog : Prog) : State :=
  { runningOn 0x800 action desc prog with mem := [(wsBase 0 + 0x2000, 1#8)] }

theorem adding_runs (action : Nat) (desc : List Byte) (prog : Prog) : (adding action desc prog).runsPour 0x800 clsLADD action
    (runs1 0x800 action desc prog) ∧ (adding action desc prog).errorFree := by
  have hr : (adding action desc prog).regs = serving.regs := by
    simp only [adding, runningOn, State.setUnit, pouring, State.setCtx, owning, manned]
  have h0 : ∀ die < 8, serving.reg .ERR_INJECT die 0 = 0 := by decide +kernel
  have hw : Sparse.wf 0#64 serving.regs = true := by decide +kernel
  have hm : Memory.wf [(wsBase 0 + 0x2000, 1#8)] = true := by decide +kernel
  refine ⟨⟨rfl, rfl, rfl, rfl⟩, rfl, rfl, fun die hd => ?_, hm, by rw [hr]; exact hw⟩
  simpa only [State.reg, hr] using h0 die hd

theorem witness_BucketsArePackedTiedAndCombined : (let s := adding 0x10 packBytes (.packing 0 0 0)
      let at' (o : Nat) : Nat := wsAt 0 (fieldAt packBytes o 4)
      (laddCheck (s.ctx 0).part 0 0x10 32 packBytes = stOk ∧ 2048 + portNs (128 + ceilDiv 1 2) ≤ (s.advance 4096).ft ∧ 0 < s.ctxs.length ∧
        (∀ i < 32, s.numAt 1 (at' 16 + i / 32) ≤ 0xF8)) ∧
      (at' 12 + 32 ≤ at' 8 ∨ at' 8 + 64 ≤ at' 12) ∧ at' 12 + 32 ≤ at' 24 ∧ at' 8 + 64 ≤ at' 24) ∧
    (let s := adding 0x11 tieBytes .start;
      (laddCheck (s.ctx 0).part 0 0x11 32 tieBytes = stOk ∧ 2048 + portNs (64 + (2 - 1) * ceilDiv 32 32) ≤ (s.advance 4096).ft)) ∧
    (let s := adding 2 combineBytes .start;
      (laddCheck (s.ctx 0).part 0 2 32 combineBytes = stOk ∧ selected 1 (s.peekBytes (wsBase 0 + 0x2000) 1) = [0] ∧
        inBanks (s.ctx 0).part 0 0x3000 33 = true ∧ 2048 + portNs (64 + ceilDiv 1 2) ≤ (s.advance 4096).ft)) := by decide +kernel

theorem witness_RenewSelectsTheLargestKeys : (let s := adding 3 renewBytes (.packing 1 4 0);
      (laddCheck (s.ctx 0).part 0 3 32 renewBytes = stOk ∧ 2048 + portNs (256 + 1) ≤ (s.advance 4096).ft ∧
        s.numAt 8 (wsAt 0 0x4000) % 2 ^ 32 ≠ 1 % 2 ^ 32 ∧ ¬(s.numAt 8 (wsAt 0 0x4000) % 2 ^ 32 ≠ 0 % 2 ^ 32) ∧
        (∀ b < 1, s.numAt 1 (wsAt 0 0x1000 + b) ≤ 0xF8))) ∧
    (wsAt 0 0x1000 + 1 ≤ wsAt 0 0x3000 ∧ wsAt 0 0x3000 + 4 ≤ wsAt 0 0x4000 ∧ wsAt 0 0x2000 + 1 ≤ wsAt 0 0x3000 ∧
      wsAt 0 0x1000 + 1 ≤ wsAt 0 0x4000 ∧ wsAt 0 0x1000 + 1 ≤ wsAt 0 0x2000 ∧ wsAt 0 0x2000 + 1 ≤ wsAt 0 0x4000) ∧
    1 ≤ 15 ∧ [3, 2 ^ 32 - 1].length ≤ 524288 ∧ (∀ k ∈ [3, 2 ^ 32 - 1], k < 2 ^ 32) := by decide +kernel

/-- Port P0 carries Darzil frames. -/
def linked (s : State) : State := (s.setReg .PORT_CTRL 0 0 1).setPort 0 (fun p => { p with link := .up, trained := true })

theorem witness_SegmentsAreSentAndChecked_send : (let s := linked (adding 1 sendBytes .start)
    laddCheck (s.ctx 0).part 0 1 32 sendBytes = stOk ∧ s.ports.length = 16 ∧ s.carries 0 = true ∧
      gaPkg (fieldAt sendBytes 24 8) ≠ s.pkgId ∧ fieldAt sendBytes 24 8 % 2 ^ 44 + 33 * 1 ≤ 2 ^ 44 ∧ (s.port 0).tags = [] ∧
      selected 1 (s.peekBytes (wsBase 0 + 0x2000) 1) = [0] ∧ ceilDiv 1 124 = 1 ∧ s.portIdleFor 0x800 = true) := by decide +kernel

theorem witness_SegmentsAreSentAndChecked_send_runs : (linked (adding 1 sendBytes .start)).runsPour 0x800 clsLADD 1 (runs1 0x800 1 sendBytes .start) ∧
    (linked (adding 1 sendBytes .start)).errorFree := by
  unfold State.errorFree
  exact ⟨⟨rfl, rfl, rfl, rfl⟩, by decide +kernel⟩

/-- A segment of a kind for tag 5 and heat 0 from package 1, and the packet that brings it to package 0. -/
def seg1 (kind : Nat) (data : List Byte) : Seg :=
  { tag := 5, gen := 0, kind := kind, heat := 0, src := 1, first := 0, count := 1, segs := 1, dest := 0x80000000000, destFlag := 3, data := data }

def segPkt (kind : Nat) (data : List Byte) : List Byte := pktBytes
  { typ := tSegment, vc := 4, dst := 0, src := 1, tag := 9, port := 0, addr := 0x80000000000, len := data.length, birth := 4000, ops := 0, flag := 0,
    epoch := 0, body := segBytes (seg1 kind data) }

/-- A packet has reached port P0. -/
def holdsPkt (pkt : List Byte) (s : State) : State := s.setPort 0 (fun x => { x with inbox := x.inbox ++ [pkt] })

/-- Tag 5 is bound to context 0. -/
def bound (s : State) : State := { linked s with tags := [(5, .bound 0)] }

theorem witness_SegmentsAreSentAndChecked_receive : (let s := holdsPkt (segPkt 0 (List.replicate 33 1#8)) ((bound (adding 1 sendBytes .start)).advance 4096)
    let r := s.takePkt 0 [tSegment] (segPkt 0 (List.replicate 33 1#8));
    r.2.map (fun k => parseSeg k.body) = some (seg1 0 (List.replicate 33 1#8)) ∧
      r.1.segCheck 0 (seg1 0 (List.replicate 33 1#8)) = .ok 0 ∧
      ({ r.1 with tags := [] } : State).segCheck 0 (seg1 0 (List.replicate 33 1#8)) = .error .LADD_DROP_TAG ∧ (s.ctx 0).flag 0 3 < 65535 ∧
      s.tagSt 5 = some (.bound 0) ∧ (s.ctx 0).st = .running ∧ ({ s with tags := [(5, .quarantined 5000)] } : State).tags.find?
        (fun x => x.1 = 5) = some (5, .quarantined 5000)) := by decide +kernel

/-- Two contexts have a pour that waits for tag 7, in quarantine. -/
def queuedFor : State :=
  let h (c : Nat) : Held := { held1 0x800 1 (some (leBytes 20 0 ++ leBytes 2 7 ++ leBytes 42 0)) with ctx := c }
  { ((manned (fun x => { x with st := .running })).setUnit 0x800 (fun u => { u with queue := [h 0, h 1] })).setCtx 1 (fun _ => { created := true, st := .running }) with
    tags := [(7, .quarantined 500)] }

theorem witness_SegmentsAreSentAndChecked_tags :
    (let waits := (queuedFor.units.flatMap (fun u => u.2.queue)).filter (fun h => laddTag h = some 7)
     waits.map (fun h => h.ctx) = [0, 1]) ∧ queuedFor.tags.find? (fun x => x.1 = 7) = some (7, .quarantined 500) ∧ 500 ≤ (queuedFor.advance 1000).ft ∧
    1 < queuedFor.ctxs.length ∧ (queuedFor.ctx 1).created = true ∧ (queuedFor.ctx 1).st = .running ∧ (queuedFor.ctx 1).haltPending = false := by
  decide +kernel

/-- A VERDICT of a root with one child, package 1, in a group of two. -/
def verdictBytes : List Byte := leBytes 4 40 ++ leBytes 4 50 ++ leBytes 2 5 ++ leBytes 2 0xFFFF ++ leBytes 2 2 ++ leBytes 2 0 ++ leBytes 2 1 ++
  (List.replicate 26 0xFF#8) ++ leBytes 84 0

/-- Its node at a stage. -/
def node1 (up down : Option Nat) : Node :=
  { ctx := 0, unit := 0x800, tag := 5, barrier := false, heat := 0, start := 0, desc := verdictBytes, up := up, down := down, gen := 0 }

def atNode (up down : Option Nat) : State := { bound (adding 0x20 verdictBytes (.waiting 0 0)) with nodes := [node1 up down] }

theorem witness_OneMissingChildSkipsTheStep : ((atNode none none).ctx 0).st ≠ .faulted ∧
    ((atNode none none).advance 4096).dueNode 0 0x800 false = some (node1 none none) ∧ 0 < (atNode none none).ctxs.length := by decide +kernel

theorem witness_VerdictsAreRelayedAndApplied_begin : (adding 0x20 verdictBytes .start).runsPour 0x800 clsLADD 0x20
    (runs1 0x800 0x20 verdictBytes .start) := (adding_runs 0x20 verdictBytes .start).1

theorem witness_VerdictsAreRelayedAndApplied_words : (let up := (holdsPkt (segPkt 2 (leBytes 8 7)) ((atNode none none).advance 4096)).takePkt 0 [tSegment] (segPkt 2 (leBytes 8 7))
      let down := (holdsPkt (segPkt 3 (leBytes 8 7)) ((atNode (some 7) none).advance 4096)).takePkt 0 [tSegment] (segPkt 3 (leBytes 8 7));
      (up.2.map (fun k => parseSeg k.body) = some (seg1 2 (leBytes 8 7)) ∧ up.1.segCheck 0 (seg1 2 (leBytes 8 7)) = .ok 0 ∧
      ((atNode none none).ctx 0).heatOf 0 = some 0 ∧
      (atNode none none).nodes.find? (fun n => n.is 0 0 5 0 false) = some (node1 none none) ∧
      down.2.map (fun k => parseSeg k.body) = some (seg1 3 (leBytes 8 7)) ∧
      down.1.segCheck 0 (seg1 3 (leBytes 8 7)) = .ok 0 ∧
      ((atNode (some 7) none).nodes.filter (fun n => n.ctx = 0 && n.gen == 0 && n.tag == 5 && n.barrier == false && n.up.isSome)).find?
        (fun n => n.heat % 65536 = 7 >>> 48) = some (node1 (some 7) none))) := by decide +kernel

theorem witness_VerdictsAreRelayedAndApplied_apply : (let s := atNode (some 0x107) (some 0x107)
    Sparse.wf 0#64 s.regs = true ∧ (s.ctx 0).st = .running ∧
      s.nodes.find? (fun n => n.ctx = 0 && n.gen == (s.ctx 0).gen && !n.barrier && n.up.isSome && !n.applied && n.commit ≤ (s.advance 4096).ft) =
        some (node1 (some 0x107) (some 0x107))) := by decide +kernel

/-! The update. -/

/-- A shard of two update blocks of 1024 elements with a BF16 copy, in channel 0 of D0, and its region; the pours that walk it. -/
def shardBytes : List Byte := leBytes 4 0 ++ leBytes 1 2 ++ leBytes 3 0 ++ leBytes 4 0 ++ leBytes 4 0x2000 ++ leBytes 4 0x4000 ++ leBytes 4 0x6000 ++
  leBytes 4 0 ++ leBytes 4 0x7000 ++ leBytes 4 0x7020 ++ leBytes 4 0 ++ leBytes 4 0x2000 ++ leBytes 4 0 ++ leBytes 4 2048 ++ leBytes 4 1 ++
  leBytes 4 1 ++ leBytes 4 1 ++ leBytes 4 1 ++ leBytes 20 0 ++ leBytes 4 2048 ++ leBytes 4 1 ++ leBytes 4 1 ++ leBytes 4 1 ++ leBytes 4 1 ++
  leBytes 4 0 ++ leBytes 16 0

def region1 : Region := { unit := 0x500, table := 0, shard := 0, ctx := 0, epoch := 0, desc := shardBytes }

def sweepBytes : List Byte := leBytes 4 0 ++ leBytes 2 1 ++ leBytes 2 0 ++ leBytes 4 1 ++ leBytes 52 0

/-- A pour of an update unit that has read its table stands at a phase. -/
def atPhase (p : Nat) (old : Bool) : Sweep := { opened := true, phase := p, old := old }

/-- The pour of an action is at work, and the tag of block 0 shows a STATE for epoch 1. -/
def sweepingWith (action st : Nat) (w : Sweep) : State :=
  { runningOn 0x500 action sweepBytes (.sweeping w) with regions := [region1], mem := [(0x7000, BitVec.ofNat 8 st), (0x7004, 1#8)].filter (fun c => c.2 ≠ 0) }

def sweeping (action p st : Nat) (old : Bool) : State := sweepingWith action st (atPhase p old)

/-- The settings of a unit's launch: the default optimiser, or the factored one. -/
def modeOf (fact : Bool) : List Setting := if fact then [⟨0x500, 256, 4⟩] else []

/-- A phase of the sweep in one of the modes, the tag of block 0 showing a STATE. -/
def sweepAt (fact : Bool) (q : Nat × Nat × Nat) : Sweep × State :=
  let w : Sweep := { atPhase q.2.1 true with hyper := modeOf fact }
  (w, sweepingWith q.1 q.2.2 w)

/-- The points of the witnesses: action, phase, STATE. Phase 6 is the digest entry's. -/
def sweepPoints : List (Nat × Nat × Nat) := [(1, 0, 3), (1, 0, 0), (1, 1, 1), (1, 1, 2), (2, 2, 2), (2, 0, 1), (2, 0, 3), (1, 6, 2), (2, 6, 2)]

theorem witness_SweepPhasesFollowTheTag_quiet : ∀ fact ∈ [false, true], ∀ q ∈ sweepPoints, (sweepAt fact q).2.memoryQuiet ∧
    (sweepAt fact q).2.runsPour 0x500 clsUU q.1 (runs1 0x500 q.1 sweepBytes (.sweeping (sweepAt fact q).1)) := by
  unfold State.memoryQuiet State.errorFree State.runsPour
  decide +kernel

theorem witness_SweepPhasesFollowTheTag : ∀ fact ∈ [false, true], ∀ q ∈ sweepPoints,
    (let w := (sweepAt fact q).1
     let s := (sweepAt fact q).2
     let d := shardOf shardBytes
     let x := s.sweepCtx 0 w
     w.opened = true ∧ w.writes = [] ∧ phaseOf (s.tableRegions 0x500 (fieldAt sweepBytes 0 4)) q.2.1 = some (region1, q.2.1 / 3, q.2.1 % 3) ∧
      (q.2.1 < 6 → q.2.1 / 3 < d.blocks) ∧ (q.2.1 = 6 → q.2.1 / 3 = d.blocks) ∧ region1 ∈ s.regions ∧
      (∀ g ∈ s.regions, (shardOf g.desc).dig % 32 = 0) ∧ shardCheck x.part shardBytes fact = stOk ∧
      (hyperOf (x.hyper 0x500 d.group) 1).opt = (if fact then 4 else 2) ∧ s.ctxs.length = 16 ∧ x.created = true ∧ x.hasFailed = false ∧
      (region1.epoch + 1) % 2 ^ 32 = 1 ∧ (q.2.1 < 3 → tagState (s.chNum (channelOf 0x500) 8 d.tag) 1 = q.2.2)) := by
  decide +kernel

theorem witness_SweepPhasesFollowTheTag_arrays : ∀ fact ∈ [false, true],
    (let d := shardOf shardBytes
     (d.arrays fact).Pairwise (fun a c => rangesApart a.1 a.2 c.1 c.2) ∧
      ∀ g < d.groupsOf 0, (sweepAt fact (1, 0, 0)).2.numAt 1 (wsAt d.gdie (d.gs + 32 * 0) + g) ≤ 0xF8) := by
  unfold rangesApart
  decide +kernel

/-- After the last shard the pour ends once its run time of R234 has passed, and waits for it before. -/
theorem witness_SweepPhasesFollowTheTag_end : ∀ q ∈ [(4096, true), (2500, false)],
    (let w := atPhase 7 true
     let s := { sweepingWith 1 2 w with ft := q.1 }
     let rs := s.tableRegions 0x500 (fieldAt sweepBytes 0 4)
     s.runsPour 0x500 clsUU 1 (runs1 0x500 1 sweepBytes (.sweeping w)) ∧ s.memoryQuiet ∧ w.phase = rs.foldl (fun a r => a + (shardOf r.desc).phases) 0 ∧
      (2048 + stkNs (sweepCycles (fun d => (s.sweepCtx 0 w).hyper 0x500 d.group 1) rs) ≤ (s.advance q.1).ft ↔ q.2 = true) ∧
      ∀ g ∈ s.regions, (shardOf g.desc).dig % 32 = 0) := by
  unfold State.memoryQuiet State.errorFree State.runsPour
  decide +kernel

theorem witness_SweepPhasesFollowTheTag_line : (let w : Sweep := { atPhase 0 true with writes := [(0x2040, List.replicate 64 1#8), (0x2080, [2#8])] }
    let s := sweepingWith 1 0 w
    (s.unit 0x500).running = some (runs1 0x500 1 sweepBytes (.sweeping w)) ∧ w.opened = true ∧ 0x2040 % 64 + 64 ≤ 64 ∧ 0x2040 + 64 ≤ 2 ^ 31) := by
  decide +kernel

/-! A shard record in BOOT_HOLD. -/

/-- A shard of 32 elements, and the package in BOOT_HOLD with the shard table of unit 0x500 at 0x8000. -/
def shard32 : List Byte := leBytes 4 0 ++ leBytes 1 2 ++ leBytes 3 0 ++ leBytes 4 0 ++ leBytes 4 0x2000 ++ leBytes 4 0x4000 ++ leBytes 4 0x6000 ++
  leBytes 4 0 ++ leBytes 4 0x7000 ++ leBytes 4 0x7020 ++ leBytes 4 0 ++ leBytes 4 0x2000 ++ leBytes 4 0 ++ leBytes 4 32 ++ leBytes 4 1 ++
  leBytes 4 1 ++ leBytes 4 1 ++ leBytes 4 1 ++ leBytes 20 0 ++ leBytes 4 32 ++ leBytes 4 1 ++ leBytes 4 1 ++ leBytes 4 1 ++ leBytes 4 1 ++
  leBytes 4 0 ++ leBytes 16 0

def region32 : Region := { unit := 0x500, table := 0x8000, shard := 0, ctx := 0, epoch := 0, desc := shard32 }

def ofHold : Cmd := { ring := 17, seq := 1, ctx := 0, ordered := false }

def inHold : State := { live with
  boot := { State.reset.boot with st := .hold, stage := 0x0A }
  ctxs := { created := true } :: List.replicate 15 {}
  rings := List.replicate 17 { cmdLog := 3, cplLog := 4 }
  uuTables := [(0x500, 0x8000, 1, 0)], regions := [region32], mem := ((List.range 128).map (fun i => (0x8000 + i, shard32.getD i 0))).filter (fun c => c.2 ≠ 0) }

theorem inHold_takes : (inHold.advance 1000).takes ofHold 0x0B = true := by decide +kernel

theorem shardNamed_hold {s v : State} (hb : s.boot.st = .hold) (ht : s.uuTables = [(0x500, 0x8000, 1, 0)])
    (hl : s.chLoad (channelOf 0x500) (0x8000 + 128 * 0) 128 = (v, some shard32))
    (he : v.epochOf (channelOf 0x500) 0x500 0x8000 0 shard32 = (v, some 0)) : s.shardNamed 0x500 0 = (v, some region32) := by
  have hf : s.uuTables.find? (fun q => q.1 = 0x500) = some (0x500, 0x8000, 1, 0) := by rw [ht]; rfl
  unfold State.shardNamed
  rw [if_pos hb, hf]
  simp only [Nat.zero_lt_one, if_true, State.readTable, hl, he]
  rfl

def held32 : State := ((inHold.advance 1000).entered ofHold 0x0B).2

theorem held32_facts : held32.readable ∧ held32.boot.st = .hold ∧ held32.uuTables = [(0x500, 0x8000, 1, 0)] ∧ held32.regions = [region32] ∧
    held32.peekBytes (held32.channelAddr (channelOf 0x500) (0x8000 + 128 * 0)) 128 = shard32 ∧ held32.namesUnit 0 0x500 = stOk ∧
    (held32.ctx 0).hyper 0x500 0 1 = 2 ∧ held32.regionBusy region32 = false := by
  refine ⟨⟨?_, ?_, ?_, ?_, ?_⟩, ?_⟩ <;> decide +kernel

theorem witness_ShardsAreExported_record : ∃ (v1 v2 v3 v4 : State) (entry w m1 m2 h : List Byte),
    (inHold.advance 1000).takes ofHold 0x0B = true ∧ held32.namesUnit 0 0x500 = stOk ∧ held32.shardNamed 0x500 0 = (v1, some region32) ∧
    v1.exportHolds region32 = true ∧ (v1.ctx region32.ctx).factored 0x500 (shardOf region32.desc) = false ∧
    v1.chLoad (channelOf 0x500) (shardOf region32.desc).dig 32 = (v2, some entry) ∧
    State.exportArrays (channelOf 0x500) (shardOf region32.desc) false (List.range (shardOf region32.desc).blocks) v2 = (v3, some (w, m1, m2)) ∧
    h = recordHeader (shardOf region32.desc) region32.desc ((v1.ctx region32.ctx).hyper 0x500 0 1) region32.epoch entry w.length m1.length m2.length ∧
    v3.putRecord 0 (wsBase 0 + 12 * 0x4000000) h (w ++ m1 ++ m2) = (v4, stOk) := by
  obtain ⟨hr, hb, ht, hg, hp, hn, hh, hy⟩ := held32_facts
  obtain ⟨v1, l1, c1⟩ := chLoad_readable (channelOf 0x500) hr (0x8000 + 128 * 0) 128 (by decide) (by decide +kernel)
  have r1 := readable_of_bare c1 hr
  obtain ⟨e1, e2, e3, e4⟩ := of_bare c1
  obtain ⟨v2, l2, c2⟩ := chLoad_readable (channelOf 0x500) r1 (shardOf region32.desc).dig 32 (by decide) (by decide +kernel)
  obtain ⟨v3, w, m1, m2, l3, c3, n1, n2, n3⟩ := exportArrays_readable (channelOf 0x500) (shardOf region32.desc) (readable_of_bare c2 r1)
  have nw : w.length = 128 := n1.trans (by decide +kernel)
  have e5 : v3.boot.st = .hold := by
    rw [(of_bare (c3.trans c2)).2.2.2, e4, hb]
  have ne : ∀ a, (v1.peekBytes a 32).length = 32 := fun a => by simp [State.peekBytes, countFrom]
  let h := recordHeader (shardOf region32.desc) region32.desc ((v1.ctx region32.ctx).hyper 0x500 0 1) region32.epoch
    (v1.peekBytes (v1.channelAddr (channelOf 0x500) (shardOf region32.desc).dig) 32) w.length m1.length m2.length
  have nh : h.length = 256 := by
    have k : ∀ e : List Byte, e.length = 32 → (recordHeader (shardOf region32.desc) region32.desc ((v1.ctx region32.ctx).hyper 0x500 0 1)
        region32.epoch e w.length m1.length m2.length).length = 256 := fun e he => by
      simp only [recordHeader, List.length_append, leBytes_length, List.length_take, he, List.length_replicate]
      decide +kernel
    exact k _ (ne _)
  have nb : (w ++ m1 ++ m2).length = 384 := by simp [n2, n3, nw]
  obtain ⟨x, hx⟩ := save_whole v3 (wsBase 0 + 12 * 0x4000000 + h.length) (w ++ m1 ++ m2)
    (by cases hq : w ++ m1 ++ m2 with | nil => rw [hq] at nb; cases nb | cons => rfl) (by rw [nh]; decide) (by rw [nh, nb]; decide +kernel)
  obtain ⟨y, hy'⟩ := save_whole x (wsBase 0 + 12 * 0x4000000) h
    (by cases hq : h with | nil => rw [hq] at nh; cases nh | cons => rfl) (by decide) (by rw [nh]; decide +kernel)
  refine ⟨v1, v2, v3, y, _, w, m1, m2, h, inHold_takes, hn, ?_, ?_, ?_, l2, l3, rfl, ?_⟩
  · have hf : (held32.regions.find? (fun r => r.unit = 0x500 && r.table == 0x8000 && r.shard == 0 && r.desc == shard32)) = some region32 := by
      rw [hg]; decide +kernel
    have hl : held32.chLoad (channelOf 0x500) (0x8000 + 128 * 0) 128 = (v1, some shard32) := by rw [l1, hp]
    have he : v1.epochOf (channelOf 0x500) 0x500 0x8000 0 shard32 = (v1, some 0) := by
      unfold State.epochOf
      rw [e3, hf]
      rfl
    exact shardNamed_hold hb ht hl he
  · have e6 : v1.regionBusy region32 = false := by rw [← hy]; unfold State.regionBusy State.runningOn State.unit State.tableRegions; rw [e2, e3]
    unfold State.exportHolds
    rw [e6, e4, hb]
    rfl
  · have : (v1.ctx 0) = (held32.ctx 0) := by unfold State.ctx; rw [e1]
    show ((v1.ctx 0).hyper 0x500 0 1 == 4) = false
    rw [this, hh]
    rfl
  · unfold State.putRecord
    have hd : holdDest (wsBase 0 + 12 * 0x4000000) (h.length + (w ++ m1 ++ m2).length) = true := by rw [nh, nb]; decide +kernel
    simp only [e5, if_true, hd, hx, hy', Bool.not_true, Bool.false_eq_true, if_false, Bool.and_self]

/-- A context that owns every unit, with the region of a shard and a compare node. -/
def replica (n : Cmp) : State := { owning .running with regions := [region1], cmps := [n] }

def exporting : State := { owning .loaded with regions := [region1] }

theorem shardNamed_live {s : State} {r : Option Region} (hb : s.boot.st ≠ .hold)
    (h : s.regions.reverse.find? (fun r => r.unit = 0x500 && r.shard == 0) = r) : s.shardNamed 0x500 0 = (s, r) := by
  unfold State.shardNamed
  rw [if_neg hb, h]

theorem witness_ShardsAreExported_early : (exporting.advance 1000).takes ofCtx 0x0B = true ∧ (entering exporting 0x0B).namesUnit 0 0x500 = stOk ∧
    (entering exporting 0x0B).shardNamed 0x500 0 = (entering exporting 0x0B, some region1) ∧
    (sweeping 1 1 1 true).regionBusy region1 = true ∧ (sweeping 1 1 1 true).exportHolds region1 = false ∧
    (let s := { sweeping 1 1 1 true with ft := 4096 };
      (s.advance 5000).takes ofCtx 0x0B = true ∧ ((s.advance 5000).entered ofCtx 0x0B).2.regionBusy region1 = true) := by
  refine ⟨by decide +kernel, by decide +kernel, shardNamed_live (by decide +kernel) (by decide +kernel), ?_⟩
  decide +kernel

theorem witness_ShardsAreExported_limit : (let d := shardOf shard32
    256 + 8 * (d.shape.getD 0 1 * prod (d.extent.drop 1)) + 4 * (d.shape.getD 0 1 * prod (d.extent.drop 1)) = 640) ∧
    (640 : Nat) ≤ 640 ∧ (639 : Nat) < 640 := by decide +kernel

theorem witness_ShardsAreExported_header : (List.replicate 32 7#8).length = 32 ∧ 4 ≤ shardBytes.length ∧ (shardOf shardBytes).shape.length = 5 ∧
    (shardOf shardBytes).origin.length = 5 ∧ (shardOf shardBytes).extent.length = 5 := by decide +kernel

theorem witness_ShardsAreExported_query : (exporting.advance 1000).takes ofCtx 0x0C = true ∧ (entering exporting 0x0C).namesUnit 0 0x500 = stOk ∧
    exporting.boot.st ≠ .hold ∧
    (entering exporting 0x0C).regions.reverse.find? (fun r => r.unit = 0x500 && r.shard == 0) = some region1 ∧
    ∃ w e, (entering exporting 0x0C).chLoad (channelOf 0x500) (shardOf region1.desc).dig 32 = (w, some e) := by
  have hr : (entering exporting 0x0C).readable := by refine ⟨?_, ?_, ?_, ?_, ?_⟩ <;> decide +kernel
  obtain ⟨w, hw, -⟩ := chLoad_readable (channelOf 0x500) hr (shardOf region1.desc).dig 32 (Nat.zero_lt_succ _) (by decide +kernel)
  exact ⟨by decide +kernel, by decide +kernel, by decide +kernel, by decide +kernel, w, _, hw⟩

theorem witness_TheVoteFindsTheMajority : standsFor [5] (5, 1) ∧ standsFor [5, 5, 6] (5, 1) ∧ [5, 5, 6].length < 2 * [5, 5, 6].count 5 ∧
    (∀ a ∈ [⟨3, some (1, 2), false⟩, ⟨2, some (0, 7), false⟩, ⟨1, none, false⟩, ⟨3, none, true⟩],
      3 ≤ 16384 ∧ (a : Tally3).agree ≤ 3 ∧ (a.low.map Prod.snd).all (fun l => decide (l < 2 ^ 14)) = true) := by
  refine ⟨⟨by decide, fun x hx => ?_⟩, ⟨by decide, fun x hx => ?_⟩, by decide, by decide⟩
  · simp [Ne.symm hx]
  · rw [show [5, 5, 6] = [5, 5] ++ [6] from rfl, List.count_append, List.count_cons, List.count_cons, List.count_cons]
    simp [Ne.symm hx]
    split <;> omega

/-- A COMPARE of a group of three: this node's parent is package 1 or none, package 2 its child, and the compare area at 0x1000. -/
def compareBytes (parent : Nat) : List Byte := leBytes 4 1 ++ leBytes 4 2 ++ leBytes 4 3 ++ leBytes 2 parent ++ leBytes 2 3 ++ leBytes 2 1 ++
  List.replicate 26 0xFF#8 ++ leBytes 4 0 ++ leBytes 4 0x1000 ++ leBytes 12 0

def cmp1 (parent : Nat) : Cmp := { ctx := 0, heat := 0, start := 0, desc := compareBytes parent, begun := true, digest := 9 }

theorem witness_ReplicasCompareAndRepair_begin : ∀ unit ∈ [0x500, 0x501], (let s := runningOn unit 3 (compareBytes 1) .start
    let r := runs1 unit 3 (compareBytes 1) .start
    unitExists unit = true ∧ unitCls unit = clsUU ∧ (s.unit unit).running = some r ∧ r.held.pour.action = 3 ∧ r.prog = .start ∧ r.held.ctx < 16 ∧
      Sparse.wf 0#64 s.regs = true ∧ (lowestUnit (s.ctx 0).part = some unit ↔ unit = 0x500)) := by decide +kernel

theorem witness_ReplicasCompareAndRepair_points : ∀ parent ∈ [1, 0xFFFF], (let s := linked (replica (cmp1 parent))
    let u := s.advance 4096
    s.cmps.find? (fun n => s.cmpLives 0 n && n.begun && !n.voted && n.at64 0 ≤ u.ft) = some (cmp1 parent) ∧
      s.cmps.find? (fun n => s.cmpLives 0 n && n.begun && !n.counted && n.at64 4 ≤ u.ft) = some (cmp1 parent) ∧
      s.cmps.find? (fun n => s.cmpLives 0 n && n.begun && !n.decided && n.at64 8 ≤ u.ft) = some (cmp1 parent) ∧
      s.readable ∧ s.carries 0 = true ∧ 0 < s.ports.length ∧ Sparse.wf 0#64 s.regs = true ∧ s.ctxs.length = 16 ∧ (cmp1 parent).result = none) := by
  unfold State.readable
  decide +kernel

/-- The node once the candidate and the result word have come: MAJORITY with package 3 the lowest agreeing one, and DIVERGED. -/
def cmpDone (out : Nat) (decided : Bool) : Cmp := { cmp1 1 with cand := some 8, result := some (2 ^ 33 + 3 * 2 ^ 16 + out), decided := decided }

theorem witness_ReplicasCompareAndRepair_decide : ∀ out ∈ [1, 2], (let s := replica (cmpDone out false)
    let u := s.advance 4096
    s.cmps.find? (fun n => s.cmpLives 0 n && n.begun && !n.decided && n.at64 8 ≤ u.ft) = some (cmpDone out false) ∧ 2 ^ 33 + 3 * 2 ^ 16 + out < 2 ^ 64 ∧
      (s.ctx 0).st = .running) := by decide +kernel

/-- The node of package 0 with one child, package 1, and its compare area at 0. -/
def cmpOfOne : Cmp := { cmp1 1 with desc := leBytes 16 0 ++ leBytes 2 1 ++ List.replicate 26 0xFF#8 ++ leBytes 20 0 }

theorem witness_ReplicasCompareAndRepair_words : ∀ q ∈ [(6, 2), (8, 2), (7, 1), (9, 1)],
    (let s := holdsPkt (segPkt q.1 (leBytes 24 7)) ((bound (replica cmpOfOne)).advance 4096)
     let r := s.takePkt 0 [tSegment] (segPkt q.1 (leBytes 24 7));
     r.2.map (fun k => parseSeg k.body) = some (seg1 q.1 (leBytes 24 7)) ∧ r.1.segCheck 0 (seg1 q.1 (leBytes 24 7)) = .ok 0 ∧
      (s.ctx 0).heatOf 0 = some 0 ∧ (s.cmpOf 0 0).map (fun n => (childPos n.desc).find? (fun i => fieldAt n.desc (16 + 2 * i) 2 = 1)) = some (some 0) ∧
      (s.cmpOf 0 0).map (fun n => (n.decided, n.cand, n.result)) = some (false, none, none)) := by decide +kernel

theorem witness_ReplicasCompareAndRepair_drops : ∀ kind ∈ [6, 7, 8, 9],
    (let s := holdsPkt (segPkt kind (leBytes 24 7)) ((bound (replica cmpOfOne)).advance 4096)
     let g := seg1 kind (leBytes 24 7)
     let w := (s.takePkt 0 [tSegment] (segPkt kind (leBytes 24 7))).1
     let none' := (s.setCtx 0 (fun x => { x with part := {} })).takePkt 0 [tSegment] (segPkt kind (leBytes 24 7))
     let lost := (s.setCtx 0 (fun x => { x with st := .faulted })).takePkt 0 [tSegment] (segPkt kind (leBytes 24 7))
     (cmpPlace cmpOfOne.desc g).any (fun pos => inBanks (w.ctx 0).part 0 (fieldAt cmpOfOne.desc 48 4 + pos) 24) = true ∧
      none'.1.segCheck 0 g = .ok 0 ∧ (none'.1.ctx 0).heatOf 0 = some 0 ∧ none'.1.cmpOf 0 0 = some cmpOfOne ∧
      (cmpPlace cmpOfOne.desc g).any (fun pos => inBanks (none'.1.ctx 0).part 0 (fieldAt cmpOfOne.desc 48 4 + pos) 24) = false ∧
      lost.2.map (fun k => parseSeg k.body) = some g ∧ lost.1.segCheck 0 g = .error .LADD_DROP_TAG) := by decide +kernel

def repaired : Region := { region1 with desc := shard32 }

/-- A REPAIR of the lowest unit over a table of two shards, its SOURCE, package 3, behind port P0. -/
def repairing (n : Cmp) (w : Sweep) : State := { linked (runningOn 0x500 4 sweepBytes (.sweeping w)) with
  cmps := [n], regions := [repaired, { repaired with shard := 1 }], routes := [(3, 0x80)] }

/-- A repair that has read its table stands at a part of the first shard, with SOURCE's answers, every byte of them `b`. -/
def atPart (part : Nat) (b : Byte) : Sweep :=
  let d := shardOf shard32
  let reads := if part = 0 then rangeReads (d.dig, 32) else (blockRanges d false (part - 1)).flatMap rangeReads
  { opened := true, part := part, asked := true, entry := List.replicate 32 1#8, got := reads.map (fun q => (q.1, List.replicate q.2 b)) }

theorem witness_ReplicasCompareAndRepair_repair : ∀ w ∈ [({ opened := true } : Sweep), { opened := true, phase := 2 }, { opened := true, part := 1 },
      atPart 0 0, atPart 0 1, atPart 1 1, atPart 2 1],
    (let s := repairing (cmpDone 1 true) w
     let r := runs1 0x500 4 sweepBytes (.sweeping w)
     let u := s.advance 4096
     let d := shardOf shard32
     let rs := s.tableRegions 0x500 (fieldAt sweepBytes 0 4)
     s.runsPour 0x500 clsUU 4 r ∧ (repairing (cmp1 1) w).repairFrom 0 0 = none ∧ u.repairFrom 0 0 = some 3 ∧
      rs[0]? = some repaired ∧ rs[2]? = none ∧ w.writes = [] ∧ s.memoryQuiet ∧ shardCheck (s.sweepCtx 0 w).part shard32 false = stOk ∧
      (s.sweepCtx 0 w).factored 0x500 d = false ∧ (d.arrays false).Pairwise (fun a c => rangesApart a.1 a.2 c.1 c.2) ∧ d.blocks = 1 ∧
      s.route 3 = some 0 ∧ ((blockRanges d false 0).flatMap rangeReads).length ≤ (s.port 0).freeTags.length ∧ 0 < s.ports.length) := by
  unfold State.memoryQuiet State.errorFree State.runsPour rangesApart
  decide +kernel

theorem witness_ReplicasCompareAndRepair_answers : ∀ q ∈ [(0, 0#8), (0, 1#8), (1, 1#8)],
    (let d := shardOf shard32
     let w := atPart q.1 q.2
     let reads := if q.1 = 0 then rangeReads (d.dig, 32) else (blockRanges d false (q.1 - 1)).flatMap rangeReads
     let s := repairing (cmpDone 1 true) w
     w.asked = true ∧ w.awaits = 0 ∧ (∀ g ∈ w.got, (g.1, g.2.length) ∈ reads ∧ ∀ x ∈ g.2, x = q.2) ∧
      (∀ x ∈ reads, ∃ g ∈ w.got, g.1 = x.1 ∧ g.2.length = x.2) ∧ (copyWrites d false (q.1 - 1) w.got).length ≤ 12 ∧
      (leNat ((countFrom d.dig 20).map (fun _ => q.2)) = s.chNum (channelOf 0x500) 20 d.dig ↔ q.2 = 0)) := by decide +kernel

theorem witness_ReplicasCompareAndRepair_last : (atPart 2 1).part = (shardOf shard32).blocks + 1 ∧ (atPart 2 1).entry.length = 32 := by decide +kernel

theorem readDigests_readable (ch : Nat) (rs : List Region) (hd : ∀ r ∈ rs, (shardOf r.desc).dig % 4096 + 16 ≤ 4096) {s : State} (h : s.readable) :
    ∃ w l, State.readDigests ch rs s = (w, some l) := by
  induction rs generalizing s with
  | nil => exact ⟨s, [], rfl⟩
  | cons r rs ih =>
    obtain ⟨v, hv, cv⟩ := chLoad_readable ch h (shardOf r.desc).dig 16 (by decide) (hd r List.mem_cons_self)
    obtain ⟨w, l, hw⟩ := ih (fun q hq => hd q (List.mem_cons_of_mem _ hq)) (readable_of_bare cv h)
    exact ⟨w, _, by simp only [State.readDigests, hv, hw]; rfl⟩

/-- The last unit digest of a repair is kept. -/
theorem witness_ReplicasCompareAndRepair_digest :
    (((repairing (cmpDone 1 true) { opened := true, phase := 2 }).advance 4096).keepDigest 0x500).2 = true := by
  have hr : ((repairing (cmpDone 1 true) { opened := true, phase := 2 }).advance 4096).readable := by
    unfold State.readable
    decide +kernel
  obtain ⟨w, l, hw⟩ := readDigests_readable (channelOf 0x500) (((repairing (cmpDone 1 true) { opened := true, phase := 2 }).advance 4096).unitRegions 0x500)
    (by decide +kernel) hr
  unfold State.keepDigest
  rw [hw]

/-! Memory. -/

/-- A line of the write-combining buffer: held whole, or with a fill in progress. -/
def heldLine : Wcb := { bytes := List.replicate 64 1#8, lastWrite := 4096 }

def filling : Wcb := { bytes := [], lastWrite := 4096, fill := true, writes := [(8, [7#8, 7#8])] }

def cores : State := (owning .running).setHcx (fun h => { h with running := true })

theorem witness_ChannelsReadWriteAndCombine_lines : exporting.epochsAt (64 * lineOf 0) = [0] ∧ exporting.epochsAt (64 * lineOf 0x2000) = [] ∧ isTier1 0x2000 = true ∧
    isTier1 0 = true ∧ exporting.memoryQuiet ∧ 0 % 64 = 0 ∧ (List.replicate 64 5#8).length = 64 ∧ 0 < [7#8, 7#8].length ∧
    8 % 64 + [7#8, 7#8].length ≤ 64 := by
  unfold State.memoryQuiet State.errorFree
  decide +kernel

theorem witness_ChannelsReadWriteAndCombine_buffer : isTier1 (64 * 4) = true ∧
    ({ ({ exporting with wcb := [(4, heldLine)] } : State) with wcb := [] } : State).memoryQuiet ∧ 8 + [7#8, 7#8].length ≤ 64 ∧
    heldLine.fill = false ∧ heldLine.err = [] ∧ heldLine.bytes.length = 64 ∧ filling.fill = true ∧ filling.writes = [(8, [7#8, 7#8])] ∧
    (∀ w ∈ [heldLine, filling], ∀ t ∈ [4143, 4144, 5119, 5120], (({ exporting with ft := 4096, aon := 4096, wcb := [(4, w)] } : State).advance t).ft = t) ∧
    4143 < heldLine.lastWrite + 48 ∧ heldLine.lastWrite + 48 ≤ 4144 ∧ 5119 < heldLine.lastWrite + 1024 ∧ heldLine.lastWrite + 1024 ≤ 5120 := by
  unfold State.memoryQuiet State.errorFree
  decide +kernel

theorem witness_ChannelsReadWriteAndCombine_failed : 4 ∈ ({ exporting with wcb := [(4, filling)], failedFills := [4] } : State).failedFills ∧
    4 ∉ ({ exporting with wcb := [(4, filling)] } : State).failedFills := by decide +kernel

theorem witness_ChannelsReadWriteAndCombine_settings : (∀ s ∈ [serving, exporting], Sparse.wf 0#64 s.regs = true) ∧
    serving.stackUnowned 0 = true ∧ exporting.stackUnowned 0 = false ∧ bitsOf 5 (8 * 0 + 2) (8 * 0) ≤ 5 ∧ ¬bitsOf 6 (8 * 0 + 2) (8 * 0) ≤ 5 ∧
    cores.hcx.running = true ∧ isWs (wsBase 0) = true ∧ isWs (wsBase 0 + 8 - 1) = true ∧ cores.memoryQuiet ∧ cores.hcx.down = none ∧ cores.hcx.found = none ∧
    (let a := 2 ^ 55; isTier1 a = false ∧ isWs a = false ∧ isRegAddr a = false) := by
  unfold State.memoryQuiet State.errorFree
  decide +kernel

/-- A tile mover of D0, descriptors of two tiles in a form, and the page at 0 in D0's translation cache. -/
def mover : Nat := unitId 0 clsWS 16

def tileBytes (scales form flags mode : Nat) : List Byte := leBytes 8 0 ++ leBytes 8 scales ++ leBytes 4 0x2000 ++ leBytes 4 2 ++ leBytes 4 4096 ++
  leBytes 4 4096 ++ leBytes 1 form ++ leBytes 1 flags ++ leBytes 1 mode ++ leBytes 1 0 ++ leBytes 4 0 ++ leBytes 16 0 ++ leBytes 4 1 ++ leBytes 2 32 ++
  leBytes 2 0xFFFF

def moving (action : Nat) (desc : List Byte) (prog : Prog) : State :=
  { runningOn mover action desc prog with tc := [⟨0, 0, false, 0x1F, false⟩] :: List.replicate 7 [], regions := [{ region1 with epoch := 3 }] }

def word64 : List Byte := List.replicate 64 7#8

def inFlight (scale : Nat) : Fly := { tile := 1, elem := 4096, scale := scale }

theorem witness_TilesAreIssuedAndLand_issue : ∀ q ∈ [(1, tileBytes 0x100000 2 1 0), (2, tileBytes 0 0 2 0), (3, tileBytes 0 2 0 0)],
    ∀ p ∈ [(Prog.start, 0), (Prog.moving 1 [] false 0 false, 1)],
    (let s := moving q.1 q.2 p.1
     let u := s.advance 4096
     let m := parseTm q.1 q.2
     let w0 := if p.1 = .start then u.setProg mover (.moving 0 [] false 0 false) else u
     isMover mover = true ∧ (s.unit mover).running = some (runs1 mover q.1 q.2 p.1) ∧ p.2 < m.tiles ∧ 2048 + 16 * p.2 ≤ u.ft ∧
      ((w0.tileTarget mover 0 q.1 m p.2).2 = .at (4096 * p.2) (if q.1 = 1 then 0x100000 + 32 * p.2 else 0)) ∧
      gaPkg 4096 = s.pkgId ∧ gaPkg 0x100000 = s.pkgId ∧ Sparse.at? false s.clean (wsGranule (m.wsOf 0 0)) = false ∧
      Sparse.at? false ({ s with clean := [(wsGranule (m.wsOf 0 0), true)] } : State).clean (wsGranule (m.wsOf 0 0)) = true) := by decide +kernel

theorem witness_TilesAreIssuedAndLand_early : (let s := { moving 1 (tileBytes 0 0 0 0) (.moving 1 [] false 0 false) with ft := 2048 };
    (s.advance 0).ft < 2048 + 16 * 1) := by decide +kernel

theorem witness_TilesAreIssuedAndLand_load : ∀ q ∈ [(tileBytes 0x100000 2 0 0, 0x100020, 1), (tileBytes 0 0 1 0, 0, 2)],
    (let s := moving 1 q.1 (.moving q.2.2 [inFlight q.2.1] false 0 false)
     let m := parseTm 1 q.1
     s.flies mover 1 1 = some (runs1 mover 1 q.1 (.moving q.2.2 [inFlight q.2.1] false 0 false), inFlight q.2.1) ∧ gaPkg 4096 = s.pkgId ∧
      gaPkg q.2.1 = s.pkgId ∧ isTier1 (gaLocal 4096) = true ∧ isTier1 (gaLocal q.2.1) = true ∧
      tmCheck (s.ctx 0).part (unitDie mover) 1 q.1 = stOk ∧ 1 < m.tiles ∧ s.memoryQuiet ∧
      (m.fence = true → s.fenceHit 0 [(gaLocal 4096, m.form.epart)] = some (4096, 3)) ∧
      (({ s with regions := [] } : State).fenceHit 0 [(gaLocal 4096, m.form.epart)] = none)) := by
  unfold State.memoryQuiet State.errorFree
  decide +kernel

theorem witness_TilesAreIssuedAndLand_store : (let s := moving 2 (tileBytes 0 0 0 0) (.moving 1 [inFlight 0] false 0 false)
    let m := parseTm 2 (tileBytes 0 0 0 0)
    s.flies mover 2 1 = some (runs1 mover 2 (tileBytes 0 0 0 0) (.moving 1 [inFlight 0] false 0 false), inFlight 0) ∧ m.form.fmts = none ∧
      m.form.spart = 0 ∧ gaPkg 4096 = s.pkgId ∧ isTier1 4096 = true ∧ tmCheck (s.ctx 0).part (unitDie mover) 2 (tileBytes 0 0 0 0) = stOk ∧
      1 < m.tiles ∧ s.memoryQuiet) := by
  unfold State.memoryQuiet State.errorFree
  decide +kernel

/-- A move to or from package 3, behind port P0: D0's translation cache gives the page at 0 there. -/
def movingFar (action : Nat) (desc : List Byte) (prog : Prog) : State :=
  { linked (runningOn mover action desc prog) with tc := [⟨0, 0, false, 3 * 2 ^ 44 + 0x1F, false⟩] :: List.replicate 7 [], routes := [(3, 0x80)] }

theorem witness_TilesAreIssuedAndLand_far : ∀ q ∈ [(1, tileBytes 0 0 0 0), (2, tileBytes 0 1 0 0), (3, tileBytes 0 0 0 0)],
    (let s := movingFar q.1 q.2 .start
     let u := s.advance 4096
     let m := parseTm q.1 q.2
     let a := (u.setProg mover (.moving 0 [] false 0 false)).tileTarget mover 0 q.1 m 0
     (s.unit mover).running = some (runs1 mover q.1 q.2 .start) ∧ a.2 = .at (3 * 2 ^ 44) 0 ∧ gaPkg (3 * 2 ^ 44) ≠ s.pkgId ∧ m.form.spart = 0 ∧
      a.1.readable ∧ a.1.route (gaPkg (3 * 2 ^ 44)) = some 0 ∧ 2 ≤ (a.1.port 0).freeTags.length ∧ 0 < a.1.ports.length ∧
      Sparse.at? false a.1.clean (wsGranule (m.wsOf 0 0)) = false) := by
  unfold State.readable
  decide +kernel

/-- What package 3 answered to a tile's reads: its element part, and the line of its scale part. -/
def fromFar (parts : List (Nat × List Byte)) : Fly := { tile := 1, elem := 3 * 2 ^ 44 + 4096, scale := 3 * 2 ^ 44 + 0x100020, got := parts }

theorem witness_TilesAreIssuedAndLand_answered : ∀ q ∈ [(tileBytes 0x100000 2 0 0, [(0, List.replicate 1024 1#8), (1, word64)]),
      (tileBytes 0 0 0 0, [(0, List.replicate 4096 1#8)])],
    (let x := fromFar q.2
     let s := movingFar 1 q.1 (.moving 2 [x] false 0 false)
     let m := parseTm 1 q.1
     let far (part : Nat) := (x.got.find? (fun g => g.1 = part)).map Prod.snd
     s.flies mover 1 1 = some (runs1 mover 1 q.1 (.moving 2 [x] false 0 false), x) ∧ ((far 0).isSome = true ↔ gaPkg x.elem ≠ s.pkgId) ∧
      (m.form.spart ≠ 0 → ((far 1).isSome = true ↔ gaPkg x.scale ≠ s.pkgId)) ∧ (∀ bs, far 0 = some bs → bs.length = m.form.epart) ∧
      tmCheck (s.ctx 0).part (unitDie mover) 1 q.1 = stOk ∧ 1 < m.tiles ∧ s.memoryQuiet) := by
  unfold State.memoryQuiet State.errorFree
  refine fun q hq => ⟨?_, ?_, ?_, ?_, ?_⟩
  · revert q; decide +kernel
  · revert q; decide +kernel
  · revert q; decide +kernel
  · intro bs hb
    simp only [List.mem_cons, List.not_mem_nil, or_false] at hq
    rcases hq with rfl | rfl <;> simp only [fromFar, List.find?, decide_true, Option.map_some, Option.some.injEq] at hb <;> subst hb <;> decide +kernel
  · revert q; decide +kernel

/-- A STORE tile that narrows: with no scale part, and with one that lies here or in another package. -/
theorem witness_TilesAreIssuedAndLand_narrow : ∀ q ∈ [(tileBytes 0 1 0 0, 0), (tileBytes 0 1 0 2, 0), (tileBytes 0x100000 2 0 0, 0x100020), (tileBytes 0x100000 2 0 2, 0x100020)],
    (let x := inFlight q.2
     let s := moving 2 q.1 (.moving 1 [x] false 0 false)
     let m := parseTm 2 q.1
     s.flies mover 2 1 = some (runs1 mover 2 q.1 (.moving 1 [x] false 0 false), x) ∧ tmCheck (s.ctx 0).part (unitDie mover) 2 q.1 = stOk ∧
      1 < m.tiles ∧ s.memoryQuiet ∧ gaPkg x.elem = s.pkgId ∧ isTier1 4096 = true ∧ 4096 % alignUnit m.form.epart = 0 ∧ m.form.fmts.isSome = true ∧
      (m.form.spart = 0 ∨ gaPkg x.scale = s.pkgId ∧ isTier1 q.2 = true ∧ q.2 % m.form.spart = 0 ∧ rangesApart 4096 m.form.epart q.2 m.form.spart)) := by
  unfold State.memoryQuiet State.errorFree rangesApart
  decide +kernel

theorem witness_TilesAreIssuedAndLand_parts :
    (let d := tileBytes 0 1 0 0
     let x := fromFar []
     let s := movingFar 2 d (.moving 2 [x] false 0 false)
     s.flies mover 2 1 = some (runs1 mover 2 d (.moving 2 [x] false 0 false), x) ∧ gaPkg x.elem ≠ s.pkgId ∧ (parseTm 2 d).form.spart = 0 ∧ s.memoryQuiet ∧
      tmCheck (s.ctx 0).part (unitDie mover) 2 d = stOk) ∧
    ∀ e ∈ [4096, 3 * 2 ^ 44 + 4096], ∀ g ∈ [0x100020, 3 * 2 ^ 44 + 0x100020], ∀ got ∈ [[(2, List.replicate 1024 1#8), (3, List.replicate 32 1#8)], [(4, [])]],
    (let d := tileBytes 0x100000 2 0 0
     let x : Fly := { tile := 1, elem := e, scale := g, got := got }
     let s := movingFar 2 d (.moving 2 [x] false 0 false)
     let m := parseTm 2 d
     s.flies mover 2 1 = some (runs1 mover 2 d (.moving 2 [x] false 0 false), x) ∧ tmCheck (s.ctx 0).part (unitDie mover) 2 d = stOk ∧ 1 < m.tiles ∧
      m.form.spart = 32 ∧ m.form.epart = 1024 ∧ (gaPkg e = s.pkgId ↔ e = 4096) ∧ (gaPkg g = s.pkgId ↔ g = 0x100020) ∧ gaLocal e = 4096 ∧
      gaLocal g = 0x100020 ∧ isTier1 4096 = true ∧ isTier1 0x100020 = true ∧ 0x100020 % 32 = 0 ∧ 4096 % alignUnit 1024 = 0 ∧ 4096 % 64 = 0 ∧
      rangesApart 4096 1024 0x100020 32 ∧ s.route 3 = some 0 ∧ (s.port 0).freeTags ≠ [] ∧ 0 < s.ports.length) := by
  unfold State.memoryQuiet State.errorFree rangesApart
  decide +kernel

theorem witness_AtomicsApplyOncePerLine_line : isTier1 (64 * 1) = true ∧ (List.replicate 64 1#8).length = 64 ∧
    (∀ ty < 5, (atomType ty).isSome = true) ∧ exporting.memoryQuiet ∧
    exporting.reg .STK_ATOM_NONFINITE ((exporting.channelAt (64 * 1)).1 / 64) ((exporting.channelAt (64 * 1)).1 % 64) + 64 < countMax := by
  unfold State.memoryQuiet State.errorFree
  decide +kernel

theorem witness_AtomicsApplyOncePerLine_tile : ∀ flags ∈ [0, 4], ∀ ty ∈ [0, 2],
    (let d := tileBytes 0 ty flags 0
     let s := moving 3 d (.moving 1 [inFlight 0] false 0 false)
     s.flies mover 3 1 = some (runs1 mover 3 d (.moving 1 [inFlight 0] false 0 false), inFlight 0) ∧ gaPkg 4096 = s.pkgId ∧ isTier1 4096 = true ∧
      tmCheck (s.ctx 0).part (unitDie mover) 3 d = stOk ∧ 1 < (parseTm 3 d).tiles ∧ (atomType (parseTm 3 d).atype).isSome = true ∧
      ((parseTm 3 d).ret = true ↔ flags = 4) ∧ s.memoryQuiet) := by
  unfold State.memoryQuiet State.errorFree
  decide +kernel

theorem witness_AtomicsApplyOncePerLine_far : ∀ flags ∈ [0, 4],
    (let d := tileBytes 0 0 flags 0
     let x := fromFar (if flags = 4 then [(0, List.replicate 4096 1#8)] else [])
     let s := movingFar 3 d (.moving 2 [x] false 0 false)
     s.flies mover 3 1 = some (runs1 mover 3 d (.moving 2 [x] false 0 false), x) ∧ (∀ y ∈ [x], 1 ≤ y.tile) ∧ gaPkg x.elem ≠ s.pkgId ∧
      tmCheck (s.ctx 0).part (unitDie mover) 3 d = stOk ∧ 1 < (parseTm 3 d).tiles ∧ ((parseTm 3 d).ret = true ↔ flags = 4) ∧ s.memoryQuiet) := by
  unfold State.memoryQuiet State.errorFree
  refine fun flags hf => ⟨?_, fun y hy => ?_, ?_⟩
  · simp only [List.mem_cons, List.not_mem_nil, or_false] at hf
    rcases hf with rfl | rfl <;> rfl
  · rw [List.mem_singleton] at hy; subst hy; exact Nat.le_refl 1
  · revert flags; decide +kernel

theorem witness_AtomicsApplyOncePerLine_values : atomType 3 = some (none, 4) ∧ [3, 2 ^ 32 - 1].Perm [2 ^ 32 - 1, 3] ∧
    (∀ x ∈ [3, 2 ^ 32 - 1], x < 256 ^ 4) ∧ atomType 0 = some (some .fp32, 4) ∧ valOf .fp32 0x7FC00000 = .nan ∧ 0x7FC00000 < 256 ^ 4 :=
  ⟨by decide, List.Perm.swap _ _ _, by decide, by decide, by decide +kernel, by decide⟩

/-! The fabric. -/

/-- Port P0 of D0 carries packets, and window 0 admits every permission from package 1 at all of D0's first channel. -/
def open0 : State := (((linked (owning .running)).setReg .PORT_PKG_CTRL 0 0 1).setReg .PORT_WIN_RANGE 0 0 (2 ^ 32 * 0x80000)).setReg .PORT_WIN_SRC 0 0 (2 ^ 16 * 5)

def upHere : State := { open0.setReg .PORT_WIN_CTRL 0 0 0x101F with ft := 4096, aon := 4096 }

/-- A packet from package 1 for package 0, and a packet for package 2. -/
def packet (typ addr len ops : Nat) (body : List Byte) : Pkt :=
  { typ := typ, vc := 0, dst := 0, src := 1, tag := 9, port := 0, addr := addr, len := len, birth := 4000, ops := ops, flag := 3, epoch := 1, body := body }

/-- The frames of the statements, and a port whose replay buffer holds one frame. -/
def dataFrame (seq : Nat) : List Byte := frameBytes seq 65535 0 0 0 (pktBytes (packet 2 0 64 0 word64))

def oneHeld (f : PortSt → PortSt) : State := (upHere.setQueue (.portReplay 0) (fun q => { q with
  entries := List.replicate 3 { bytes := List.replicate 176 1#8, valid := 176, last := true }, wr := 3 })).setPort 0 (fun x => f { x with txSeq := 1 })

/-- A frame of zeros but for its CRC fails. -/
def badFrame : List Byte := List.replicate 520 0#8 ++ List.replicate 8 1#8

theorem badFrame_fails : frameOk badFrame = false := by
  have z : ∀ n, (List.replicate n 0#8).foldl crc64Byte 0 = 0 := fun n => by
    induction n with
    | zero => rfl
    | succ n ih => rw [List.replicate_succ, List.foldl_cons, show crc64Byte 0 0#8 = 0 by decide, ih]
  unfold frameOk badFrame fieldAt
  rw [List.take_left' (List.length_replicate ..), List.drop_left' (List.length_replicate ..), crc64, z]
  decide +kernel

theorem witness_LinkFramesKeepTheirOrder_frames : upHere.ports.length = 16 ∧ upHere.linkUp 0 = true ∧ frameOk badFrame = false ∧ frameOk [] = false ∧
    (∀ seq ∈ [0, 5], frameOk (dataFrame seq) = true ∧ frameKind (dataFrame seq) = 0 ∧
      (frameSeq (dataFrame seq) = ((upHere.port 0).rxSeq + 1) % 65536 ↔ seq = 0)) ∧
    (∀ kind ∈ [1, 2], frameOk (frameBytes 0 0 kind 0x80 3 []) = true ∧ frameKind (frameBytes 0 0 kind 0x80 3 []) = kind) ∧
    (∀ e ∈ ((oneHeld id).queue (.portReplay 0)).entries, e.bad = false) ∧ (oneHeld id).linkUp 0 = true := by
  refine ⟨by decide +kernel, by decide +kernel, badFrame_fails, by decide +kernel, fun seq hs => ⟨frameOk_frameBytes _ _ _ _ _ _ (by decide +kernel), ?_⟩,
    fun kind hk => ⟨frameOk_frameBytes _ _ _ _ _ _ (by decide), ?_⟩, by decide +kernel, by decide +kernel⟩
  · revert seq; decide +kernel
  · revert kind; decide +kernel

/-- A packet on its way out, of a context or another sender, which came by port P1. -/
def outgoing (ctx : Nat) : OutPkt := { outPkt 0 ctx none (pktBytes (packet 2 0 64 0 word64)) with came := some (1, 0) }

theorem witness_LinkFramesKeepTheirOrder_send : (∀ ctx ∈ [0, 16], (let s := upHere.setPort 0 (fun x => { x with waiting := [outgoing ctx] });
    s.linkUp 0 = true ∧ (s.port 0).sending = none ∧ (s.port 0).waiting = [outgoing ctx] ∧ (outgoing ctx).vc < 6 ∧ (outgoing ctx).ctx ≤ 16 ∧
      (outgoing ctx).left = 0 ∧ 0 < (outgoing ctx).bytes.length ∧ (outgoing ctx).bytes.length ≤ 512 ∧
      (outgoing ctx).units ≤ (s.port 0).credits.getD 0 0 ∧ (∀ w < 6, (s.port 0).owed.getD w 0 = 0) ∧ 0 < (s.port 1).owed.length ∧
      (s.queue (.portReplay 0)).wr + 3 ≤ 1536 + (s.queue (.portReplay 0)).rpSeen)) ∧
    (upHere.port 0).sending = none ∧ (upHere.port 0).nextPacket (upHere.portShare 0) = none ∧ (∀ w < 6, (upHere.port 0).owed.getD w 0 = 0) := by
  decide +kernel

/-- Context 1, behind its share, goes before context 0, which has sent enough; and before a sender that has no share. -/
theorem witness_LinkFramesKeepTheirOrder_share : ∀ first ∈ [0, 16],
    (let one : OutPkt := { outgoing 1 with vc := 1 }
     let y : PortSt := { waiting := [outgoing first, one], senders := [0, 0] }
     let share (c : Nat) : Nat := if c < 2 then 2 else 0
     y.nextPacket share = some one ∧ one.vc < 6 ∧ y.waiting.find? (fun z => z.vc = 1) = some one ∧ one.units ≤ y.credits.getD 1 0 ∧ one.ctx < 16 ∧
      0 < share 1 - (y.senders.take 98).count 1 ∧ ¬0 < share 0 - (y.senders.take 98).count 0) := by
  decide +kernel

/-- Port P0 passes a packet on to port P1 as it arrives: the rest of it is in the next frame, or goes on past it. -/
theorem witness_LinkFramesKeepTheirOrder_relay : ∀ left ∈ [64, 512, 544],
    (let s := upHere.setPort 0 (fun x => { x with relay := some { out := some 1, vc := 0, units := 10, left := left } });
      s.linkUp 0 = true ∧ (s.port 0).relay = some { out := some 1, vc := 0, units := 10, left := left } ∧ s.ports.length = 16 ∧
        (s.port 0).rxSeq = (upHere.port 0).rxSeq) := by decide +kernel

theorem witness_LinkFramesKeepTheirOrder_retrain : (let s := oneHeld (fun x => { x with link := .retrain, retrainFt := 4000 });
    (s.port 0).link = .retrain ∧ (s.advance 4096).ft < (s.port 0).retrainFt + 2000000 ∧
      ∀ e ∈ (s.queue (.portReplay 0)).entries, e.bad = false) ∧
    (let s := { upHere.setPort 0 (fun x => { x with link := .retrain, retrainFt := 4000 }) with ft := 2004000, aon := 2004000 };
      (s.port 0).retrainFt + 2000000 ≤ (s.advance 0).ft ∧ (s.advance 0).ft ≤ (s.port 0).retrainFt + 2000000 ∧ s.isDarzil 0 = true ∧
        (s.setReg .PORT_CTRL 0 0 2).isDarzil 0 = false) ∧ (upHere.port 0).link = .up ∧
    (let s := upHere.setPort 0 (fun x => { x with link := .training });
      s.portMode 0 = 1 ∧ (s.port 0).link = .training) := by decide +kernel

/-- What the window admits: the type, the permission, the packet. -/
def requests : List (Nat × Nat × Pkt) := [(1, 2, packet 1 0 64 64 []), (2, 4, packet 2 0 64 0 word64),
  (3, 4, packet 3 0 64 0 (word64 ++ leBytes 8 5)), (4, 8, packet 4 0 64 0x21 word64), (5, 4, packet 5 0 0 0 [])]

theorem witness_RequestsAreServedAndAnswered_requests : upHere.ports.length = 16 ∧ upHere.memoryQuiet ∧ isRegAddr 0 = false ∧ isTier1 0 = true ∧
    (atomType (0x21 % 8)).isSome = true ∧ (∀ q ∈ requests,
      (let r := (holdsPkt (pktBytes q.2.2) (upHere.advance 4096)).takePkt 0 [q.1] (pktBytes q.2.2);
        r.2 = some q.2.2 ∧ q.2.2.body.length = payloadLen q.2.2 ∧ r.1.admitting q.2.2 (max q.2.2.len 1) q.2.1 ≠ [] ∧
          (q.1 ≠ 5 → q.2.2.addr % 64 = 0 ∧ q.2.2.len % 64 = 0 ∧ 64 ≤ q.2.2.len ∧ q.2.2.len ≤ 2048) ∧
          (r.1.setReg .PORT_PKG_CTRL 0 0 0).admitting q.2.2 (max q.2.2.len 1) q.2.1 = [] ∧
          (r.1.winOwners (r.1.admitting q.2.2 1 4)).eraseDups = [0] ∧ (upHere.ctx 0).flag (r.1.homeDie 0) 3 < 65535)) ∧
    (let s : State := { upHere with regions := [region1] };
      s.fenceHit 1 [(0, 64)] = some (0, 0) ∧ s.fenceHit 0 [(0, 64)] = none) := by
  unfold State.memoryQuiet State.errorFree
  decide +kernel

theorem witness_RequestsAreServedAndAnswered_registers : (let k := packet 1 (regAddr .PKG_ID 0 0) 8 0 []
    let r := (holdsPkt (pktBytes k) (upHere.advance 4096)).takePkt 0 [1] (pktBytes k);
    r.2 = some k ∧ isRegAddr k.addr = true ∧ k.len = 8 ∧ k.addr % 8 = 0 ∧ (regAt k.addr).isSome = true ∧ k.body.length = payloadLen k) := by decide +kernel

theorem witness_RequestsAreServedAndAnswered_relay : (let k := { packet 2 0 64 0 word64 with dst := 2 }
    let s : State := { holdsPkt (pktBytes k) upHere with routes := [(2, 0x80)] };
    parsePkt (pktBytes k) = some k ∧ k.typ ≠ 0 ∧ k.dst ≠ s.pkgId ∧ (s.advance 4096).age k < 1999000 ∧ 1999000 ≤ (s.advance 2003000).age k ∧
      (s.port 0).first s.pkgId (pktBytes k) = true ∧ 2 ≤ (pktBytes k).length ∧
      (s.advance 4096).route k.dst = some 0 ∧ (upHere.advance 4096).route k.dst = none ∧ classOf k.typ = 0) := by decide +kernel

/-- The header and the first 32 bytes of a WRITE of 64 bytes have come: 32 bytes are still to arrive. -/
theorem witness_RequestsAreServedAndAnswered_through : (let k := { packet 2 0 64 0 word64 with dst := 2 }
    let pkt := (pktBytes k).take 64
    let s : State := { upHere.setPort 0 (fun x => { x with receiving := pkt }) with routes := [(2, 0x80)] };
    (parsePkt pkt).map (fun k => (k.typ, k.dst)) = some (2, 2) ∧ (s.port 0).first s.pkgId pkt = false ∧ (s.port 0).receiving = pkt ∧
      { s.port 0 with inbox := (s.port 0).inbox ++ [pkt] : PortSt }.first s.pkgId pkt = true ∧ 2 ≤ pkt.length ∧
      pkt.length < stepBytes (32 + payloadLen k) ∧ (parsePkt pkt).map payloadLen = some (payloadLen k) ∧ (s.advance 4096).age k < 1999000 ∧
      (s.advance 4096).route 2 = some 0) := by decide +kernel

/-- A request of a tile move with tag 9. -/
def asked (typ : Nat) : Req := { tag := 9, dst := 1, typ := typ, birth := 4000, addr := 2 ^ 44, unit := mover, ctx := 0, tile := 1, len := 64 }

theorem witness_RequestsAreServedAndAnswered_responses : ∀ q ∈ [(0x81, 1, 0), (0x82, 2, 0), (0x84, 4, 0), (0x85, 5, 0), (0x8F, 1, 2)],
    (let k := packet q.1 0 64 q.2.2 (if q.1 = 0x81 ∨ q.1 = 0x84 then word64 else [])
     let s := upHere.setPort 0 (fun x => { x with tags := [asked q.2.1] })
     (s.port k.port).tags.find? (fun r => r.tag = k.tag && r.birth == k.birth) = some (asked q.2.1) ∧
      ((holdsPkt (pktBytes k) (s.advance 4096)).takePkt 0 [q.1] (pktBytes k)).2 = some k ∧ (∀ r ∈ (upHere.port k.port).tags, r.tag ≠ k.tag ∨ r.birth ≠ k.birth) ∧
      (s.port 0).tags.find? (fun r => r.tag = 9) = some (asked q.2.1)) := by decide +kernel

theorem witness_RequestsAreServedAndAnswered_move : (asked 1).ended = false ∧ (asked 1).part < 2 ∧
    ((moving 1 (tileBytes 0 0 0 0) (.moving 2 [inFlight 0] false 0 false)).unit (asked 1).unit).running =
      some (runs1 mover 1 (tileBytes 0 0 0 0) (.moving 2 [inFlight 0] false 0 false)) ∧
    ((5000 + 2 ^ 32 - (asked 1).birth) % 2 ^ 32 < 2000000) ∧ (2000000 ≤ (2004000 + 2 ^ 32 - (asked 1).birth) % 2 ^ 32) ∧
    ({ asked 1 with part := 4 } : Req).ended = false ∧
    (let w := atPart 0 0
     let q : Req := { asked 1 with part := 5, unit := 0x500, tile := 0x7000 }
     q.ended = false ∧ q.part = 5 ∧
      (repairing (cmpDone 1 true) w).sweeps q.unit 4 = some (runs1 0x500 4 sweepBytes (.sweeping w), w)) := by decide +kernel

/-- The same port in Ethernet mode, with ring table at 0x8000 and one descriptor at 0x9000 for a buffer at 0xA000: rings 7 (send) and 8
(receive). -/
def cellsOf (l : List (Nat × List Byte)) : List Host.Cell :=
  (l.flatMap (fun e => (List.range e.2.length).map (fun i => (e.1 + i, e.2.getD i 0)))).filter (fun c => c.2 ≠ 0)

def ringBytes (base : Nat) : List Byte := leBytes 8 base ++ leBytes 4 64 ++ leBytes 4 1 ++ leBytes 4 0 ++ leBytes 12 0

def ether : State := { (((owning .loaded).setReg .PORT_CTRL 0 0 2).setReg .PORT_ETH_RINGS 0 0 0x8000).setPort 0 (fun x => { x with
    link := .up, producers := List.replicate 16 1, paused := List.replicate 8 0 }) with
  ft := 4096, aon := 4096
  mem := cellsOf [(0x80E0, ringBytes 0x9000), (0x8100, ringBytes 0xB000), (0x9000, leBytes 8 0xA000 ++ leBytes 2 100 ++ leBytes 6 0),
    (0xB000, leBytes 8 0xC000 ++ leBytes 2 2048 ++ leBytes 6 0)] }

theorem ether_quiet : ether.memoryQuiet ∧ ether.readable := by
  unfold State.memoryQuiet State.errorFree State.readable
  decide +kernel

theorem ether_now : ether.advance 4096 = ether := by
  unfold State.advance
  exact if_pos (by decide +kernel)

theorem witness_PortsTakeTheirSettings_send : ether.ethUp 0 = true ∧ ether.memoryQuiet ∧
    (∃ w, State.ethPick 0 [7, 6, 5, 4, 3, 2, 1, 0] (ether.advance 4096) = (w, some (0x80E0, 0x9000, 64, 0))) ∧
    ether.numAt 8 0x9000 = 0xA000 ∧ ether.numAt 2 (0x9000 + 8) = 100 ∧ 60 ≤ 100 ∧ isTier1 0xA000 = true ∧ isTier1 (0x9000 + 15) = true ∧
    isTier1 (0xA000 + 100 - 1) = true ∧ rangesApart 0x9000 16 0x80E0 32 := by
  refine ⟨by decide +kernel, ether_quiet.1, ?_, by decide +kernel, by decide +kernel, by decide, by decide, by decide, by decide, Or.inr (by decide)⟩
  rw [ether_now]
  obtain ⟨w, hw, cw⟩ := ethRing_readable ether_quiet.2 0 7 0x80E0 0x9000 64 0 (ringBytes 0x9000) (by decide +kernel) (by decide) (by decide +kernel)
    (by decide +kernel) (by decide +kernel) (by decide +kernel) (by decide) (by decide) (by decide) (by decide)
  have hp : (ether.port 0).paused.getD 7 0 ≤ ether.ft := by decide +kernel
  have e : w.port 0 = ether.port 0 := by unfold State.port; rw [show w.ports = ether.ports from show w.bare.ports = ether.bare.ports by rw [cw]]
  have hd : (ether.port 0).posted 7 (0x80E0, 0x9000, 64, 0) = true := by decide +kernel
  refine ⟨w, ?_⟩
  unfold State.ethPick
  rw [if_neg (by omega), hw]
  simp only [e, hd, if_true]

/-- A frame of 60 bytes of payload and header with its check sequence. -/
def etherFrame : List Byte := List.replicate 60 9#8 ++ fcs (List.replicate 60 9#8)

theorem witness_PortsTakeTheirSettings_receive : ether.ethUp 0 = true ∧ 64 ≤ etherFrame.length ∧ etherFrame.length ≤ 9216 ∧
    etherFrame.drop (etherFrame.length - 4) = fcs (etherFrame.take (etherFrame.length - 4)) ∧ be16 etherFrame 12 ≠ 0x8808 ∧
    be16 etherFrame 12 ≠ 0x8100 ∧ (∃ w, (ether.advance 4096).ethRing 0 8 = (w, some (0x8100, 0xB000, 64, 0))) ∧
    (ether.port 0).posted 8 (0x8100, 0xB000, 64, 0) = true ∧ ether.numAt 8 0xB000 = 0xC000 ∧ 60 ≤ ether.numAt 2 (0xB000 + 8) ∧
    rangesApart 0xB000 16 0x8100 32 ∧ rangesApart 0xC000 60 0x8100 32 ∧ rangesApart 0xC000 60 0xB000 16 ∧
    (List.replicate 64 9#8).drop (64 - 4) ≠ fcs ((List.replicate 64 9#8).take (64 - 4)) := by
  refine ⟨by decide +kernel, by decide +kernel, by decide +kernel, by decide +kernel, by decide +kernel, by decide +kernel, ?_, by decide +kernel,
    by decide +kernel, by decide +kernel, Or.inr (by decide), Or.inr (by decide), Or.inr (by decide), by decide +kernel⟩
  rw [ether_now]
  obtain ⟨w, hw, -⟩ := ethRing_readable ether_quiet.2 0 8 0x8100 0xB000 64 0 (ringBytes 0xB000) (by decide +kernel) (by decide) (by decide +kernel)
    (by decide +kernel) (by decide +kernel) (by decide +kernel) (by decide) (by decide) (by decide) (by decide)
  exact ⟨w, hw⟩

theorem witness_PortsTakeTheirSettings_rest : Sparse.wf 0#64 upHere.regs = true ∧ upHere.ports.length = 16 ∧ (2 : Nat) &&& 0xFFFF13 ≠ upHere.reg .PORT_CTRL 0 0 ∧
    upHere.fabricActive = false ∧ Sparse.wf 0 upHere.routes = true ∧ Sparse.wf 0 [(3, 2)] = true ∧ Sparse.at? 0 [(3, 2)] 3 = 2 ∧ upHere.hcx.busy = [] ∧
    upHere.hcx.msgs = [] ∧ upHere.hcx.reqs = [] ∧ upHere.hcx.dir = [] ∧ upHere.hcx.slc = [] ∧
    (let s := upHere.setReg .PORT_WIN_RANGE 0 0 0;
      bitOf 0x1001 0 = true ∧ bitOf 0x1001 12 = true ∧ (s.ctx (bitsOf 0x1001 11 8)).created = true ∧ s.unitIn (bitsOf 0x1001 11 8) 0 = true) ∧
    (upHere.ctx (bitsOf 0x1101 11 8)).created = false ∧ 2 ≤ ether.portMode 0 ∧ (ether.port 0).producers.length = 16 := by decide +kernel

theorem witness_PortsTakeTheirSettings_up : (let s : State := { upHere with ctxs := [], boot := { upHere.boot with portsLoaded := true } }
    s.fabricActive = false ∧ 2 &&& 0xFFFF13 ≠ s.reg .PORT_CTRL 0 0 ∧ s.boot.portsLoaded = true ∧ (s.port 0).trained = true ∧ s.portMode 1 = 0) := by
  decide +kernel

/-! Vector engines. -/

/-- An instruction word of R152 in FP32, and a kernel of words. -/
def insWord (op mode mask dst s0 s1 s2 imm cnt : Nat) : Nat :=
  2 ^ 120 * op + 2 ^ 118 * mode + 2 ^ 112 * 1 + 2 ^ 109 * mask + 2 ^ 103 * dst + 2 ^ 97 * s0 + 2 ^ 91 * s1 + 2 ^ 85 * s2 + 2 ^ 32 * imm + cnt

def endWord : Nat := insWord 0x4F 2 0 0 0 0 0 0 0

def kernelBytes : List Byte := leBytes 4 0x8000 ++ leBytes 2 1 ++ leBytes 2 0 ++ leBytes 4 1000 ++ leBytes 4 0 ++ leBytes 48 7

/-- A unit whose memory holds a kernel. -/
def kernelIn (prog : Prog) (ft : Nat) (ws : List Nat) : State :=
  { runningOn 0x200 1 kernelBytes prog with mem := cellsOf [(wsBase 0 + 0x8000, ws.flatMap (leBytes 16))], ft := ft, aon := ft }

theorem kernel_readable (prog : Prog) (ft : Nat) (ws : List Nat) : (kernelIn prog ft ws).readable :=
  ⟨rfl, fun _ hx => absurd hx List.not_mem_nil, rfl, rfl, rfl, rfl, rfl⟩

theorem witness_KernelsRunTheirInstructions_run : ∀ q ∈ [(endWord, true), (insWord 0x40 2 0 0 0 0 0 5 5, false)],
    (let x : Xfer := { rd := 16 }
     let r := runs1 0x200 1 kernelBytes (.copying x)
     let e := engineOf 0x200
     let s (ft : Nat) := kernelIn (.copying x) ft [q.1]
     let y (ft : Nat) := (s ft).moveTo e r ((s ft).ran 0 r.arith) x
     (s 4096).runsPour 0x200 clsVE 1 r ∧ (y 2048).over = false ∧ (y 2086).over = true ∧ (s 2085).passed 0 r.arith (32 + (y 2085).upTo) = false ∧
      (s 2086).passed 0 r.arith (32 + (y 2086).upTo) = true ∧
      (s 2086).peekBytes (wsAt (unitDie 0x200) (kProg kernelBytes)) (kLen kernelBytes * 16) = leBytes 16 q.1 ∧
      kernelOk ((List.range (kLen kernelBytes)).map (fun i => fieldAt (leBytes 16 q.1) (16 * i) 16)) = q.2) := by
  unfold State.runsPour
  decide +kernel

theorem witness_KernelsRunTheirInstructions_words (prog : Prog) (ft : Nat) (ws : List Nat) : ∃ w bs,
    (kernelIn prog ft ws).load (wsAt (unitDie 0x200) (kProg kernelBytes)) (kLen kernelBytes * 16) = (w, some bs) := by
  obtain ⟨w, hw, -⟩ := load_readable (kernel_readable prog ft ws) (wsAt (unitDie 0x200) (kProg kernelBytes)) (kLen kernelBytes * 16)
  exact ⟨w, _, hw⟩

/-- A kernel that has come, in cycle 40, to its only word, with a transfer of its own. -/
def atWord (word : Nat) (wait : VWait) (x : Xfer) : Prog := .kernel [word] 0 [] 40 wait x

def executing (word : Nat) (wait : VWait) (x : Xfer) (ft : Nat) : State := { runningOn 0x200 1 kernelBytes (atWord word wait x) with ft := ft, aon := ft }

/-- SETACC with DEFINE: its segment is not one of its shape's. -/
def badAcc : Nat := insWord 0x43 2 0 2 0 0 0 0x4001 4

theorem witness_KernelsRunTheirInstructions_turn :
    ∀ q ∈ [(Instr.vEnd 0 0, 0x4F, 0, none, none), (.vLoop 0 0, 0x42, 0, none, none), (.vSeta 0 0, 0x40, 0, none, none),
      (.vTqhdr 0 0, 0x45, 0, some (Stop.wait .queue), some (.wait .queue)), (.vSetacc 0 0, 0x43, 0x4001, some (.fail stBadParam), some (.fail stBadParam)),
      (.vSetacc 0 0, 0x43, 0, none, some (.fail stBadState))],
    (let word := insWord q.2.1 2 0 2 0 0 0 q.2.2.1 4
     let x : Xfer := { upTo := 40 }
     let r := runs1 0x200 1 kernelBytes (atWord word .none x)
     let s := executing word .none x
     let l := laneAt 0 r [word] 0
     vectorRow q.1 = some (0, 0, q.2.1) ∧ (s 4096).runsKernel 0 r [word] 0 [] 40 .none x ∧ l.i.op = q.2.1 ∧ x.over = true ∧
      (s 2094).passed 0 r.arith 40 = false ∧ (s 2095).passed 0 r.arith 40 = true ∧ (s 4096).laneCycles l (x.upTo - 40) = 1 ∧
      40 + 1 ≤ kBudget r.held.bytes ∧ (s 2095).passed 0 r.arith (40 + 1) = false ∧ (s 2096).passed 0 r.arith (40 + 1) = true ∧
      (s 2096).startCheck l = q.2.2.2.1 ∧ ((s 2096).fetchIns 0 0).2 = false ∧
      (({ s 2096 with upsets := [(.ins 0 0, 3)] } : State).fetchIns 0 0).2 = true ∧ (((s 2096).fetchIns 0 0).1.runIns l).2 = q.2.2.2.2 ∧
      ((((s 2096).fetchIns 0 0).1.runIns l).1.unit (veUnit 0)).running = some r) := by
  unfold State.runsKernel
  decide +kernel

theorem witness_KernelsRunTheirInstructions_wait : ∀ wait ∈ [VWait.none, .queue, .segment, .share],
    (let word := if wait = .segment then insWord 0x43 2 0 0 0 0 0 0x4000 0 else insWord 0x45 2 0 0 0 0 0 0 0
     let x : Xfer := { rd := 64, upTo := 40 }
     let r := runs1 0x200 1 kernelBytes (atWord word wait x)
     let l := laneAt 0 r [word] 0
     let s := executing word wait x
     let come := (s 4096).setQueue (.tileHeader 0) (fun q => { q with entries := [{ bytes := leBytes 32 0, valid := 32, last := true }], wr := 1, wrSeen := 1 })
     (s 4096).runsKernel 0 r [word] 0 [] 40 wait x ∧ come.runsKernel 0 r [word] 0 [] 40 wait x ∧
      (come.waitOver l wait x = decide (wait ≠ .none)) ∧ (wait = .queue → (s 4096).waitOver l wait x = false) ∧
      (s 3223).passed 0 r.arith (kBudget kernelBytes) = false ∧ (s 3224).passed 0 r.arith (kBudget kernelBytes) = true ∧
      (s 4096).reg (if wait = .segment then .VE_ACC_WAIT else .VE_TQ_WAIT) 0 0 + ((s 4096).ran 0 r.arith - 40) < countMax) := by
  unfold State.runsKernel
  decide +kernel

/-- The control instructions: their words, and an engine whose tile queues hold a header of a tile with SEQ 0. -/
def header0 : QEntry := { bytes := leBytes 32 0, valid := 32, last := true }

def queued (word : Nat) : State :=
  (executing word .none { upTo := 40 } 4096).setQueue (.tileHeader 0) (fun q => { q with entries := [header0], wr := 1, wrSeen := 1 })

def controls : List (Instr × Nat × Nat) := [(.vSeta 0 0, 0x40, 0), (.vAdda 0 0, 0x41, 0), (.vLoop 0 0, 0x42, 0), (.vSetacc 0 0, 0x43, 0x4000), (.vSetacc 0 0, 0x43, 0),
  (.vSetsr 0 0, 0x44, 0), (.vTqhdr 0 0, 0x45, 0), (.vTqmark 0 0, 0x46, 0), (.vTqrewind 0 0, 0x47, 0), (.vTqrel 0 0, 0x48, 0), (.vEnd 0 0, 0x4F, 0)]

theorem due_of_over {s : State} {i : Instr} {op word : Nat} (x : Xfer) (cycles : Nat)
    (h : vectorRow i = some (0, 0, op) ∧ (parseIns word).op = op ∧ s.upsets = [] ∧ 40 + cycles ≤ kBudget kernelBytes ∧
      (s.advance 0).passed 0 2048 (40 + cycles) = true ∧ (s.unit (veUnit 0)).running = some (runs1 0x200 1 kernelBytes (atWord word .none x)) ∧
      ((s.advance 0).moveTo 0 (runs1 0x200 1 kernelBytes (atWord word .none x)) ((s.advance 0).ran 0 2048) x).over = true ∧
      cycles = (s.advance 0).laneCycles (laneAt 0 (runs1 0x200 1 kernelBytes (atWord word .none x)) [word] 0)
        (((s.advance 0).moveTo 0 (runs1 0x200 1 kernelBytes (atWord word .none x)) ((s.advance 0).ran 0 2048) x).upTo - 40)) :
    s.instrDue i 0 0 (runs1 0x200 1 kernelBytes (atWord word .none x)) [word] 0 [] 40 cycles := by
  obtain ⟨h1, h2, h3, h4, h5, h6, h7, h8⟩ := h
  exact ⟨h1.trans (by rw [← h2]; rfl), h3, h4, h5, .none, x, ⟨by decide, h6, rfl, rfl⟩, Or.inl rfl, h7, h8⟩

theorem witness_KernelsRunTheirInstructions_due : ∀ q ∈ controls, (let word := insWord q.2.1 2 0 2 0 0 0 q.2.2 4
    (queued word).instrDue q.1 0 0 (runs1 0x200 1 kernelBytes (atWord word .none { upTo := 40 })) [word] 0 [] 40 1) := by
  intro q hq
  refine due_of_over (op := q.2.1) _ _ ?_
  revert q
  decide +kernel

theorem witness_KernelsRunTheirInstructions_control : ((queued endWord).eng 0).a.length = 8 ∧
    (let l (op imm : Nat) := laneAt 0 (runs1 0x200 1 kernelBytes .start) [insWord op 2 0 2 0 0 0 imm 4] 0
     let acc := accSeg (l 0x43 0x4000).i.imm
     let n := tileSegs (accShape (l 0x43 0x4000).i.imm) (accCode (l 0x43 0x4000).i.imm)
     let q := queued endWord
     let old := q.setEng 0 (fun x => { x with tiles := [⟨0, accShape 0, accCode 0, [], true⟩] })
     bitOf (l 0x43 0x4000).i.imm 14 = true ∧ acc % n = 0 ∧ acc + n ≤ 64 ∧
      q.reserved 0 0 8 = false ∧ bitOf (l 0x43 0).i.imm 14 = false ∧ (q.eng 0).tiles = [] ∧
      (old.eng 0).tiles.filter (fun q => q.live && q.overlaps (accSeg 0) (tileSegs (accShape 0) (accCode 0))) = [⟨0, accShape 0, accCode 0, [], true⟩] ∧
      ((q.setUnit (meUnit 0) (fun x => { x with running := some (runs1 (meUnit 0) 1 (productBytes 0) .start) })).reserved 0 0 8 = true) ∧
      ((executing endWord .none {} 4096).queue (.tileHeader 0)).isEmpty = true ∧ (q.queue (.tileHeader 0)).isEmpty = false ∧
      (q.queue (.tileHeader 0)).at? (q.queue (.tileHeader 0)).rd = some header0 ∧ header0.bad = false ∧
      fieldAt header0.bytes 30 2 = (q.eng 0).nextSeq) := by decide +kernel

theorem witness_KernelsRunTheirInstructions_queues : ((queued endWord).queue (.tileHeader 0)).Ordered (queueDepth (.tileHeader 0)) ∧
    ((queued endWord).queue (.tileData 0)).Ordered (queueDepth (.tileData 0)) := by
  refine ⟨⟨?_, ?_, ?_, ?_, ?_, ?_, ?_⟩, ⟨?_, ?_, ?_, ?_, ?_, ?_, ?_⟩⟩ <;> decide +kernel

/-- Count-mode instructions over V registers: the row, opcode, class, mask, destination, third source and cycles. -/
def counted : List (Instr × Nat × OpCls × Nat × Nat × Nat × Nat) :=
  [(.vAdd 0 0, 0x01, .arith, 1, 3, 3, 3), (.vFma 0 0, 0x04, .arith, 0, 15, 1, 3), (.vExp2 0 0, 0x20, .trans, 1, 3, 3, 3), (.vMov 0 0, 0x09, .move, 1, 3, 3, 3),
   (.vSel 0 0, 0x14, .sel, 1, 3, 16 + 2, 3), (.vCmpeq 0 0, 0x10, .cmp, 1, 16 + 1, 3, 3), (.vCmple 0 0, 0x13, .cmp, 1, 16 + 7, 3, 3),
   (.vRsum 0 0, 0x30, .red, 1, 3, 3, 19), (.vRargmin 0 0, 0x35, .red, 1, 15, 3, 19)]

theorem witness_VectorResultsAreRoundedOnce_due : ∀ q ∈ counted, (let word := insWord q.2.1 0 q.2.2.2.1 q.2.2.2.2.1 1 2 q.2.2.2.2.2.1 0 4
    (queued word).instrDue q.1 0 0 (runs1 0x200 1 kernelBytes (atWord word .none { upTo := 40 })) [word] 0 [] 40 q.2.2.2.2.2.2) := by
  intro q hq
  refine due_of_over (op := q.2.1) _ _ ?_
  revert q
  decide +kernel

theorem witness_VectorResultsAreRoundedOnce : ∀ q ∈ counted,
    (let word := insWord q.2.1 0 q.2.2.2.1 q.2.2.2.2.1 1 2 q.2.2.2.2.2.1 0 4
     let s := queued word
     let l := laneAt 0 (runs1 0x200 1 kernelBytes .start) [word] 0
     (opInfo l.i.op).map Prod.fst = some q.2.2.1 ∧ l.i.mode = 0 ∧ (∀ x ∈ l.i.sources, x < 16) ∧ l.i.cnt ≤ 4096 ∧ l.i.dst = q.2.2.2.2.1 ∧
      Sparse.wf 0 (s.eng 0).v = true ∧ (s.eng 0).k.length = 7 ∧ (s.eng 0).a.getD 7 0 % 8 = 0 ∧ s.laneBanks l 0 8 = true ∧ s.errorFree) := by
  unfold State.errorFree
  decide +kernel

/-- An engine with a header of a tile with one row of four FP32 elements, its row, a live accumulator tile of FP32, and pointers. -/
def rowHeader : List Byte := leBytes 6 0 ++ leBytes 1 1 ++ leBytes 5 0 ++ leBytes 2 1 ++ leBytes 2 4 ++ leBytes 12 0 ++ leBytes 2 64 ++ leBytes 2 0

def accTile2 : Tile := ⟨0, 2, 0, List.replicate 8192 (0, 0), true⟩

def equipped (word : Nat) (cells : List Host.Cell) : State :=
  { ((queued word).setEng 0 (fun x => { x with header := some rowHeader, tiles := [accTile2], accImm := 0x200, a := (List.range 8).map (fun n => 0x1000 + 0x100 * n) })).setQueue (.tileData 0)
      (fun q => { q with entries := [{ bytes := List.replicate 64 1#8, valid := 64, last := true }], wr := 1, wrSeen := 1 }) with mem := cells }

theorem equipped_tiles (word : Nat) (cells : List Host.Cell) : ((equipped word cells).eng 0).tilesOk := by
  intro q hq
  have e : ((equipped word cells).eng 0).tiles = [accTile2] := rfl
  rw [e, List.mem_singleton] at hq
  subst hq
  refine ⟨List.length_replicate .., fun b hb => ?_⟩
  rw [(List.mem_replicate.mp hb).2]
  decide

theorem equipped_ordered (word : Nat) (cells : List Host.Cell) :
    ((equipped word cells).queue (.tileData 0)).Ordered (queueDepth (.tileData 0)) := by
  have e : (equipped word cells).queue (.tileData 0) = (equipped endWord []).queue (.tileData 0) := rfl
  rw [e]
  refine ⟨?_, ?_, ?_, ?_, ?_, ?_, ?_⟩ <;> decide +kernel

/-- Count-mode instructions over every kind of operand: the row, opcode, class, destination, first and second source. -/
def mixed : List (Instr × Nat × OpCls × Nat × Nat × Nat) :=
  [(.vAdd 0 0, 0x01, .arith, 3, 0x18, 0x20), (.vMul 0 0, 0x03, .arith, 0x19, 0x21, 1), (.vAdd 0 0, 0x01, .arith, 0x22, 0x22, 0x20),
   (.vMov 0 0, 0x09, .move, 0x18, 0x22, 0), (.vMov 0 0, 0x09, .move, 3, 0x21, 0), (.vExp 0 0, 0x21, .trans, 0x22, 0x18, 0),
   (.vCmpeq 0 0, 0x10, .cmp, 0x11, 0x18, 0x21), (.vRsum 0 0, 0x30, .red, 0x19, 0x21, 0), (.vRargmax 0 0, 0x34, .red, 0x22, 0x18, 0),
   (.vRmin 0 0, 0x33, .red, 3, 0x22, 0)]

def mixedWord (q : Instr × Nat × OpCls × Nat × Nat × Nat) : Nat := insWord q.2.1 0 0 q.2.2.2.1 q.2.2.2.2.1 q.2.2.2.2.2 0 5 4

def laneOf (word : Nat) : Machine.Lane := laneAt 0 (runs1 0x200 1 kernelBytes (atWord word .none { upTo := 40 })) [word] 0

theorem witness_VectorResultsAreRoundedOnce_mixedDue : ∀ q ∈ mixed,
    (equipped (mixedWord q) []).instrDue q.1 0 0 (runs1 0x200 1 kernelBytes (atWord (mixedWord q) .none { upTo := 40 })) [mixedWord q] 0 [] 40
      ((equipped (mixedWord q) []).laneCycles (laneOf (mixedWord q)) 0) := by
  intro q hq
  refine due_of_over (op := q.2.1) _ _ ?_
  revert q
  decide +kernel

theorem witness_VectorResultsAreRoundedOnce_mixed : ∀ q ∈ mixed,
    (let s := equipped (mixedWord q) []
     let l := laneOf (mixedWord q)
     (opInfo l.i.op).map Prod.fst = some q.2.2.1 ∧ l.i.mode = 0 ∧ l.i.cnt ≤ 4096 ∧ l.i.dst = q.2.2.2.1 ∧ insOk ([mixedWord q].getD 0 0) = true ∧
      (s.advance 0).startCheck l = none ∧ s.readable ∧ s.errorFree ∧ Sparse.wf 0 (s.eng 0).v = true ∧ (s.eng 0).k.length = 7 ∧
      (∀ n < 8, n ≠ 7 → rangesApart (wsAt l.die ((s.eng 0).a.getD n 0)) (fmtWidth l.mf / 8 * 2) (wsAt l.die ((s.eng 0).a.getD 7 0)) 8)) := by
  unfold State.errorFree State.readable rangesApart
  decide +kernel

/-- Tensor-mode instructions: the row, opcode, class, destination and sources, and what their descriptor at 0x2000 names. -/
def slotCells (a code : Nat) (sl : Slot) : List Host.Cell :=
  ([(1, sl.off / 256), (5, sl.soff / 256), (8, code + 16 * b2n sl.scaled), (9, b2n sl.acc), (16, sl.sizes.getD 0 1), (20, sl.sizes.getD 1 1),
    (24, 1), (28, 1), (32, 1)].filter (fun c => c.2 ≠ 0)).map (fun c => (a + c.1, BitVec.ofNat 8 c.2))

def slotAt (off n : Nat) : Slot :=
  { off := off, soff := 0, f := .fp32, scaled := false, acc := false, tid := 0, sizes := [n, 1, 1, 1, 1], strides := [0, 0, 0, 0], base := 0 }

def blockSlot : Slot := { slotAt 0x4000 3 with soff := 0x6000, f := .e4m3, scaled := true }

def tileSlot : Slot := { slotAt 0 128 with acc := true, sizes := [128, 64, 1, 1, 1] }

def tensors : List (Instr × Nat × OpCls × Nat × Nat × Nat × Slot × Nat) :=
  [(.vAdd 0 0, 0x01, .arith, 0x30, 0x31, 0x20, slotAt 0x4000 3, 1), (.vMul 0 0, 0x03, .arith, 0x30, 0x31, 0x20, blockSlot, 4),
   (.vAdd 0 0, 0x01, .arith, 0x30, 0x31, 0x20, tileSlot, 1), (.vMov 0 0, 0x09, .move, 0x30, 0x31, 0, blockSlot, 4),
   (.vCmplt 0 0, 0x12, .cmp, 0x12, 0x30, 0x31, slotAt 0x4000 3, 1), (.vRsum 0 0, 0x30, .red, 0x30, 0x31, 0, slotAt 0x4000 1, 1)]

/-- The source: three elements, or one that the tile slot repeats. -/
def sourceOf (q : Instr × Nat × OpCls × Nat × Nat × Nat × Slot × Nat) : Slot := slotAt 0x5000 (if q.2.2.2.2.2.2.1.acc then 1 else 3)

def tensorOf (q : Instr × Nat × OpCls × Nat × Nat × Nat × Slot × Nat) : Tensor := ⟨[some q.2.2.2.2.2.2.1, some (sourceOf q), none, none], 0, 0, 0x7000⟩

def tensorWord (q : Instr × Nat × OpCls × Nat × Nat × Nat × Slot × Nat) : Nat :=
  insWord q.2.1 1 0 q.2.2.2.1 q.2.2.2.2.1 q.2.2.2.2.2.1 0 5 0x2000

def tensorIn (q : Instr × Nat × OpCls × Nat × Nat × Nat × Slot × Nat) : State := equipped (tensorWord q) (
  let a := wsBase 0 + 0x2000
  [(a, 3#8), (a + 5, 0x70#8)] ++ slotCells (a + 64) q.2.2.2.2.2.2.2 q.2.2.2.2.2.2.1 ++ slotCells (a + 128) 1 (sourceOf q))

theorem witness_VectorResultsAreRoundedOnce_tensorDue : ∀ q ∈ tensors,
    (tensorIn q).instrDue q.1 0 0 (runs1 0x200 1 kernelBytes (atWord (tensorWord q) .none { upTo := 40 })) [tensorWord q] 0 [] 40
      ((tensorIn q).laneCycles (laneOf (tensorWord q)) 0) := by
  intro q hq
  refine due_of_over (op := q.2.1) _ _ ?_
  revert q
  decide +kernel

theorem witness_VectorResultsAreRoundedOnce_tensor : ∀ q ∈ tensors,
    (let s := tensorIn q
     let l := laneOf (tensorWord q)
     let d := tensorOf q
     (opInfo l.i.op).map Prod.fst = some q.2.2.1 ∧ l.i.mode = 1 ∧ insOk ([tensorWord q].getD 0 0) = true ∧ (s.advance 0).startCheck l = none ∧
      s.readable ∧ s.errorFree ∧ parseTensor (s.peekBytes (wsAt l.die l.i.cnt) 320) = some d ∧
      d.space l.i (q.2.2.1 == .red) = some (if q.2.2.1 = .red then [3, 1, 1, 1, 1] else q.2.2.2.2.2.2.1.sizes) ∧
      (q.2.2.1 = .cmp → selOf l.i.dst = some (.k 2)) ∧ (q.2.2.1 ≠ .cmp → d.slot l.i.dst = some q.2.2.2.2.2.2.1)) := by
  unfold State.errorFree State.readable
  decide +kernel

/-- The bytes that a position of the destination writes, and those that it reads. -/
def writesOf (q : Instr × Nat × OpCls × Nat × Nat × Nat × Slot × Nat) (k : Nat) : List (Nat × Nat) :=
  q.2.2.2.2.2.2.1.bytesOf (laneOf (tensorWord q)) true (coords q.2.2.2.2.2.2.1.sizes k)

def readsOf (q : Instr × Nat × OpCls × Nat × Nat × Nat × Slot × Nat) (k : Nat) : List (Nat × Nat) :=
  let l := laneOf (tensorWord q)
  let c := coords q.2.2.2.2.2.2.1.sizes k
  if q.2.2.1 = .red then (List.range 3).flatMap (fun j => ((tensorOf q).sources l.i).flatMap (fun g => g.bytesOf l false (c.set 0 j)))
  else ((tensorOf q).sources l.i).flatMap (fun g => g.bytesOf l false c)

def apart (a b : Nat × Nat) : Bool := a.1 + a.2 ≤ b.1 || b.1 + b.2 ≤ a.1

/-- A position keeps apart from what the others read and write (a reduction here has one). -/
theorem witness_VectorResultsAreRoundedOnce_apart : ∀ q ∈ tensors, q.2.2.1 ∉ [OpCls.cmp, .red] → q.2.2.2.2.2.2.1.acc = false → q.2.2.2.2.2.2.1.scaled = false →
    ∀ k < 3, ∀ k' < 3, k ≠ k' → (writesOf q k).all (fun a => (readsOf q k' ++ writesOf q k').all (apart a)) = true := by decide +kernel

/-- The two parts of a block keep apart, and a reduction's result from its status word; every position of a block is in one block. -/
theorem witness_VectorResultsAreRoundedOnce_parts : ∀ q ∈ tensors, (q.2.2.2.2.2.2.1.scaled = true → volume q.2.2.2.2.2.2.1.sizes = 3 ∧
      ∀ k < 3, ∀ a ∈ writesOf q k, ∀ b ∈ writesOf q k, a ≠ b → apart a b = true) ∧
    (q.2.2.1 = .red → volume q.2.2.2.2.2.2.1.sizes = 1 ∧ ∀ a ∈ writesOf q 0, apart a (wsAt 0 0x7000, 8) = true) := by decide +kernel

theorem witness_VectorResultsAreRoundedOnce_tile (q : Instr × Nat × OpCls × Nat × Nat × Nat × Slot × Nat) (h : q.2.2.2.2.2.2.1.acc = true) (k : Nat) :
    writesOf q k = [] := by simp [writesOf, Slot.bytesOf, h]

/-! The coherent domain. -/

/-- The cores run; line 4 is SHARED; `f` places what the domain holds. -/
def domain (f : Hcx → Hcx) : State := { (owning .running).setHcx (fun h => f { h with running := true }) with ft := 4096, aon := 4096 }

def line4 : SlcLine := { bytes := word64, dirty := false, way := 2 }

def copy4 (st : CopySt) (holdEnd : Nat) : CoreLine := { core := 7, line := 4, st := st, bytes := word64, holdEnd := holdEnd }

def msg4 (k : MsgKind) : CohMsg := { kind := k, core := 7, line := 4, bytes := word64 }

def op4 (kind : OpKind) (missing : List Nat) (granted : Bool) : HomeOp :=
  { line := 4, kind := kind, core := 9, missing := missing, granted := granted, since := 4000 }

theorem witness_CoherentDomain_cores_free : (let s := domain id
    s.coresRun = true ∧ isTier1 (64 * 4) = true ∧ s.isShared (64 * 4) = true ∧ s.memoryQuiet ∧ s.hcx.busy = [] ∧ s.hcx.reqs = [] ∧ s.hcx.copies = [] ∧
      s.hcx.reserved = [] ∧ s.hcx.putting = [] ∧ (s.hcx.copies.filter (fun c => c.core = 7)).length +
        (s.hcx.reqs.filter (fun r => r.core = 7 && r.kind != .upgrade)).length < 32768 ∧ Sparse.wf 0#64 s.regs = true ∧ s.reg .HCX_DIR_NACKS (s.lineHome 4) 0 + 1 < countMax ∧
      s.reg .HCX_CORE_NACKED 0 7 + 1 < countMax ∧ s.hcx.down = none) := by
  unfold State.memoryQuiet State.errorFree
  decide +kernel

theorem witness_CoherentDomain_cores_held : ∀ e ∈ [DirSt.owned 5, .shared [5, 9], .shared [7]],
    (let s := domain (fun h => { h with dir := [(4, e)], slc := [(4, line4)] })
     s.coresRun = true ∧ s.isShared (64 * 4) = true ∧ s.homeEntry 4 = some e ∧ s.copyOf 7 4 = none ∧ s.hcx.copies = [] ∧ s.hcx.reqs = [] ∧ s.hcx.putting = [] ∧
      s.upsets = [] ∧ s.homeOp 4 = none ∧ s.hcx.reserved = [] ∧ s.slcLine 4 = some line4 ∧
      ({ s with hcx := { s.hcx with copies := [copy4 .sharedCopy 0] } } : State).copyOf 7 4 = some (copy4 .sharedCopy 0)) ∧
    (7 ∈ [7, 9] ∧ [7, 9].filter (fun k => k ≠ 7) ≠ [] ∧ 7 ∈ [7] ∧ [7].filter (fun k => k ≠ 7) = []) := by decide +kernel

/-- A directory entry with two wrong bits, and a cached line with an uncorrectable word. -/
theorem witness_CoherentDomain_cores_bad : (let s : State := { domain (fun h => { h with dir := [(4, .shared [9])], slc := [(4, line4)] }) with upsets := [(.dir 4, 3)] }
    s.coresRun = true ∧ s.copyOf 7 4 = none ∧ s.hcx.copies = [] ∧ s.hcx.reqs = [] ∧ s.hcx.putting = [] ∧ s.homeOp 4 = none ∧ s.hcx.reserved = [] ∧
      ∃ x ∈ s.upsets, x.1 = .dir 4 ∧ 2 ≤ popCount 64 x.2) ∧
    (let s : State := { domain (fun h => { h with dir := [(4, .shared [9])], slc := [(4, line4)] }) with upsets := [(.slc 4 0, 3)] }
     s.homeEntry 4 = some (.shared [9]) ∧ s.slcLine 4 = some line4 ∧ (s.badWord (64 * 4) 64).isSome = true) := by decide +kernel

theorem witness_CoherentDomain_cores_busy : (∀ o ∈ [op4 .getX [5] false, { op4 .read [5] false with core := 7, acc := some (.read none) },
      { op4 .evict [5] false with core := 7 }, { op4 .getX [] true with core := 7 }], (let s := domain (fun h => { h with busy := [o] })
    s.coresRun = true ∧ s.homeOp 4 = some o ∧ s.copyOf 7 4 = none ∧ s.hcx.copies = [] ∧ s.hcx.reqs = [] ∧ s.hcx.putting = [] ∧ s.hcx.msgs = [] ∧
      (o.core ≠ 7 ∨ o.acc.isSome = true ∨ o.kind = .evict ∨ o.granted = true))) ∧
    (∀ k ∈ [MsgKind.nack, .inv, .fwdS, .fwdI, .dataS, .dataE, .grant, .putAck],
      (domain (fun h => { h with msgs := [msg4 k] })).hcx.msgs.find? (fun m => m.kind = k && m.core == 7 && m.line == 4) = some (msg4 k)) ∧
    (let s := domain (fun h => { h with reqs := [{ core := 7, line := 4, kind := .getS, nacks := 1, retryAt := some 5000 }] })
     s.hcx.reqs.find? (fun r => r.core = 7 && r.line == 4) = some { core := 7, line := 4, kind := .getS, nacks := 1, retryAt := some 5000 } ∧
      (s.advance 4096).ft < 5000 ∧ 5000 ≤ (s.advance 5000).ft) := by decide +kernel

theorem witness_CoherentDomain_cores_copies : ∀ k ∈ [MsgKind.inv, .fwdS, .fwdI, .grant], ∀ hold ∈ [4000, 5000],
    (let s := domain (fun h => { h with msgs := [msg4 k], copies := [copy4 .modified hold], busy := [{ op4 .getX [] true with core := 7 }], slc := [(4, line4)] })
     s.hcx.msgs.find? (fun m => m.kind = k && m.core == 7 && m.line == 4) = some (msg4 k) ∧ s.copyOf 7 4 = some (copy4 .modified hold) ∧
      ((s.advance 4096).ft < hold ↔ hold = 5000) ∧ s.hcx.copies.Nodup ∧ (copy4 .modified hold).due = none ∧ (copy4 .modified hold).st ≠ .sharedCopy ∧
      s.homeOp 4 = some { op4 .getX [] true with core := 7 } ∧ 4000 ≤ (s.advance 4096).ft ∧ s.slcLine 4 = some line4 ∧
      (∀ x ∈ s.hcx.busy, x.behind ≠ some 4) ∧ s.hcx.reserved = [] ∧ s.hcx.engineWait = [] ∧ word64.length = 64 ∧
      (domain (fun h => { h with slc := [(4, line4)], copies := [copy4 .modified hold] })).homeOp 4 = none) := by decide +kernel

/-- A core's copy as it has been, as the core stores to it, and as it drops it; and a PUT_M of a line whose INV waits for the hold to end. -/
theorem witness_CoherentDomain_cores_did : ∀ st ∈ [CopySt.modified, .exclusive, .sharedCopy], ∀ due ∈ [none, some MsgKind.inv],
    (let c := { copy4 st 4000 with due := due }
     let s := domain (fun h => { h with msgs := [msg4 .fwdS], copies := [c], slc := [(4, line4)] })
     s.hcx.copies.filter (fun x => x.core = 7 && x.line == 4) = [c] ∧ s.copyOf 7 4 = some c ∧ c.holdEnd ≤ (s.advance 4096).ft ∧
      (c.st ≠ .sharedCopy ∨ c.st ≠ .modified) ∧ (c.due = none ∨ c.due.isSome = true) ∧ s.hcx.copies.Nodup ∧ s.homeOp 4 = none) ∧
    (domain (fun h => { h with msgs := [msg4 .fwdS] })).copyOf 7 4 = none := by decide +kernel

/-- An answer of core 7 reaches the home of line 4, which serves core 9. -/
def answering (k : MsgKind) (kind : OpKind) (l : List Nat) : State := domain (fun h => { h with
  msgs := [msg4 k], busy := [op4 kind l false], slc := [(4, line4)], dir := [(4, .owned 7)], copies := [{ copy4 .sharedCopy 0 with core := 9 }] })

theorem witness_CoherentDomain_homes_answers : ∀ kind ∈ [OpKind.getX, .upgrade, .getS], ∀ l ∈ [[7], [7, 8]], ∀ k ∈ [MsgKind.invAck, .wbDirty, .notPresent],
    (let s := answering k kind l
     s.hcx.running = true ∧ s.coresRun = true ∧ s.upsets = [] ∧ s.hcx.msgs.find? (fun m => m.kind = k && m.core == 7 && m.line == 4) = some (msg4 k) ∧
      s.homeOp 4 = some (op4 kind l false) ∧ (op4 kind l false).behind = none ∧ l.Nodup ∧ 7 ∈ l ∧ s.slcLine 4 = some line4 ∧ (op4 kind l false).core ≠ 7 ∧
      (s.copyOf 9 4).isSome = true ∧ s.homeEntry 4 = some (.owned 7) ∧ Sparse.wf 0#64 s.regs = true ∧
      s.reg .HCX_NOT_PRESENT (s.lineHome 4) 0 + 1 < countMax) := by decide +kernel

theorem witness_CoherentDomain_homes_engine : (let s := domain (fun h => { h with dir := [(4, .owned 7)] })
    s.coresRun = true ∧ s.upsets = [] ∧ s.homeEntry 4 = some (.owned 7) ∧ s.homeOp 4 = none) ∧
    (domain (fun h => { h with busy := [op4 .getX [5] false] })).homeOp 4 = some (op4 .getX [5] false) ∧
    (∀ e ∈ [DirSt.owned 7, .shared [7]], (let s := domain (fun h => { h with dir := [(4, e)], down := some (1, 0), busy := [op4 .getX [5] false] })
     s.hcx.running = true ∧ s.hcx.down = some (1, 0) ∧ s.homeEntry 4 = some e ∧ (s.homeOp 4).isSome = true ∧ s.isShared (64 * 4) = true)) := by decide +kernel

/-- A sweep is at work, and no other pour, when the domain is lost. -/
theorem witness_CoherentDomain_homes_sweeps : (let s := (sweeping 1 0 1 true).setHcx (fun h => { h with running := true })
    s.coresRun = true ∧ s.hcx.running = true ∧ (s.unit 0x500).running = some (runs1 0x500 1 sweepBytes (.sweeping (atPhase 0 true))) ∧
      (runs1 0x500 1 sweepBytes (.sweeping (atPhase 0 true))).prog = .sweeping (atPhase 0 true)) ∧
    (∀ e ∈ (domain id).units, e.2.running = none) := by decide +kernel

def req4 : CoreReq := { core := 7, line := 4, kind := .getS, since := 4000 }

theorem witness_CoherentDomain_homes_lost : (let s := { domain (fun h => { h with reqs := [req4], reserved := [(4, 7, 4000)], busy := [op4 .getX [5] false] }) with ft := 30000, aon := 30000 }
    s.coresRun = true ∧ (4000 : Nat) + 20000 ≤ (s.advance 30000).ft ∧ (s.hcx.reqs.map (fun r => r.since)) = [4000] ∧ s.homeOp 4 = some (op4 .getX [5] false) ∧
      (op4 .getX [5] false).missing ≠ [] ∧ s.copyOf 5 4 = none ∧ s.ecc = [] ∧ s.upsets = [] ∧ Memory.wf s.mem = true ∧ Sparse.wf 0#64 s.regs = true ∧ s.wcb = [] ∧
      (s.ctx 0).created = true ∧ (s.ctx 0).haltPending = false ∧ (s.ctx 0).st = .running ∧ (∀ die < 8, s.reg .ERR_INJECT die 0 = 0)) ∧
    ¬(4096 + 20000 ≤ ((domain id).advance 4096).ft) ∧ (domain (fun h => { h with engineWait := [(4, .read none)] })).hcx.engineWait ≠ [] ∧
    (∃ o ∈ (domain (fun h => { h with busy := [{ op4 .read [5] false with acc := some (.read none) }] })).hcx.busy, o.acc.isSome = true) := by decide +kernel

/-! Bridges. -/

/-- The direction from D0 to D1, group 3, in states of its life. -/
def dir01 : Dir := { die := 0, slot := slotToward 0 1 }

def bridged (f : BridgeSt → BridgeSt) : State := { (holds .running).setDir dir01 f with ft := 4096, aon := 4096 }

/-- Two frames of the group in flight, positions 7 and 8, of which the receiver has accepted the second. -/
def inRetry (f : BridgeSt → BridgeSt) : State := (bridged (fun b => f { b with acked := [(3, 8)] })).setQueue (.bridgeRetry 0 dir01.slot 3)
  (fun q => { q with entries := List.replicate 2 (oneEntry (.bridgeRetry 0 dir01.slot 3)), rp := 7, rpSeen := 7, rd := 7, mark := 7, wr := 9, wrSeen := 9 })

theorem witness_BridgesReplayRepairAndRetire_frames : ∀ f ∈ [2, 3], (let s := inRetry (fun b => { b with awaiting := [((3, 7), f - 1)] })
    let b := s.dir dir01
    dirExists dir01 = true ∧ bitOf b.retired 3 = false ∧ Sparse.wf 0 b.spares = true ∧ b.serves 3 = true ∧
      b.awaiting.find? (fun a => a.1 = (3, 7)) = some ((3, 7), f - 1) ∧ (f - 1 + 1 < 3 ∨ 3 ≤ f - 1 + 1) ∧
      (s.inFlight dir01 3).length = 1 ∧ 4 ∈ s.otherGroups dir01 3 ∧ (s.queue (.bridgeRetry 0 dir01.slot 4)).held + 1 ≤ 32 ∧
      frameNo 8 = 8 ∧ (3, frameNo 8) ∈ b.acked ∧ ((s.ctx 0).active = true ∧ (s.ctx 0).misfits (dirIndex dir01) (b.lost + 1) = true) ∧
      (∀ e ∈ (s.queue (.bridgeRetry 0 dir01.slot 3)).entries, e.bad = false) ∧
      ((bridged (fun b => { b with repairing := [(3, 4000)] })).dir dir01).serves 3 = false) := by decide +kernel

/-- Frames that no group had room for; and a context that has ended for the other direction of the pair (R468). -/
theorem witness_BridgesReplayRepairAndRetire_more : (let e := oneEntry (.bridgeRetry 0 dir01.slot 3)
    let s := inRetry (fun b => { b with displaced := [e] })
    (s.dir dir01).displaced = [e] ∧ (s.dir dir01).serves 3 = true ∧
      (∃ j ∈ [0, 1], frameNo (7 + j) = 8)) ∧
    (let s := (inRetry (fun b => { b with awaiting := [((3, 7), 2)] })).setCtx 0 (fun x => { x with st := .faulted, degraded := some (dirIndex dir01 ^^^ 1, 4000) })
     (s.ctx 0).created = true ∧ (s.ctx 0).hasFailed = true ∧ (s.ctx 0).degraded = some (dirIndex dir01 ^^^ 1, 4000) ∧
      (s.ctx 0).misfits (dirIndex dir01) ((s.dir dir01).lost + 1) = true) := by decide +kernel

theorem witness_BridgesReplayRepairAndRetire_order : ((inRetry id).queue (.bridgeRetry 0 dir01.slot 3)).Ordered (queueDepth (.bridgeRetry 0 dir01.slot 3)) := by
  refine ⟨?_, ?_, ?_, ?_, ?_, ?_, ?_⟩ <;> decide +kernel

/-- Lanes with 16 errors: a data lane, a spare that nothing uses, and one that a lane uses; with spares left and without. -/
theorem witness_BridgesReplayRepairAndRetire_lanes : ∀ lane ∈ [5, 64, 67],
    (let noisy (spares : List Nat) := bridged (fun b => { b with
       errors := [(68 * 3 + lane, 4000, 16)], spares := ((List.range 4).zip spares).filterMap (fun p => if p.2 = 0 then none else some (4 * 3 + p.1, p.2)) })
     let at' (spares : List Nat) := (noisy spares).dir dir01
     let ft := ((bridged id).advance 4096).ft
     (at' [0, 0, 0, 0]).laneErrors ft (68 * 3 + lane) = 16 ∧ 16 < 16 + 1 ∧ (∀ m ∈ (at' [0, 0, 0, 0]).marked, m ≠ (3, lane)) ∧
      ((at' [0, 0, 0, 0]).idleSpare 3 lane = decide (64 ≤ lane)) ∧ (at' [6, 8, 9, 7]).idleSpare 3 lane = false ∧ (at' [6, 8, 9, 7]).freeSpare 3 = none ∧
      (at' [6, 0, 9, 7]).idleSpare 3 lane = false ∧ (at' [6, 0, 9, 7]).freeSpare 3 = some 1 ∧ Sparse.wf 0 (at' [6, 0, 9, 7]).spares = true ∧
      (noisy []).dieArmed 0 = false ∧ (noisy []).dieArmed (receiver dir01).1 = false ∧ (at' []).marked = [] ∧
      (pouring 0x100 1).dieArmed 0 = true) := by decide +kernel

theorem witness_BridgesReplayRepairAndRetire_done : (let s := bridged (fun b => { b with repairing := [(3, 4096), (3, 4000), (5, 4000)] })
    (∀ r ∈ (s.dir dir01).repairing, ¬(r.1 = 3 ∧ r.2 + 2048 ≤ (s.advance 6047).ft)) ∧
      (∃ r ∈ (s.dir dir01).repairing, r.1 = 3 ∧ r.2 + 2048 ≤ (s.advance 6048).ft) ∧
      (∀ r ∈ (s.dir dir01).repairing, r.1 = 3 → r.2 + 2048 ≤ (s.advance 6144).ft)) := by decide +kernel

/-! The board's interfaces. -/

def boarded (f : Mgmt → Mgmt) : State := { serving with mgmt := f serving.mgmt }

theorem witness_TheBoardReadsAndWrites_i3c : State.reset.boardLive = false ∧ serving.boardLive = true ∧ serving.mgmt.dynAddr = none ∧
    serving.mgmt.replies = [] ∧ 16 ≤ (boarded (fun m => { m with replies := List.replicate 16 [] })).mgmt.replies.length ∧
    (boarded (fun m => { m with replies := [[1#8], []] })).mgmt.replies = [1#8] :: [[]] ∧ (boarded id).mgmt.waiting = [] ∧
    (let bs : List Byte := leBytes 1 1 ++ leBytes 64 0;
      bs.length ≤ 513 ∧ fieldAt bs 0 1 = 1 ∧ bs.length = 65 + fieldAt bs 3 2) ∧ fieldAt [2#8] 0 1 ≠ 1 := by decide +kernel

/-- The data port with an entry for an address in its write path. -/
def entry8 (a : Nat) : QEntry := { bytes := List.replicate 8 7#8, valid := 255, last := true, addr := a, window := 1 }

def ported (a : Nat) : State := serving.setQueue .dataPort (fun q => { q with entries := [entry8 a], wr := 1, wrSeen := 1 })

theorem witness_TheBoardReadsAndWrites_port : serving.boardLive = true ∧ Sparse.wf 0#64 serving.regs = true ∧ serving.reg .MDP_Q_TXNS 0 0 + 1 < countMax ∧
    leNat (leBytes 8 (2 ^ 43)) < 2 ^ 44 ∧ 2 ^ 44 ≤ leNat (leBytes 8 (2 ^ 44)) ∧ serving.reg .MDP_Q_ADDR 0 0 < 2 ^ 44 ∧ serving.reg .MDP_Q_ADDR 0 0 % 8 = 0 ∧
    isTier1 (serving.reg .MDP_Q_ADDR 0 0) = true ∧ isTier1 (serving.reg .MDP_Q_ADDR 0 0 + 4096 - 1) = true ∧
    (serving.queue .dataPort).packer = [] ∧ (serving.queue .dataPort).entries = [] ∧ (serving.queue .dataPort).wr - (serving.queue .dataPort).rp = 0 ∧
    (serving.queue .dataPort).isEmpty = true ∧ serving.memoryQuiet ∧ serving.boot.st ≠ .hold ∧ isTier1 (serving.reg .MDP_H_ADDR 0 0) = true ∧
    serving.reg .MDP_H_ADDR 0 0 % 8 = 0 ∧
    isRegAddr ((serving.setReg .MDP_Q_ADDR 0 0 (regAddr .PKG_ID 0 0 + 4)).reg .MDP_Q_ADDR 0 0) = true ∧
    (serving.setReg .MDP_Q_ADDR 0 0 (regAddr .PKG_ID 0 0 + 4)).reg .MDP_Q_ADDR 0 0 % 8 ≠ 0 ∧
    (∀ a ∈ [0, regAddr .PKG_ID 0 0], let q := (ported a).queue .dataPort
      q.isEmpty = false ∧ q.entries = [entry8 a] ∧ q.rp < q.wr ∧ (entry8 a).bad = false ∧ (entry8 a).valid = 255 ∧ (entry8 a).bytes.length = 8 ∧ q.rd ≤ q.wr ∧
        (ported a).mdpReach a 8 = stOk) ∧ isTier1 (0 + 7) = true ∧ (regAt (regAddr .PKG_ID 0 0)).isSome = true ∧
    isAssigned 0x20000000000 = false := by
  unfold State.memoryQuiet State.errorFree
  decide +kernel

/-- An entry of the second window goes before one that the QSPI stored at the same FT, and after one of an earlier FT. A stack asleep makes a
read of its bytes late. -/
theorem witness_TheBoardReadsAndWrites_same : (∀ q ∈ [(1000, 0), (999, 1)], (let s : State := { ported 0 with mgmt := { serving.mgmt with qStored := (q.1, 1) } }
      (s.queue .dataPort).entries.length = (s.queue .dataPort).wr - (s.queue .dataPort).rp ∧ (s.queue .dataPort).wr - (s.queue .dataPort).rp < 1024 ∧
      (s.queue .dataPort).entries.length - (if s.mgmt.qStored.1 = (s.advance 1000).ft then s.mgmt.qStored.2 else 0) = q.2)) ∧
    (let s : State := { serving with asleep := [(serving.channelAt 0).1 / 32] }
     s.memoryQuiet ∧ ¬∀ ln ∈ linesOf (s.reg .MDP_Q_ADDR 0 0) 8, isTier1 (64 * ln) = true → (s.channelAt (64 * ln)).1 / 32 ∉ s.asleep) ∧
    ∀ ln ∈ linesOf (serving.reg .MDP_Q_ADDR 0 0) 8, isTier1 (64 * ln) = true → (serving.channelAt (64 * ln)).1 / 32 ∉ serving.asleep := by
  unfold State.memoryQuiet State.errorFree
  decide +kernel

/-! Every step. -/

theorem witness_EveryStepKeepsTheStoresCanonical : State.reset.canonical ∧ ∃ s', step { State.reset with pending := [.getmwl 5] } = .next s' := by
  unfold State.canonical
  exact ⟨by decide +kernel, _, rfl⟩

theorem witness_NoStepTurnsTimeOrFusesBack : ∃ s', step { State.reset with pending := [.getmwl 5] } = .next s' := ⟨_, rfl⟩

theorem witness_EmptyQueueStepLetsTimePass : State.reset.pending = [] := rfl

/-! The spec's worked examples (the numbers are the spec's). -/

/-- Chapter 01: unit ids from global indices. -/
theorem test_unit_ids : unitId (200 / 48) clsME (200 % 48) = 0x8108 ∧ unitId (300 / 64) clsUU (300 % 64) = 0x852C ∧ unitId (13 / 2) clsLADD (13 % 2) = 0xC801 := by
  decide

/-- Chapter 03: one block of E2M1. -/
theorem test_block_of_e2m1 : (let vs := [valOf .fp32 0x41200000, valOf .fp32 0x3E99999A, valOf .fp32 0xC0E00000]
    (blockScale .e2m1 vs, (blockElems .e2m1 0x80 vs [.rne, .rne, .rne]).map (fun r => r.bits)) = (0x80, [0x6, 0x0, 0xE])) := by decide +kernel

/-- Chapter 03: a GQ8 scale and two packed elements. -/
theorem test_gq8_scale_and_elements : gq8NextScale 0x7A 24 1 = 0x79 ∧
    gq8Pack .rne true 0x79 0x3E99999A 0 0 = ⟨0x13, 0x3B4D, false, false⟩ ∧ gq8Pack .rne true 0x79 0x40200000 0 0 = ⟨0x7F, 0x3F04, true, false⟩ := by
  decide +kernel

/-- Chapter 03: encodings of three values. -/
theorem test_encodings : [Fmt.fp16, .bf16, .e5m2, .e4m3, .e2m1, .int8].map (fun f => [0x3E99999A, 0x447A0000].map (fun v =>
      (roundTo f .rne (valOf .fp32 v)).bits)) = [[0x34CD, 0x63D0], [0x3E9A, 0x447A], [0x35, 0x64], [0x2A, 0x7E], [0x1, 0x7], [0, 0x7F]] ∧
    [Fmt.fp16, .bf16, .e5m2, .e4m3, .int8].map (fun f => (roundTo f .rne (valOf .fp32 0x7FC00001)).bits) = [0x7E00, 0x7FC0, 0x7E, 0x7F, 0] := by
  decide +kernel

/-- Chapter 03: one stochastic rounding. -/
theorem test_stochastic_rounding : srHash 0x0000000200001000 7 100 5 = 0x40F388B8 ∧
    [0x3F805555, 0x3F80C000, 0xBF80C000].map (fun v => (roundTo .bf16 (.sr 0x40F388B8) (valOf .fp32 v)).bits) = [0x3F80, 0x3F81, 0xBF81] := by
  decide +kernel

/-- Chapter 05: a chunk carried in two terms: one chunk sum added to an accumulator. -/
def addChunkSum (a : Acc) (x : Int) : Acc :=
  accAdd .fp32 a ⟨rneVal .fp32 (vInt x), rneVal .fp32 (vSub (vInt x) (rneVal .fp32 (vInt x)))⟩

theorem test_two_term_accumulation : (let a := addChunkSum (addChunkSum (addChunkSum Acc.zero 16777217) 1) (-16777216);
    ((roundTo .fp32 .rne a.v).bits, (roundTo .fp32 .rne a.e).bits, (roundTo .bf16 .rne (vAdd a.v a.e)).bits) = (0x40000000, 0, 0x4000)) := by
  decide +kernel

/-- Chapter 06: word 2 of the kernel that scales a tile. -/
theorem test_instruction_word : parseIns 0x04010043002000003E00000000001000 = { op := 0x04, mode := 0, rnd := 0, wt := 1, mask := 0, dst := 0, s0 := 0x21, s1 := 0x20, s2 := 1, mfmt := 0, rsv := 0, imm := 0x3E000000, cnt := 4096 } := by
  decide

/-- Chapter 07: selecting 4 of 16 blocks; norms in units of 2 to the power -6; the window, block 5, first. -/
theorem test_block_selection : keyOf 300 0x79 = 0x82960 ∧ keyOf 150 0x7A = 0x82960 ∧
    selectBlocks ([40, 0, 300, 80, 300, 608, 128, 32, 464, 0, 320, 48, 64, 16, 160, 8].map (fun n => keyOf n 0x79)) 181 4 = [5, 8, 10, 2] := by
  decide +kernel

/-- Chapter 09: one AdamW element. -/
def adamw : Hyper := hyperOf (fun k => match k with
  | 1 => 2 | 2 => 0x3A800000 | 3 => 0x3F600000 | 4 => 0x3F7E0000 | 5 => 0x35800000 | 6 => 0 | 7 => 0x3E800000 | 9 => 2 | _ => 0) 1

theorem test_adamw_element : (let mv := momentElem adamw (valOf .fp32 0x3F000000) vZero vZero (gradOf adamw 19 121)
    let w := weightElem adamw (valOf .fp32 0x3F000000) mv.1 mv.2;
    ((roundTo .fp32 .rne mv.1).bits, (roundTo .fp32 .rne mv.2).bits, (roundTo .fp32 .rne w).bits, (roundTo .bf16 .rne w).bits) =
      (0x3C180000, 0x38348000, 0x3EFF8000, 0x3F00)) := by decide +kernel

/-- Chapter 10: one address under three interleaves. -/
theorem test_interleaves : (serving.setReg .STK_ILV 5 0 5).channelAt 0x0A480001000 = (321, 0x24000000) ∧
    (serving.setReg .STK_ILV 5 0 0).channelAt 0x0A480001000 = (329, 0x1000) ∧
    (serving.setReg .STK_FINE 0 0 1).channelAt 0x0A480001000 = (257, 0x49000000) := by decide +kernel

/-! Well-formedness: for each check a term that it refuses, and one that it takes. -/

theorem smoke_ill_formed_terms_are_refused : ∀ i ∈ [Instr.getmwl (2 ^ 64), .beaconTimeout (2 ^ 64), .budgetReport 0 8, .budgetTakeEffect 0 256,
    .haltComplete 0 16, .cmdpRingTailWrite 0 17 0, .linkFrameTx 0 16, .stackWake 0 16, .sensorSample 0 0 24 0, .sensorSample 0 0 0 65536, .vAdd 0 384,
    .getS 0 192 0, .pourLaunch 0 65536, .pourDispatch 0 0 0 65536, .tagQuarantineEnd 0 4096, .wcbFlush 0 (2 ^ 34), .biasFlipDone 0 (2 ^ 14),
    .channelLineRead 0 (2 ^ 44) none, .portWinCtrlWrite 0 64 0, .putM 0 0 0 [], .bridgeReplay 0 ⟨0, 0⟩ 0, .bridgeReplay 0 ⟨8, 0⟩ 0,
    .bridgeReplay 0 ⟨1, 2⟩ 64, .laneMarkRepair 0 ⟨⟨1, 2⟩, 3, 68⟩ 1, .bridges 0 [⟨⟨1, 3⟩, 3, 5⟩], .bridgeFrameRx 0 ⟨1, 2⟩ 3 65536 true,
    .queueMark 0 (.tileData 384), .queueMark 0 (.portReplay 16), .queueMark 0 (.faultQueue 8), .halt 0 ⟨18, 1, 0, false⟩,
    .halt 0 ⟨0, 2 ^ 32, 0, false⟩, .halt 0 ⟨0, 1, 16, false⟩, .pktRead 0 0 [], .ctxPartition 0 ⟨16, 1, 0, false⟩ [1#8],
    .ctxPartition 0 ⟨16, 1, 0, false⟩ (List.replicate 456 0#8), .entdaa 0 128, .stage 0 ⟨0, 1, 0, false⟩ [⟨65536, 0, 0⟩],
    .seqAdmit 0 ⟨0, 1, 0, false⟩ [⟨2 ^ 32, 0, 0, 0⟩], .seqRetire 0 ⟨0, 1, 0, false⟩ [2 ^ 32], .d0SelfTest 0 (.sram 65536), .stacks 0 (some (2 ^ 64)),
    .engineSnoopAccess 0 0 (some (List.replicate 65 0#8)), .enec 0 256, .atomicLineApply 0 0 16 0 [], .retrainDone 0 0 65536,
    .armAt 0 ⟨0, 1, 0, false⟩ 0 (2 ^ 32) true], i.wf = false := by decide +kernel

theorem smoke_well_formed_terms_are_taken : ∀ i ∈ [Instr.getmwl (2 ^ 64 - 1), .budgetReport 0 7, .haltComplete 0 15, .cmdpRingTailWrite 0 16 0,
    .linkFrameTx 0 15, .stackWake 0 15, .vAdd 0 383, .getS 0 191 (2 ^ 34 - 1), .channelLineRead 0 (2 ^ 44 - 1) none, .bridgeReplay 0 ⟨1, 2⟩ 63,
    .laneMarkRepair 0 ⟨⟨0, 1⟩, 3, 67⟩ 1, .halt 0 ⟨17, 1, 15, true⟩, .entdaa 0 127, .putM 0 0 0 (List.replicate 64 0#8)], i.wf = true := by decide +kernel

end Sys2Proof.Tests
end

namespace Sys2Proof.Machine

/-! ## The register map (R7, R8, R35)

What holds of each row of the register table, and from it that an address names one register, one window and one slot. -/

theorem mem_allRegs (r : Reg) : r ∈ allRegs := by
  have listed : ∀ n < 299, bitOf (bitsAt (allRegs.map Reg.ctorIdx)) n = true := by decide +kernel
  have small : r.ctorIdx < 299 := by cases r <;> decide
  have bit := (bitOf_bitsAt (allRegs.map Reg.ctorIdx) r.ctorIdx).symm.trans (listed _ small)
  obtain ⟨r', hr', e⟩ := List.mem_map.mp (List.contains_iff_mem.mp bit)
  have same : r' = r := by rw [← Reg.ofNat_ctorIdx r', e, Reg.ofNat_ctorIdx]
  exact same ▸ hr'

/-- What holds along the table holds of every register. -/
theorem forall_reg {p : Reg → Prop} (h : ∀ r ∈ allRegs, p r) (r : Reg) : p r := h r (mem_allRegs r)

/-- The 64 KiB block of a window in which a row's registers lie (R35). -/
def RegInfo.block (i : RegInfo) : Nat := i.off / 0x10000

/-- The offset of the last slot of a row. -/
def RegInfo.last (i : RegInfo) : Nat := i.off + (i.slots - 1) * i.stride

/-- A row is sound: its slots lie 8-byte aligned and apart, within its block and within one window. -/
def RegInfo.sound (i : RegInfo) : Prop :=
  (i.slots = 1 ∨ 0 < i.stride) ∧ i.off % 8 = 0 ∧ i.stride % 8 = 0 ∧ i.last / 0x10000 = i.block ∧ i.block < 18

/-- Two rows share no offset: one ends before the other begins, or their slots interleave at one stride. -/
def RegInfo.apart (i j : RegInfo) : Prop :=
  i.last < j.off ∨ j.last < i.off ∨ (i.stride = j.stride ∧ i.off % i.stride ≠ j.off % i.stride)

theorem regInfo_sound : ∀ r, (regInfo r).sound := forall_reg (by unfold RegInfo.sound; decide +kernel)

/-- Within each block no two rows that one window shows share an offset. -/
theorem block_rows_apart : ∀ b < 18, (allRegs.filter (fun r => (regInfo r).block = b)).Pairwise
    (fun r r' => ((regInfo r).scope = .blk ↔ (regInfo r').scope = .blk) → (regInfo r).apart (regInfo r')) := by
  unfold RegInfo.apart
  decide +kernel

theorem RegInfo.apart_comm {i j : RegInfo} (h : i.apart j) : j.apart i := by
  rcases h with h | h | ⟨h, h'⟩
  · exact .inr (.inl h)
  · exact .inl h
  · exact .inr (.inr ⟨h.symm, fun e => h' (h ▸ e.symm)⟩)

theorem RegInfo.offset_le_last {i : RegInfo} {k : Nat} (hk : k < i.slots) : i.off + k * i.stride ≤ i.last :=
  Nat.add_le_add_left (Nat.mul_le_mul_right _ (by omega)) _

theorem RegInfo.offset_ne_of_apart {i j : RegInfo} (h : i.apart j) {k l : Nat} (hk : k < i.slots) (hl : l < j.slots) :
    i.off + k * i.stride ≠ j.off + l * j.stride := by
  have hi := RegInfo.offset_le_last hk
  have hj := RegInfo.offset_le_last hl
  rcases h with h | h | ⟨h, h'⟩
  · omega
  · omega
  · intro e
    apply h'
    rw [← Nat.add_mul_mod_self_right i.off k i.stride, e, h, Nat.add_mul_mod_self_right]

/-- Every slot of a sound row lies in the row's block. -/
theorem offset_div {r : Reg} {k : Nat} (hk : k < (regInfo r).slots) :
    ((regInfo r).off + k * (regInfo r).stride) / 0x10000 = (regInfo r).block := by
  obtain ⟨-, -, -, hl, -⟩ := regInfo_sound r
  have h := RegInfo.offset_le_last hk
  unfold RegInfo.block at *
  omega

/-- No two registers that one window shows share an offset. -/
theorem offset_ne {r r' : Reg} (hne : r ≠ r') (hs : (regInfo r).scope = .blk ↔ (regInfo r').scope = .blk) {k l : Nat}
    (hk : k < (regInfo r).slots) (hl : l < (regInfo r').slots) :
    (regInfo r).off + k * (regInfo r).stride ≠ (regInfo r').off + l * (regInfo r').stride := by
  intro e
  have hb : (regInfo r).block = (regInfo r').block := by rw [← offset_div hk, e, offset_div hl]
  obtain ⟨-, -, -, -, small⟩ := regInfo_sound r
  have listed (x : Reg) (h : (regInfo x).block = (regInfo r).block) :
      x ∈ allRegs.filter (fun r' => (regInfo r').block = (regInfo r).block) := by simp [mem_allRegs, h]
  have symm : Std.Symm (fun r r' : Reg => ((regInfo r).scope = .blk ↔ (regInfo r').scope = .blk) → (regInfo r).apart (regInfo r')) :=
    ⟨fun _ _ h hs => RegInfo.apart_comm (h hs.symm)⟩
  exact RegInfo.offset_ne_of_apart ((block_rows_apart _ small).forall (listed r rfl) (listed r' hb.symm) hne hs) hk hl e

/-- A slot of a register is named by its offset and by no other. -/
theorem slotAt_eq_some_iff {r : Reg} {off k : Nat} :
    slotAt r off = some k ↔ k < (regInfo r).slots ∧ off = (regInfo r).off + k * (regInfo r).stride := by
  obtain ⟨hstride, -⟩ := regInfo_sound r
  unfold slotAt
  generalize regInfo r = i at *
  dsimp only
  by_cases below : off < i.off
  · rw [if_pos below]
    exact ⟨nofun, fun h => by omega⟩
  · rw [if_neg below]
    by_cases one : i.slots = 1
    · rw [if_pos one, one]
      constructor
      · intro h
        split at h
        next e => cases h; exact ⟨Nat.one_pos, by omega⟩
        next => cases h
      · rintro ⟨hk, e⟩
        obtain rfl : k = 0 := by omega
        rw [if_pos (by simpa using e)]
    · rw [if_neg one]
      have hpos : 0 < i.stride := hstride.resolve_left one
      constructor
      · intro h
        split at h
        next e =>
          cases h
          simpa using e
        next => cases h
      · rintro ⟨hk, rfl⟩
        rw [Nat.add_sub_cancel_left, Nat.mul_div_cancel _ hpos, if_pos (by simp [hk])]

theorem findSome?_eq_of_unique {α β : Type} {f : α → Option β} {a : α} {b : β} {l : List α} (ha : a ∈ l) (hf : f a = some b)
    (hne : ∀ x, x ≠ a → f x = none) : l.findSome? f = some b := by
  induction l with
  | nil => cases ha
  | cons x l ih =>
    by_cases hx : x = a
    · simp [hx, hf]
    · simpa [hne x hx] using ih ((List.mem_cons.mp ha).resolve_left (Ne.symm hx))

/-- No other register that the window shows has a slot at an offset of `r`. -/
theorem slotAt_other {r x : Reg} (hne : x ≠ r) (hs : (regInfo x).scope = .blk ↔ (regInfo r).scope = .blk) {k : Nat}
    (hk : k < (regInfo r).slots) : slotAt x ((regInfo r).off + k * (regInfo r).stride) = none := by
  rw [Option.eq_none_iff_forall_ne_some]
  intro l h
  obtain ⟨hl, e⟩ := slotAt_eq_some_iff.mp h
  exact offset_ne hne hs hl hk e.symm

theorem slotAt_own {r : Reg} {k : Nat} (hk : k < (regInfo r).slots) :
    slotAt r ((regInfo r).off + k * (regInfo r).stride) = some k := slotAt_eq_some_iff.mpr ⟨hk, rfl⟩

theorem offset_lt {r : Reg} {k : Nat} (hk : k < (regInfo r).slots) : (regInfo r).off + k * (regInfo r).stride < 0x1000000 := by
  obtain ⟨-, -, -, -, hb⟩ := regInfo_sound r
  have h := offset_div hk
  omega

theorem regAddr_mod {r : Reg} (die slot : Nat) : regAddr r die slot % 8 = 0 := by
  obtain ⟨-, hoff, hstride, -, -⟩ := regInfo_sound r
  have hmul : slot * (regInfo r).stride % 8 = 0 := Nat.mod_eq_zero_of_dvd (Dvd.dvd.mul_left (Nat.dvd_of_mod_eq_zero hstride) _)
  unfold regAddr blkBase regBase
  dsimp only
  split <;> omega

theorem regWindows_le (r : Reg) : regWindows r ≤ 8 := by
  unfold regWindows
  split <;> omega

/-- A register of the package-wide block has its address there. -/
theorem regAddr_of_blk {r : Reg} (hs : (regInfo r).scope = .blk) (die slot : Nat) :
    regAddr r die slot = blkBase + ((regInfo r).off + slot * (regInfo r).stride) := by
  simp [regAddr, hs, Nat.add_assoc]

/-- A register of the windows has its address in the window of each die that shows it. -/
theorem regAddr_of_window {r : Reg} (hs : (regInfo r).scope ≠ .blk) (die slot : Nat) :
    regAddr r die slot = regBase + 0x1000000 * die + ((regInfo r).off + slot * (regInfo r).stride) := by
  simp [regAddr, hs, Nat.add_assoc]

theorem inBlk_iff {a : Nat} : inBlk a = true ↔ blkBase ≤ a ∧ a < blkBase + 0x1000000 := by simp [inBlk]

theorem inWindow_iff {a : Nat} : inWindow a = true ↔ regBase ≤ a ∧ a < regBase + 0x8000000 := by simp [inWindow]

theorem blkBase_eq : blkBase = regBase + 0x8000000 := rfl

theorem isRegAddr_regAddr {r : Reg} {die slot : Nat} (hd : die < regWindows r) (hk : slot < (regInfo r).slots) :
    isRegAddr (regAddr r die slot) = true := by
  have hlt := offset_lt hk
  have hle := regWindows_le r
  by_cases hs : (regInfo r).scope = .blk
  · rw [regAddr_of_blk hs, isRegAddr, Bool.or_eq_true, inBlk_iff]
    omega
  · rw [regAddr_of_window hs, isRegAddr, Bool.or_eq_true, inWindow_iff]
    omega

theorem regAt_regAddr {r : Reg} {die slot : Nat} (hd : die < regWindows r) (hk : slot < (regInfo r).slots) :
    regAt (regAddr r die slot) = some ⟨r, die, slot⟩ := by
  have hlt := offset_lt hk
  have hle := regWindows_le r
  unfold regAt
  by_cases hs : (regInfo r).scope = .blk
  · obtain rfl : die = 0 := by simp [regWindows, hs] at hd; omega
    have hin : inBlk (regAddr r 0 slot) = true := by rw [regAddr_of_blk hs, inBlk_iff]; omega
    rw [if_pos hin, regAddr_of_blk hs, Nat.add_sub_cancel_left]
    refine findSome?_eq_of_unique (mem_allRegs r) (by simp [hs, slotAt_own hk]) (fun x hx => ?_)
    by_cases hx' : (regInfo x).scope = .blk
    · simp [hx', slotAt_other hx (by simp [hx', hs]) hk]
    · simp [hx']
  · have hout : ¬inBlk (regAddr r die slot) = true := by rw [regAddr_of_window hs, inBlk_iff, blkBase_eq]; omega
    have hin : inWindow (regAddr r die slot) = true := by rw [regAddr_of_window hs, inWindow_iff]; omega
    have hd0 : (regInfo r).scope = .d0 → die = 0 := fun h => by simp [regWindows, h] at hd; omega
    rw [if_neg hout, if_pos hin, regAddr_of_window hs]
    have hdie : (regBase + 0x1000000 * die + ((regInfo r).off + slot * (regInfo r).stride) - regBase) / 0x1000000 = die := by omega
    have hoff : (regBase + 0x1000000 * die + ((regInfo r).off + slot * (regInfo r).stride) - regBase) % 0x1000000 =
        (regInfo r).off + slot * (regInfo r).stride := by omega
    simp only [hdie, hoff]
    refine findSome?_eq_of_unique (mem_allRegs r) ?_ (fun x hx => ?_)
    · rw [if_neg (by simpa [hs] using hd0), slotAt_own hk, Option.map_some]
    · by_cases hx' : (regInfo x).scope = .blk
      · simp [hx']
      · simp [slotAt_other hx (by simp [hx', hs]) hk]

/-- Settles O5: the rows of a block lie apart, so an offset names one register and one slot. -/
theorem registerMapIsUnambiguous : Obligations.RegisterMapIsUnambiguous :=
  fun _ _ _ hd hk => ⟨regAddr_mod _ _, isRegAddr_regAddr hd hk, regAt_regAddr hd hk⟩

end Sys2Proof.Machine

namespace Sys2Proof.Machine

/-! ## The register store

A register's home holds its value; writing it changes no other home. -/

/-- The die whose window holds a register's home: the register's own die, or D0. -/
def holderDie (r : Reg) (die : Nat) : Nat := if (regInfo r).scope = .die then die else 0

theorem holderDie_lt {r : Reg} {die : Nat} (hd : die < regWindows r) : holderDie r die < regWindows r := by
  unfold holderDie
  split <;> omega

theorem regAt_regHome {r : Reg} {die slot : Nat} (hd : die < regWindows r) (hk : slot < (regInfo r).slots) :
    regAt (regHome r die slot) = some ⟨r, holderDie r die, slot⟩ := regAt_regAddr (holderDie_lt hd) hk

/-- Homes name registers: equal homes are one register's, of one die and one slot. -/
theorem regHome_inj {r r' : Reg} {die die' slot slot' : Nat} (hd : die < regWindows r) (hk : slot < (regInfo r).slots)
    (hd' : die' < regWindows r') (hk' : slot' < (regInfo r').slots) (h : regHome r die slot = regHome r' die' slot') :
    (⟨r, holderDie r die, slot⟩ : RegRef) = ⟨r', holderDie r' die', slot'⟩ :=
  Option.some.inj ((regAt_regHome hd hk).symm.trans (h ▸ regAt_regHome hd' hk'))

theorem regHome_ne {r r' : Reg} {die die' slot slot' : Nat} (hd : die < regWindows r) (hk : slot < (regInfo r).slots)
    (hd' : die' < regWindows r') (hk' : slot' < (regInfo r').slots) (h : r ≠ r') : regHome r die slot ≠ regHome r' die' slot' :=
  fun e => h (RegRef.mk.inj (regHome_inj hd hk hd' hk' e)).1

theorem State.setReg_regs_wf {s : State} (h : Sparse.wf 0#64 s.regs = true) (r : Reg) (die slot v : Nat) :
    Sparse.wf 0#64 (s.setReg r die slot v).regs = true := Sparse.wf_put _ _ h

theorem State.reg_setReg {s : State} (h : Sparse.wf 0#64 s.regs = true) (r : Reg) (die slot v : Nat) (r' : Reg) (die' slot' : Nat) :
    (s.setReg r die slot v).reg r' die' slot' =
      if regHome r' die' slot' = regHome r die slot then v % 2 ^ 64 else s.reg r' die' slot' := by
  unfold State.reg
  rw [State.setReg_regs, Sparse.at?_put _ _ _ h]
  split <;> simp

theorem State.reg_setReg_same {s : State} (h : Sparse.wf 0#64 s.regs = true) (r : Reg) (die slot v : Nat) :
    (s.setReg r die slot v).reg r die slot = v % 2 ^ 64 := by rw [State.reg_setReg h, if_pos rfl]

theorem State.reg_setReg_ne {s : State} (h : Sparse.wf 0#64 s.regs = true) {r r' : Reg} {die slot die' slot' : Nat} (v : Nat)
    (hne : regHome r' die' slot' ≠ regHome r die slot) : (s.setReg r die slot v).reg r' die' slot' = s.reg r' die' slot' := by
  rw [State.reg_setReg h, if_neg hne]

theorem State.at?_setReg_ne {s : State} (h : Sparse.wf 0#64 s.regs = true) (r : Reg) (die slot v a : Nat) (hne : a ≠ regHome r die slot) :
    Sparse.at? 0#64 (s.setReg r die slot v).regs a = Sparse.at? 0#64 s.regs a := by
  rw [State.setReg_regs, Sparse.at?_put _ _ _ h, if_neg hne]

/-! ## Registers that read as they are stored -/

/-- The registers of a block whose reading is computed from other parts of the state. -/
def computedIn : Nat → List Reg
  | 0x00 => [.DIE_ID, .DIE_HOPS, .PKG_ABI, .PKG_STEPPING, .PKG_DIES_RELEASED]
  | 0x01 => [.FT_NOW, .FT_STATUS, .FT_OFFSET, .FT_PATH_DELAY, .FT_SYNC_EDGE, .FT_HOLDOVER_NS]
  | 0x02 => [.PLAN_CAPACITY, .PLAN_FREE, .PLAN_FREE_MAX, .PLAN_CTX_STATE, .PLAN_HEAT_LEN, .PLAN_ARM_FT, .PLAN_HEAT_NUM, .PLAN_STEP_COUNT,
      .PLAN_ENTRIES, .PLAN_COMMIT_FT, .PLAN_STAGED, .PLAN_HOLD_DEFAULT, .PLAN_OVER]
  | 0x03 => [.CMDP_SERVES, .CMDP_CTX_STATUS, .CMDP_RING_BASE, .CMDP_CPL_BASE, .CMDP_RING_SIZE, .CMDP_RING_TAIL, .CMDP_RING_HEAD,
      .CMDP_CPL_HEAD, .CMDP_CPL_TAIL, .CMDP_OUTSTANDING, .CMDP_SEQ_RUNNING, .CMDP_SEQ_FREE, .CMDP_PREEMPT_AT]
  | 0x04 => [.PTU_TC_CAPACITY, .PTU_TC_PINNED, .PTU_CTX_ALLOT, .PTU_CTX_PINNED, .PTU_CTX_RETIRING]
  | 0x05 => [.WS_BANK_OWNED, .WS_BANK_OWNER, .WS_DIRTY_INFO, .WS_TM_STATUS, .WS_TM_CUR_TILE]
  | 0x06 => [.STK_CH_OWNED, .STK_CH_OWNER0, .STK_CH_OWNER1, .STK_CH_OWNER2, .STK_CH_OWNER3]
  | 0x07 => [.UU_PRESENT, .UU_ENABLED, .UU_STATUS, .UU_CUR_SHARD]
  | 0x08 => [.BRG_STATUS, .BRG_RETIRED_TX, .BRG_RETIRED_RX, .BRG_GROUP_INFO, .BRG_RQ_STATUS]
  | 0x09 => [.PORT_ROUTE_DATA, .PORT_BIAS_DATA, .PORT_STATUS, .PORT_LINK_DELAY, .PORT_RETRAIN_FT, .PORT_TAGS_FREE, .PORT_RQ_STATUS]
  | 0x0A => [.LADD_TAG_INFO, .LADD_TAG_QEND, .LADD_TAGS_FREE, .LADD_STATUS, .LADD_REF_FLAGS]
  | 0x0B => [.HCX_CORE_PRESENT, .HCX_CORE_RUN, .HCX_DOMAIN, .HCX_DOWN_FT, .HCX_WAY_OWNED, .HCX_WAY_OWNER, .HCX_DIR_ENTRIES]
  | 0x0C => [.ENG_PRESENT, .ENG_ENABLED, .ENG_VE_ENABLED, .ME_STATUS, .ME_ACC_LIVE, .ME_CUR_OFFSET, .VE_STATUS, .VE_PC, .VE_CUR_OFFSET,
      .VE_TQ_NEXT_SEQ, .VE_TQD_STATUS, .VE_TQH_STATUS]
  | 0x0D => [.PWR_STATUS, .PWR_LTV, .PWR_BUDGET, .PWR_POWER, .PWR_TEMP_DATA, .PWR_COEF_DATA, .PWR_PKG_INPUT]
  | 0x0E => [.ERR_FQ_STATUS, .ERR_FQ_FIRST_LOST, .ERR_FQ_LAST_LOST, .ERR_FQ_REC0, .ERR_FQ_REC1, .ERR_FQ_REC2, .ERR_FQ_REC3]
  | 0x0F => [.SEC_BOOT_STAGE, .SEC_BOOT_RESULT, .SEC_BOOT_TIME, .SEC_SVN_MIN, .SEC_IMAGE_STATUS, .SEC_ATTEST_CTRL, .SEC_ATTEST_STATUS,
      .SEC_DEBUG_STATUS, .SEC_DEBUG_CHAL, .SEC_UID, .SEC_MEAS]
  | 0x10 => [.MDP_STATUS, .MDP_WQ_STATUS, .MDP_I3C_ADDR]
  | 0x11 => [.DFT_IDCODE, .DFT_LB_BITS, .DFT_LB_ERRORS]
  | _ => []

/-- A register of a bridge endpoint that the die does not have. -/
def absentBridge (r : Reg) (die slot : Nat) : Bool := (regInfo r).block = 8 && !dirExists ⟨die, slot⟩

section
variable {r : Reg}

theorem dieView_stored (h : r ∉ computedIn 0x00) (s : State) (die : Nat) : s.dieView r die = s.reg r die 0 := by
  unfold State.dieView
  split
  case h_6 => rfl
  all_goals simp [computedIn] at h

theorem ftView_stored (h : r ∉ computedIn 0x01) (s : State) (die : Nat) : s.ftView r die = s.reg r die 0 := by
  unfold State.ftView
  split
  case h_7 => rfl
  all_goals simp [computedIn] at h

theorem planView_stored (h : r ∉ computedIn 0x02) (s : State) (die c : Nat) : s.planView r die c = s.reg r die c := by
  unfold State.planView
  split
  case h_14 => rfl
  all_goals simp [computedIn] at h

theorem engView_stored (h : r ∉ computedIn 0x0C) (s : State) (die k : Nat) : s.engView r die k = s.reg r die k := by
  unfold State.engView
  split
  case h_13 => rfl
  all_goals simp [computedIn] at h

theorem laddView_stored (h : r ∉ computedIn 0x0A) (s : State) (die k : Nat) : s.laddView r die k = s.reg r die k := by
  unfold State.laddView
  split
  case h_6 => rfl
  all_goals simp [computedIn] at h

theorem uuView_stored (h : r ∉ computedIn 0x07) (s : State) (die k : Nat) : s.uuView r die k = s.reg r die k := by
  unfold State.uuView
  split
  case h_5 => rfl
  all_goals simp [computedIn] at h

theorem wsView_stored (h : r ∉ computedIn 0x05) (s : State) (die k : Nat) : s.wsView r die k = s.reg r die k := by
  unfold State.wsView
  split
  case h_6 => rfl
  all_goals simp [computedIn] at h

theorem stkView_stored (h : r ∉ computedIn 0x06) (s : State) (die k : Nat) : s.stkView r die k = s.reg r die k := by
  unfold State.stkView
  split
  case h_6 => rfl
  all_goals simp [computedIn] at h

theorem portView_stored (h : r ∉ computedIn 0x09) (s : State) (die k : Nat) : s.portView r die k = s.reg r die k := by
  unfold State.portView
  split
  case h_8 => rfl
  all_goals simp [computedIn] at h

theorem hcxView_stored (h : r ∉ computedIn 0x0B) (s : State) (die k : Nat) : s.hcxView r die k = s.reg r die k := by
  unfold State.hcxView
  split
  case h_8 => rfl
  all_goals simp [computedIn] at h

theorem ptuView_stored (h : r ∉ computedIn 0x04) (s : State) (die c : Nat) : s.ptuView r die c = s.reg r die c := by
  unfold State.ptuView
  split
  case h_6 => rfl
  all_goals simp [computedIn] at h

theorem cmdpView_stored (h : r ∉ computedIn 0x03) (s : State) (die k : Nat) : s.cmdpView r die k = s.reg r die k := by
  unfold State.cmdpView
  split
  case h_14 => rfl
  all_goals simp [computedIn] at h

theorem pwrView_stored (h : r ∉ computedIn 0x0D) (s : State) (die k : Nat) : s.pwrView r die k = s.reg r die k := by
  unfold State.pwrView
  split
  case h_8 => rfl
  all_goals simp [computedIn] at h

theorem secView_stored (h : r ∉ computedIn 0x0F) (s : State) (k : Nat) : s.secView r k = s.reg r 0 k := by
  unfold State.secView
  split
  case h_12 => rfl
  all_goals simp [computedIn] at h

theorem errView_stored (h : r ∉ computedIn 0x0E) (s : State) (die : Nat) : s.errView r die = s.reg r die 0 := by
  unfold State.errView
  extract_lets q word
  split
  case h_8 => rfl
  all_goals simp [computedIn] at h

theorem dftView_stored (h : r ∉ computedIn 0x11) (s : State) (die : Nat) : s.dftView r die = s.reg r die 0 := by
  unfold State.dftView
  split
  case h_4 => rfl
  all_goals simp [computedIn] at h

theorem mdpView_stored (h : r ∉ computedIn 0x10) (s : State) : s.mdpView r  = s.reg r 0 0 := by
  unfold State.mdpView
  split
  case h_4 => rfl
  all_goals simp [computedIn] at h

theorem brgView_stored (h : r ∉ computedIn 0x08) (s : State) (die slot : Nat) :
    s.brgView r die slot = if dirExists ⟨die, slot⟩ then s.reg r die slot else 0 := by
  cases hd : dirExists ⟨die, slot⟩
  · simp [State.brgView, hd]
  · simp only [State.brgView, hd, Bool.not_true, Bool.false_eq_true, if_false, if_true]
    split
    case h_6 => rfl
    all_goals simp [computedIn] at h

end

/-- The registers of these blocks have one slot. -/
theorem one_slot : ∀ r : Reg, (regInfo r).block ∈ [0, 1, 0xE, 0x10, 0x11] → (regInfo r).slots = 1 :=
  forall_reg (by decide +kernel)

/-- SEC and MDP exist on D0 alone. -/
theorem regWindows_of_d0 : ∀ r : Reg, (regInfo r).block ∈ [0xF, 0x10] → regWindows r = 1 :=
  forall_reg (by decide +kernel)

/-- The package-wide block's registers lie in block 0. -/
theorem block_of_blk : ∀ r : Reg, (regInfo r).scope = .blk → (regInfo r).block = 0 :=
  forall_reg (by decide +kernel)

/-- A register whose reading is not computed reads as stored, and 0 where its bridge does not exist. -/
theorem view_stored {r : Reg} (h : r ∉ computedIn (regInfo r).block) (hw : (regInfo r).access ≠ .wo) {die slot : Nat}
    (hd : die < regWindows r) (hk : slot < (regInfo r).slots) (s : State) :
    s.view ⟨r, die, slot⟩ = if absentBridge r die slot then 0 else s.reg r die slot := by
  have slot0 (hb : (regInfo r).block ∈ [0, 1, 0xE, 0x10, 0x11]) : slot = 0 := by
    have := one_slot _ hb
    omega
  have die0 (hb : (regInfo r).block ∈ [0xF, 0x10]) : die = 0 := by
    have := regWindows_of_d0 _ hb
    omega
  unfold State.view
  dsimp only
  rw [if_neg hw]
  by_cases hs : (regInfo r).scope = .blk
  · have hb := block_of_blk _ hs
    rw [hb] at h
    rw [if_pos hs, dieView_stored h, slot0 (by simp [hb])]
    simp [absentBridge, hb]
  · rw [if_neg hs]
    split
    case h_9 hb =>
      rw [brgView_stored (by rwa [RegInfo.block, hb] at h)]
      unfold absentBridge RegInfo.block
      cases dirExists ⟨die, slot⟩ <;> simp [hb]
    case h_19 => simp_all [absentBridge, RegInfo.block]
    all_goals
      rename_i hb
      have notBridge : absentBridge r die slot = false := by simp [absentBridge, RegInfo.block, hb]
      rw [notBridge, if_neg Bool.false_ne_true]
      rw [RegInfo.block, hb] at h
    case h_1 => rw [dieView_stored h, slot0 (by simp [RegInfo.block, hb])]
    case h_2 => rw [ftView_stored h, slot0 (by simp [RegInfo.block, hb])]
    case h_3 => exact planView_stored h s die slot
    case h_4 => exact cmdpView_stored h s die slot
    case h_5 => exact ptuView_stored h s die slot
    case h_6 => exact wsView_stored h s die slot
    case h_7 => exact stkView_stored h s die slot
    case h_8 => exact uuView_stored h s die slot
    case h_10 => exact portView_stored h s die slot
    case h_11 => exact laddView_stored h s die slot
    case h_12 => exact hcxView_stored h s die slot
    case h_13 => exact engView_stored h s die slot
    case h_14 => exact pwrView_stored h s die slot
    case h_15 => rw [errView_stored h, slot0 (by simp [RegInfo.block, hb])]
    case h_16 => rw [secView_stored h, die0 (by simp [RegInfo.block, hb])]
    case h_17 => rw [mdpView_stored h, slot0 (by simp [RegInfo.block, hb]), die0 (by simp [RegInfo.block, hb])]
    case h_18 => rw [dftView_stored h, slot0 (by simp [RegInfo.block, hb])]

end Sys2Proof.Machine

namespace Sys2Proof.Machine

/-! ## After a package reset (R11, R428) -/

/-- The registers that the reset state stores. -/
def resetStored : List Reg := [.HCX_CORE_CTRL, .PWR_PKG_CAP, .DFT_CHAIN]

/-- Their homes. -/
def resetRefs : List RegRef :=
  resetStored.flatMap (fun r =>
    (if (regInfo r).scope = .die then List.range 8 else [0]).flatMap (fun d => (List.range (regInfo r).slots).map (fun k => ⟨r, d, k⟩)))

/-- A register is stored at the value of its Reset column. -/
def putReset (m : Sparse W64) (x : RegRef) : Sparse W64 :=
  Sparse.put 0#64 m (regHome x.reg x.die x.slot) (BitVec.ofNat 64 (regInfo x.reg).reset)

theorem resetRegs_eq : resetRegs = resetRefs.foldl putReset [] := by
  simp only [resetRegs, resetRefs, resetStored, List.foldl_flatMap, List.foldl_map, putReset]

/-- A register as its home names it. -/
def atHome (x : RegRef) : Prop := regAt (regHome x.reg x.die x.slot) = some x

theorem atHome_holderDie {r : Reg} {die slot : Nat} (hd : die < regWindows r) (hk : slot < (regInfo r).slots) :
    atHome ⟨r, holderDie r die, slot⟩ := by
  have same : holderDie r (holderDie r die) = holderDie r die := by unfold holderDie; split <;> rfl
  exact (regAt_regHome (holderDie_lt hd) hk).trans (by rw [same])

theorem at?_foldl_putReset {x : RegRef} (hx : atHome x) (l : List RegRef) (hl : ∀ y ∈ l, atHome y) (m : Sparse W64)
    (h : Sparse.wf 0#64 m = true) :
    Sparse.at? 0#64 (l.foldl putReset m) (regHome x.reg x.die x.slot) =
      if x ∈ l then BitVec.ofNat 64 (regInfo x.reg).reset else Sparse.at? 0#64 m (regHome x.reg x.die x.slot) := by
  induction l generalizing m with
  | nil => simp
  | cons y l ih =>
    rw [List.foldl_cons, ih (fun z hz => hl z (List.mem_cons_of_mem _ hz)) (putReset m y) (Sparse.wf_put _ _ h), putReset,
      Sparse.at?_put _ _ _ h]
    by_cases hxy : x = y
    · simp [hxy]
    · have hne : regHome x.reg x.die x.slot ≠ regHome y.reg y.die y.slot := fun e =>
        hxy (Option.some.inj (hx.symm.trans (e ▸ hl y List.mem_cons_self)))
      simp [hxy, hne]

theorem mem_resetRefs {x : RegRef} : x ∈ resetRefs ↔ x.reg ∈ resetStored ∧
    x.die ∈ (if (regInfo x.reg).scope = .die then List.range 8 else [0]) ∧ x.slot < (regInfo x.reg).slots := by
  obtain ⟨r, d, k⟩ := x
  simp only [resetRefs, List.mem_flatMap, List.mem_map, List.mem_range, RegRef.mk.injEq]
  exact ⟨by rintro ⟨_, hr, _, hd, _, hk, rfl, rfl, rfl⟩; exact ⟨hr, hd, hk⟩, fun ⟨hr, hd, hk⟩ => ⟨r, hr, d, hd, k, hk, rfl, rfl, rfl⟩⟩

theorem holderDie_mem {r : Reg} {die : Nat} (hd : die < regWindows r) :
    holderDie r die ∈ (if (regInfo r).scope = .die then List.range 8 else [0]) := by
  have := regWindows_le r
  unfold holderDie
  split
  · exact List.mem_range.mpr (by omega)
  · exact List.mem_singleton_self 0

theorem atHome_of_mem_resetRefs {x : RegRef} (h : x ∈ resetRefs) : atHome x := by
  obtain ⟨-, hd, hk⟩ := mem_resetRefs.mp h
  have same : holderDie x.reg x.die = x.die := by
    unfold holderDie
    split at hd <;> simp_all
  have hlt : x.die < regWindows x.reg := by
    unfold regWindows
    split at hd
    next hs => simpa [hs] using List.mem_range.mp hd
    next hs =>
      rw [List.mem_singleton.mp hd]
      split <;> decide
  have := atHome_holderDie hlt hk
  rwa [same] at this

/-- What the reset state stores of a register. -/
theorem State.reset_reg {r : Reg} {die slot : Nat} (hd : die < regWindows r) (hk : slot < (regInfo r).slots) :
    State.reset.reg r die slot = if r ∈ resetStored then (regInfo r).reset else 0 := by
  have hx := atHome_holderDie hd hk
  have small : ∀ r ∈ resetStored, (regInfo r).reset < 2 ^ 64 := by decide
  have at' := at?_foldl_putReset hx resetRefs (fun _ => atHome_of_mem_resetRefs) [] rfl
  have home : regHome r (holderDie r die) slot = regHome r die slot := by unfold regHome holderDie; split <;> rfl
  simp only [home, mem_resetRefs, holderDie_mem hd, hk, and_true] at at'
  have stored : State.reset.regs = resetRegs := by simp only [State.reset]
  rw [State.reg, stored, resetRegs_eq, at']
  split
  next hr => simpa using Nat.mod_eq_of_lt (small r hr)
  next => rfl

theorem State.reset_regs_wf : Sparse.wf 0#64 State.reset.regs = true := by decide +kernel

end Sys2Proof.Machine

namespace Sys2Proof.Machine

/-! ### What a package reset leaves in the parts of the state that readings are computed from -/

section
variable {s s' : State} (h : s'.clearedBy s)
include h

theorem cleared_ctx (c : Nat) : s'.ctx c = {} := by
  have e : s'.ctxs = List.replicate 16 {} := congrArg State.ctxs h.1
  rw [State.ctx, e, List.getD_eq_getElem?_getD, List.getElem?_getD_replicate_default_eq]

theorem cleared_ring (k : Nat) : s'.ring k = {} := by
  have e : s'.rings = List.replicate 17 {} := congrArg State.rings h.1
  rw [State.ring, e, List.getD_eq_getElem?_getD, List.getElem?_getD_replicate_default_eq]

theorem cleared_port (p : Nat) : s'.port p = {} := by
  have e : s'.ports = List.replicate 16 {} := congrArg State.ports h.1
  rw [State.port, e, List.getD_eq_getElem?_getD, List.getElem?_getD_replicate_default_eq]

theorem cleared_die {d : Nat} (hd : d < 8) : s'.die d = { temps := List.replicate 24 0 } := by
  have e : s'.pwr = List.replicate 8 { temps := List.replicate 24 0 } := congrArg State.pwr h.1
  rw [State.die, e]
  simp only [List.getD_eq_getElem?_getD, List.getElem?_replicate, if_pos hd, Option.getD_some]

theorem cleared_tc (d : Nat) : s'.tc.getD d [] = [] := by
  have e : s'.tc = List.replicate 8 [] := congrArg State.tc h.1
  rw [e, List.getD_eq_getElem?_getD, List.getElem?_getD_replicate_default_eq]

theorem cleared_meas (k : Nat) : fieldAt (s'.sec.meas.getD (k / 6) []) (k % 6 * 8) 8 = 0 := by
  have e : s'.sec.meas = List.replicate 8 (List.replicate 48 0#8) := congrArg (fun s => s.sec.meas) h.1
  rw [e]
  simp only [List.getD_eq_getElem?_getD, List.getElem?_replicate]
  split
  · have all : ∀ i < 6, fieldAt (List.replicate 48 0#8) (i * 8) 8 = 0 := by decide +kernel
    exact all _ (Nat.mod_lt _ (by decide))
  · simp [fieldAt, leNat]

theorem cleared_unit (u : Nat) : s'.unit u = {} := by
  have e : s'.units = [] := congrArg State.units h.1
  rw [State.unit, e]; rfl

theorem cleared_eng (u : Nat) : s'.eng u = {} := by
  have e : s'.engs = [] := congrArg State.engs h.1
  rw [State.eng, e]; rfl

theorem cleared_queue (q : QueueId) : s'.queue q = {} := by
  have e : s'.queues = [] := congrArg State.queues h.1
  rw [State.queue, e]; rfl

theorem cleared_dir (d : Dir) : s'.dir d = {} := by
  have e : s'.bridges = [] := congrArg State.bridges h.1
  rw [State.dir, State.bridge, e]; rfl

theorem cleared_ftu : s'.ftu = {} := congrArg State.ftu h.1
theorem cleared_hcx : s'.hcx = {} := congrArg State.hcx h.1
theorem cleared_boot : s'.boot = {} := congrArg State.boot h.1
theorem cleared_sec : s'.sec = { meas := List.replicate 8 (List.replicate 48 0#8) } := congrArg State.sec h.1
theorem cleared_mgmt : s'.mgmt = {} := congrArg State.mgmt h.1
theorem cleared_ft : s'.ft = 0 := congrArg State.ft h.1
theorem cleared_tags : s'.tags = [] := congrArg State.tags h.1
theorem cleared_clean : s'.clean = [] := congrArg State.clean h.1
theorem cleared_routes : s'.routes = [] := congrArg State.routes h.1
theorem cleared_bias : s'.bias = [] := congrArg State.bias h.1
theorem cleared_invals : s'.invals = [] := congrArg State.invals h.1
theorem cleared_asleep : s'.asleep = [] := congrArg State.asleep h.1
theorem cleared_ftHeld : s'.pins.ftHeld = true := h.2.1

/-- No context owns anything. -/
theorem cleared_ownerOf (has : Part → Bool) : s'.ownerOf has = none := by
  have empty : s'.created = [] := by simp [State.created, cleared_ctx h]
  rw [State.ownerOf, empty]; rfl

theorem cleared_runningOn (u : Nat) : s'.runningOn u = none := by rw [State.runningOn, cleared_unit h]

/-- The registers stored after a package reset. -/
theorem cleared_reg {r : Reg} {die slot : Nat} (hd : die < regWindows r) (hk : slot < (regInfo r).slots) :
    s'.reg r die slot = if r = .PWR_TRIP then s'.reg .PWR_TRIP 0 0 else if r ∈ resetStored then (regInfo r).reset else 0 := by
  split
  next hr =>
    subst hr
    obtain rfl : die = 0 := Nat.lt_one_iff.mp hd
    obtain rfl : slot = 0 := Nat.lt_one_iff.mp hk
    rfl
  next hr =>
    have e : s'.regs = (State.reset.setReg .PWR_TRIP 0 0 (s'.reg .PWR_TRIP 0 0)).regs := (congrArg State.regs h.1 :)
    have at' : s'.reg r die slot = (State.reset.setReg .PWR_TRIP 0 0 (s'.reg .PWR_TRIP 0 0)).reg r die slot := by
      rw [State.reg, e]; rfl
    rw [at', State.reg_setReg_ne State.reset_regs_wf _ (regHome_ne hd hk Nat.one_pos Nat.one_pos hr), State.reset_reg hd hk]

theorem cleared_reg_zero {r : Reg} {die slot : Nat} (hd : die < regWindows r) (hk : slot < (regInfo r).slots) (hr : r ≠ .PWR_TRIP)
    (hs : r ∉ resetStored) : s'.reg r die slot = 0 := by rw [cleared_reg h hd hk, if_neg hr, if_neg hs]

end

end Sys2Proof.Machine

namespace Sys2Proof.Machine

/-! ### The reading of each block after a package reset

A register whose reading is computed reads as its reset value. -/

theorem ownedMask_none (n : Nat) : ownedMask n (fun _ => none) = 0 := by simp [ownedMask, bitsAt]

theorem ownerNibbles_none (n : Nat) : ownerNibbles n (fun _ => none) = 0 := by simp [ownerNibbles]

theorem spareBytes_empty (g : Nat) : BridgeSt.spareBytes {} g = 0 := by
  have unused (i : Nat) : BridgeSt.spare {} g i = 0 := rfl
  simp [BridgeSt.spareBytes, unused]

section
variable {s s' : State} (h : s'.clearedBy s) {r : Reg}
include h

/-! No unit runs, and every queue is empty. -/

theorem cleared_actionBits (u : Nat) : s'.actionBits u = 0 := by rw [State.actionBits, cleared_runningOn h]
theorem cleared_curOffset (u : Nat) : s'.curOffset u = 0 := by rw [State.curOffset, cleared_runningOn h]
theorem cleared_runState (u : Nat) : s'.runState u = 0 := by rw [State.runState, cleared_runningOn h, cleared_unit h]; rfl
theorem cleared_meState (u : Nat) : s'.meState u = 0 := by rw [State.meState, cleared_runningOn h, cleared_unit h]; rfl
theorem cleared_veState (u : Nat) : s'.veState u = 0 := by rw [State.veState, cleared_runningOn h, cleared_unit h]; rfl
theorem cleared_uuState (u : Nat) : s'.uuState u = 0 := by rw [State.uuState, cleared_runningOn h, cleared_unit h]; rfl

theorem cleared_queueWord (q : QueueId) : s'.queueWord q = 2 ^ 48 := by
  have hpos : queueDepth q ≠ 0 := by cases q <;> simp [queueDepth]
  have notFull : RunQ.full {} (queueDepth q) = false := by simp [RunQ.full, hpos]
  rw [State.queueWord, cleared_queue h, notFull]
  rfl

theorem cleared_portView {die k : Nat} (hc : r ∈ computedIn 0x09) : s'.portView r die k = (regInfo r).reset := by
  unfold State.portView
  extract_lets p x
  have hx : x = {} := cleared_port h _
  split
  case h_1 => rw [cleared_routes h]; rfl
  case h_2 => rw [cleared_bias h]; rfl
  case h_6 => rw [hx]; exact Nat.sub_zero _
  case h_7 => exact cleared_queueWord h _
  case h_8 => simp_all [computedIn]
  all_goals rw [hx]; rfl

theorem cleared_planView (hv : r ∉ dieValued) {die k : Nat} (hc : r ∈ computedIn 0x02) :
    s'.planView r die k = (regInfo r).reset := by
  have runs : s'.entryRuns die = [65536] := by
    simp only [State.entryRuns, State.heldEntries, cleared_ctx h]
    rfl
  unfold State.planView
  extract_lets x
  have hx : x = {} := cleared_ctx h _
  split
  case h_1 => simp [dieValued] at hv
  case h_2 => rw [runs]; exact Nat.zero_add _
  case h_3 => rw [runs]; exact Nat.zero_max _
  case h_14 => simp_all [computedIn]
  all_goals rw [hx]; rfl

theorem cleared_engView (hv : r ∉ dieValued) {die k : Nat} (hc : r ∈ computedIn 0x0C) :
    s'.engView r die k = (regInfo r).reset := by
  have enabled (cls : Nat) : s'.enabledMask die cls 48 = 2 ^ 48 - 1 := by
    simp only [State.enabledMask, cleared_unit h]
    rfl
  have owner : s'.engineOwner (die * 48 + k) = none := cleared_ownerOf h _
  unfold State.engView
  extract_lets e m v
  split
  case h_1 => simp [dieValued] at hv
  case h_2 => exact enabled _
  case h_3 => exact enabled _
  case h_4 => rw [owner, cleared_actionBits h, cleared_meState h]; rfl
  case h_5 => rw [State.accLive, cleared_eng h]; rfl
  case h_6 => exact cleared_curOffset h _
  case h_7 => rw [owner, cleared_veState h]; rfl
  case h_8 => rw [cleared_runningOn h]; rfl
  case h_9 => exact cleared_curOffset h _
  case h_10 => rw [cleared_eng h]; rfl
  case h_11 => exact cleared_queueWord h _
  case h_12 => exact cleared_queueWord h _
  case h_13 => simp_all [computedIn]

theorem cleared_dieView (hv : r ∉ dieValued) {die : Nat} (hc : r ∈ computedIn 0x00) : s'.dieView r die = (regInfo r).reset := by
  unfold State.dieView
  split
  case h_5 =>
    have released : s'.releasedDies = [] := by
      refine List.filter_eq_nil_iff.mpr (fun d hd => ?_)
      rw [cleared_reg_zero h (List.mem_range.mp hd) Nat.one_pos (by decide) (by decide)]
      simp [bitOf]
    rw [released]; rfl
  case h_6 => simp_all [computedIn]
  all_goals simp [dieValued] at hv

theorem cleared_ftView {die : Nat} (hc : r ∈ computedIn 0x01) : s'.ftView r die = (regInfo r).reset := by
  unfold State.ftView
  extract_lets f
  have hf : f = {} := cleared_ftu h
  split
  case h_1 =>
    rw [State.dieFt, cleared_ft h]
    split
    · rfl
    · exact Nat.zero_min _
  case h_7 => simp_all [computedIn]
  all_goals rw [hf]; rfl

theorem cleared_laddView {die k : Nat} (hc : r ∈ computedIn 0x0A) : s'.laddView r die k = (regInfo r).reset := by
  have tag (n : Nat) : s'.tagSt n = none := by rw [State.tagSt, cleared_tags h]; rfl
  have owner : s'.adderOwner (die * 2 + k) = none := cleared_ownerOf h _
  unfold State.laddView
  extract_lets t
  split
  case h_1 => rw [tag]; rfl
  case h_2 => rw [tag]; rfl
  case h_3 => rw [cleared_tags h]; exact Nat.sub_zero _
  case h_4 => rw [owner, cleared_actionBits h, cleared_runState h]; rfl
  case h_5 => rw [cleared_ctx h]; rfl
  case h_6 => simp_all [computedIn]

theorem cleared_uuView (hv : r ∉ dieValued) {die k : Nat} (hc : r ∈ computedIn 0x07) :
    s'.uuView r die k = (regInfo r).reset := by
  have owner : s'.channelOwner (64 * die + k) = none := cleared_ownerOf h _
  unfold State.uuView
  extract_lets u
  split
  case h_1 => simp [dieValued] at hv
  case h_2 => simp only [State.enabledMask, cleared_unit h]; rfl
  case h_3 => rw [owner, cleared_actionBits h, cleared_uuState h]; rfl
  case h_4 => rw [State.uuShard, cleared_runningOn h]; rfl
  case h_5 => simp_all [computedIn]

theorem cleared_wsView {die k : Nat} (hc : r ∈ computedIn 0x05) : s'.wsView r die k = (regInfo r).reset := by
  have owner : s'.moverOwner (die * 16 + k) = none := cleared_ownerOf h _
  unfold State.wsView
  extract_lets u bank
  have banks : bank = fun _ => none := funext (fun _ => cleared_ownerOf h _)
  split
  case h_1 => rw [banks, ownedMask_none]; rfl
  case h_2 => rw [banks, ownerNibbles_none]; rfl
  case h_3 => rw [cleared_clean h]; rfl
  case h_4 => rw [owner, cleared_actionBits h, cleared_runState h]; rfl
  case h_5 => rw [State.curTile, cleared_runningOn h]; rfl
  case h_6 => simp_all [computedIn]

theorem cleared_stkView {die k : Nat} (hc : r ∈ computedIn 0x06) : s'.stkView r die k = (regInfo r).reset := by
  unfold State.stkView
  extract_lets ch
  have channels (base : Nat) : ch base = fun _ => none := funext (fun _ => cleared_ownerOf h _)
  split
  case h_1 => rw [channels, ownedMask_none]; rfl
  case h_6 => simp_all [computedIn]
  all_goals rw [channels, ownerNibbles_none]; rfl

theorem cleared_hcxView (hv : r ∉ dieValued) {die k : Nat} (hc : r ∈ computedIn 0x0B) :
    s'.hcxView r die k = (regInfo r).reset := by
  unfold State.hcxView
  extract_lets way
  have ways : way = fun _ => none := funext (fun _ => cleared_ownerOf h _)
  split
  case h_1 => simp [dieValued] at hv
  case h_2 => rw [State.coresRun, cleared_hcx h]; rfl
  case h_3 => rw [cleared_hcx h]; rfl
  case h_4 => rw [cleared_hcx h]; rfl
  case h_5 => rw [ways, ownedMask_none]; rfl
  case h_6 => rw [ways, ownerNibbles_none]; rfl
  case h_7 => rw [cleared_hcx h]; rfl
  case h_8 => simp_all [computedIn]

theorem cleared_ptuView (hv : r ∉ dieValued) {die c : Nat} (hc : r ∈ computedIn 0x04) :
    s'.ptuView r die c = (regInfo r).reset := by
  unfold State.ptuView
  split
  case h_1 => simp [dieValued] at hv
  case h_2 => rw [cleared_tc h]; rfl
  case h_3 => rw [cleared_ctx h]; rfl
  case h_4 => rw [State.pinnedOf, cleared_tc h]; rfl
  case h_5 => rw [cleared_invals h]; rfl
  case h_6 => simp_all [computedIn]

theorem cleared_cmdpView (hv : r ∉ dieValued) {die k : Nat} (hc : r ∈ computedIn 0x03) :
    s'.cmdpView r die k = (regInfo r).reset := by
  unfold State.cmdpView
  extract_lets g x
  have hg : g = {} := cleared_ring h _
  have hx : x = {} := cleared_ctx h _
  rw [hg, hx]
  split
  case h_1 => simp [dieValued] at hv
  case h_2 => exact ite_self _
  case h_11 => exact ite_self _
  case h_12 => exact ite_self _
  case h_13 => rw [ite_self]; rfl
  case h_14 => simp_all [computedIn]
  all_goals rfl

theorem cleared_pwrView (hv : r ∉ dieValued) {die k : Nat} (hd : die < 8) (hc : r ∈ computedIn 0x0D) :
    s'.pwrView r die k = if r = .PWR_BUDGET then 525000 else (regInfo r).reset := by
  unfold State.pwrView
  extract_lets p
  have hp : p = { temps := List.replicate 24 0 } := cleared_die h hd
  split
  case h_1 => rw [hp, cleared_asleep h]; rfl
  case h_5 =>
    rw [hp, List.getD_eq_getElem?_getD, List.getElem?_getD_replicate_default_eq]
    rfl
  case h_6 => simp [dieValued] at hv
  case h_7 => rw [cleared_ftHeld h]; rfl
  case h_8 => simp_all [computedIn]
  all_goals rw [hp]; rfl

theorem cleared_secView (hv : r ∉ dieValued) {k : Nat} (hc : r ∈ computedIn 0x0F) : s'.secView r k = (regInfo r).reset := by
  unfold State.secView
  extract_lets b x
  have hb : b = {} := cleared_boot h
  have hx : x = { meas := List.replicate 8 (List.replicate 48 0#8) } := cleared_sec h
  split
  case h_4 => simp [dieValued] at hv
  case h_9 => simp [hb, fieldAt, leNat, regInfo]
  case h_10 => simp [dieValued] at hv
  case h_11 => exact cleared_meas h k
  case h_12 => simp_all [computedIn]
  all_goals simp only [hb, hx]; rfl

theorem cleared_errView {die : Nat} (hc : r ∈ computedIn 0x0E) : s'.errView r die = (regInfo r).reset := by
  unfold State.errView
  extract_lets q word
  have hq : q = {} := cleared_queue h _
  have words (k : Nat) : word k = 0 := by
    simp only [word, State.oldestRec, cleared_queue h]; rfl
  split
  case h_1 => exact cleared_queueWord h _
  case h_2 => rw [hq]; rfl
  case h_3 => rw [hq]; rfl
  case h_8 => simp_all [computedIn]
  all_goals exact words _

theorem cleared_mdpView (hc : r ∈ computedIn 0x10) : s'.mdpView r = (regInfo r).reset := by
  unfold State.mdpView
  extract_lets m
  have hm : m = {} := cleared_mgmt h
  split
  case h_1 => rw [hm, cleared_boot h, State.mdpBusy, cleared_queue h]; rfl
  case h_2 => exact cleared_queueWord h _
  case h_3 => rw [hm, cleared_ftHeld h]; rfl
  case h_4 => simp_all [computedIn]

theorem cleared_dftView (hv : r ∉ dieValued) {die : Nat} (hd : die < 8) (hc : r ∈ computedIn 0x11) :
    s'.dftView r die = (regInfo r).reset := by
  have off (x : Reg) (hw : die < regWindows x) (hk : 0 < (regInfo x).slots) (hx : x ≠ .PWR_TRIP ∧ x ∉ resetStored) : s'.reg x die 0 = 0 :=
    cleared_reg_zero h hw hk hx.1 hx.2
  have noLoop : s'.loopSince die = (0, 0) := by
    simp [State.loopSince, State.loops, off .DFT_MODE hd Nat.one_pos (by decide), bitOf]
  unfold State.dftView
  split
  case h_1 => simp [dieValued] at hv
  case h_2 => rw [noLoop, off .DFT_LB_BITS hd Nat.one_pos (by decide)]; rfl
  case h_3 => rw [noLoop, off .DFT_LB_ERRORS hd Nat.one_pos (by decide)]; rfl
  case h_4 => simp_all [computedIn]

theorem cleared_brgView (hv : r ∉ dieValued) {die k : Nat} (hc : r ∈ computedIn 0x08) (h0 : (regInfo r).reset = 0) :
    s'.brgView r die k = (regInfo r).reset := by
  unfold State.brgView
  extract_lets tx rx
  have htx : tx = {} := cleared_dir h _
  have hrx : rx = {} := cleared_dir h _
  split
  · exact h0.symm
  · split
    case h_1 => simp [dieValued] at hv
    case h_2 => rw [htx]; rfl
    case h_3 => rw [hrx]; rfl
    case h_4 => rw [htx, hrx, spareBytes_empty]; rfl
    case h_5 => simp [dieValued] at hv
    case h_6 => simp_all [computedIn]

end
end Sys2Proof.Machine

namespace Sys2Proof.Machine

/-- What a register reads as after a package reset, PWR_TRIP apart. -/
def resetValue (r : Reg) : Nat := if r = .PWR_BUDGET then 525000 else if (regInfo r).access = .wo then 0 else (regInfo r).reset

/-- A register that reads as stored and that the reset state does not store resets to 0. -/
theorem reset_zero_of_not_stored : ∀ r : Reg, r ∉ computedIn (regInfo r).block → r ∉ resetStored → (regInfo r).reset = 0 :=
  forall_reg (by decide +kernel)

/-- The registers of the bridges reset to 0, but for the status of the retry buffers. -/
theorem reset_zero_of_bridge : ∀ r : Reg, (regInfo r).block = 8 → r ∉ dieValued → (regInfo r).reset = 0 :=
  forall_reg (by decide +kernel)

/-- A register whose reading is computed reads as its reset value after a package reset. -/
theorem cleared_view_computed {s s' : State} (h : s'.clearedBy s) {r : Reg} (hv : r ∉ dieValued) {die slot : Nat} (hd : die < regWindows r)
    (hw : (regInfo r).access ≠ .wo) (hc : r ∈ computedIn (regInfo r).block) (hbudget : r ≠ .PWR_BUDGET) :
    s'.view ⟨r, die, slot⟩ = (regInfo r).reset := by
  have die8 : die < 8 := hd.trans_le (regWindows_le r)
  unfold State.view
  dsimp only
  rw [if_neg hw]
  by_cases hs : (regInfo r).scope = .blk
  · rw [block_of_blk _ hs] at hc
    rw [if_pos hs]
    exact cleared_dieView h hv hc
  · rw [if_neg hs]
    split
    case h_19 => simp_all [computedIn, RegInfo.block]
    all_goals
      rename_i hb
      rw [show (regInfo r).block = _ from hb] at hc
    case h_1 => exact cleared_dieView h hv hc
    case h_2 => exact cleared_ftView h hc
    case h_3 => exact cleared_planView h hv hc
    case h_4 => exact cleared_cmdpView h hv hc
    case h_5 => exact cleared_ptuView h hv hc
    case h_6 => exact cleared_wsView h hc
    case h_7 => exact cleared_stkView h hc
    case h_8 => exact cleared_uuView h hv hc
    case h_9 => exact cleared_brgView h hv hc (reset_zero_of_bridge _ hb hv)
    case h_10 => exact cleared_portView h hc
    case h_11 => exact cleared_laddView h hc
    case h_12 => exact cleared_hcxView h hv hc
    case h_13 => exact cleared_engView h hv hc
    case h_14 => rw [cleared_pwrView h hv die8 hc, if_neg hbudget]
    case h_15 => exact cleared_errView h hc
    case h_16 => exact cleared_secView h hv hc
    case h_17 => exact cleared_mdpView h hc
    case h_18 => exact cleared_dftView h hv die8 hc

theorem cleared_view {s s' : State} (h : s'.clearedBy s) {r : Reg} (hv : r ∉ dieValued) {die slot : Nat} (hd : die < regWindows r)
    (hk : slot < (regInfo r).slots) :
    s'.view ⟨r, die, slot⟩ = if r = .PWR_TRIP then s'.reg .PWR_TRIP 0 0 else resetValue r := by
  by_cases trip : r = .PWR_TRIP
  · subst trip
    rw [view_stored (by decide) (by decide) hd hk, cleared_reg h hd hk]
    rfl
  rw [if_neg trip, resetValue]
  by_cases budget : r = .PWR_BUDGET
  · subst budget
    simp [State.view, regInfo, State.pwrView, cleared_die h (show die < 8 from hd)]
  rw [if_neg budget]
  split
  next hw => simp [State.view, hw]
  next hw =>
  by_cases hc : r ∈ computedIn (regInfo r).block
  · exact cleared_view_computed h hv hd hw hc budget
  · have stored : s'.reg r die slot = (regInfo r).reset := by
      rw [cleared_reg h hd hk, if_neg trip]
      split
      · rfl
      next hs => exact (reset_zero_of_not_stored _ hc hs).symm
    rw [view_stored hc hw hd hk, stored]
    split
    next absent => exact (reset_zero_of_bridge _ (of_decide_eq_true (Bool.and_eq_true_iff.mp absent).1) hv).symm
    next => rfl

theorem reset_clearedBy_reset : State.reset.clearedBy State.reset :=
  ⟨by decide +kernel, rfl, rfl, (⟨rfl, rfl⟩ : State.reset.svnMin = State.reset.svnMin ∧ State.reset.revoked = State.reset.revoked)⟩

/-- Settles O3: what a reading is computed from is at rest after a package reset, and the other registers are stored at their
reset value. -/
theorem resetGivesEveryRegisterItsValue : Obligations.ResetGivesEveryRegisterItsValue := by
  intro r die slot hd hk hv
  refine ⟨?_, fun s s' h => cleared_view h hv hd hk⟩
  change _ = resetValue r
  rw [cleared_view reset_clearedBy_reset hv hd hk]
  split
  next trip => rw [trip, State.reset_reg Nat.one_pos Nat.one_pos]; rfl
  next => rfl

end Sys2Proof.Machine

namespace Sys2Proof.Machine

/-! ## Register accesses (R7 to R9) -/

theorem lookupD_map_set {κ α : Type} [DecidableEq κ] (d : α) (l : List (κ × α)) (k k' : κ) (v : α) :
    lookupD d (l.map (fun kv => if kv.1 = k then (k, v) else kv)) k' = if k' = k ∧ ∃ kv ∈ l, kv.1 = k then v else lookupD d l k' := by
  induction l with
  | nil => simp [lookupD]
  | cons e l ih =>
    obtain ⟨k₁, v₁⟩ := e
    by_cases h₁ : k₁ = k
    · subst h₁
      by_cases h : k' = k₁
      · simp [lookupD, h]
      · simp [lookupD, h, ih]
    · by_cases h : k' = k₁
      · have hne : k' ≠ k := fun e => h₁ (h.symm.trans e)
        simp [lookupD, h₁, h]
      · simp only [List.map_cons, List.mem_cons, exists_eq_or_imp, h₁, false_or, if_false, lookupD, h, ih]

theorem lookupD_setKey {κ α : Type} [DecidableEq κ] (d : α) (l : List (κ × α)) (k k' : κ) (v : α) :
    lookupD d (setKey l k v) k' = if k' = k then v else lookupD d l k' := by
  unfold setKey
  split
  next listed =>
    have has : ∃ kv ∈ l, kv.1 = k := by simpa using listed
    rw [lookupD_map_set]
    exact if_congr (and_iff_left has) rfl rfl
  next => rfl

theorem State.queue_setQueue (s : State) (q q' : QueueId) (f : RunQ → RunQ) :
    (s.setQueue q f).queue q' = if q' = q then f (s.queue q) else s.queue q' := lookupD_setKey ..

/-! ### What the passing of time leaves -/

section
variable (s : State) (t : Nat)

theorem State.le_advance_ft : t ≤ (s.advance t).ft := by
  unfold State.advance
  split
  next h => exact h
  next => exact Nat.le_refl t

/-- Only the clocks move. -/
theorem State.advance_eq : ∃ ft aon, s.advance t = { s with ft := ft, aon := aon } := by
  unfold State.advance
  split
  · exact ⟨s.ft, s.aon, rfl⟩
  · exact ⟨_, _, rfl⟩

@[simp] theorem State.advance_pending : (s.advance t).pending = s.pending := by obtain ⟨_, _, e⟩ := s.advance_eq t; rw [e]
@[simp] theorem State.advance_regs : (s.advance t).regs = s.regs := by obtain ⟨_, _, e⟩ := s.advance_eq t; rw [e]
@[simp] theorem State.advance_mem : (s.advance t).mem = s.mem := by obtain ⟨_, _, e⟩ := s.advance_eq t; rw [e]
@[simp] theorem State.advance_queues : (s.advance t).queues = s.queues := by obtain ⟨_, _, e⟩ := s.advance_eq t; rw [e]
@[simp] theorem State.advance_mgmt : (s.advance t).mgmt = s.mgmt := by obtain ⟨_, _, e⟩ := s.advance_eq t; rw [e]
@[simp] theorem State.advance_resp : (s.advance t).resp = s.resp := by obtain ⟨_, _, e⟩ := s.advance_eq t; rw [e]
@[simp] theorem State.advance_reg (r : Reg) (die slot : Nat) : (s.advance t).reg r die slot = s.reg r die slot := by
  obtain ⟨_, _, e⟩ := s.advance_eq t; rw [e]; rfl
@[simp] theorem State.advance_queue (q : QueueId) : (s.advance t).queue q = s.queue q := by obtain ⟨_, _, e⟩ := s.advance_eq t; rw [e]; rfl
@[simp] theorem State.advance_ctx (c : Nat) : (s.advance t).ctx c = s.ctx c := by obtain ⟨_, _, e⟩ := s.advance_eq t; rw [e]; rfl

end

/-! ### The rows REGISTER_WRITE and REGISTER_READ -/

/-- The state in which a register write does its work: at its time, with nothing answered. -/
def State.accessed (s : State) (t : Nat) : State := { s.advance t with resp := .none }

@[simp] theorem State.accessed_regs (s : State) (t : Nat) : (s.accessed t).regs = s.regs := s.advance_regs t

@[simp] theorem State.accessed_queues (s : State) (t : Nat) : (s.accessed t).queues = s.queues := s.advance_queues t

@[simp] theorem State.accessed_queue (s : State) (t : Nat) (q : QueueId) : (s.accessed t).queue q = s.queue q := by
  rw [State.queue, s.accessed_queues, State.queue]

/-- Nothing else has changed. -/
theorem State.accessed_frame (s : State) (t : Nat) : { s.accessed t with resp := s.resp } = s.advance t := by
  rw [← s.advance_resp t]
  rfl

/-- A state whose answer has been taken reaches the same state. -/
theorem State.advance_answered (s : State) (t : Nat) : ({ s with resp := .none } : State).advance t = s.accessed t := by
  unfold State.accessed State.advance
  split <;> rfl

theorem exec_registerWrite_regAddr {r : Reg} {die slot : Nat} (hd : die < regWindows r) (hk : slot < (regInfo r).slots) (s : State)
    (t v : Nat) : exec (.registerWrite t (regAddr r die slot) 8 v) s =
      .next ((s.accessed t).writeReg ⟨r, die, slot⟩ (v % 2 ^ 64)) := by
  change execRegisterWrite t (regAddr r die slot) 8 v s = _
  simp [execRegisterWrite, isRegAddr_regAddr hd hk, regAccess, regAddr_mod, regAt_regAddr hd hk, State.accessed]

theorem exec_registerRead_regAddr {r : Reg} {die slot : Nat} (hd : die < regWindows r) (hk : slot < (regInfo r).slots) (s : State)
    (t : Nat) : exec (.registerRead t (regAddr r die slot) 8) s =
      .next { ((s.advance t).readReg ⟨r, die, slot⟩).1 with resp := .value ((s.advance t).readReg ⟨r, die, slot⟩).2 } := by
  change execRegisterRead t (regAddr r die slot) 8 s = _
  simp [execRegisterRead, isRegAddr_regAddr hd hk, regAccess, regAddr_mod, regAt_regAddr hd hk]

/-- An access that is not an aligned 64-bit one faults (R7). -/
theorem exec_register_misaligned (s : State) (t : Nat) {a size : Nat} (v : Nat) (ha : isRegAddr a = true) (h : a % 8 ≠ 0 ∨ size ≠ 8) :
    exec (.registerWrite t a size v) s = .next { s.advance t with resp := .accessFault } ∧
    exec (.registerRead t a size) s = .next { s.advance t with resp := .accessFault } := by
  have no : regAccess a size = false := by
    rcases h with h | h
    · simp [regAccess, h]
    · simp [regAccess, h]
  constructor
  · change execRegisterWrite t a size v s = _
    simp [execRegisterWrite, ha, no]
  · change execRegisterRead t a size s = _
    simp [execRegisterRead, ha, no]

/-- An offset that no register has reads 0 and ignores the write (R8). -/
theorem exec_register_unassigned (s : State) (t : Nat) {a : Nat} (v : Nat) (ha : isRegAddr a = true) (h8 : a % 8 = 0) (h : regAt a = none) :
    exec (.registerWrite t a 8 v) s = .next { s.advance t with resp := .none } ∧
    exec (.registerRead t a 8) s = .next { s.advance t with resp := .value 0 } := by
  constructor
  · change execRegisterWrite t a 8 v s = _
    simp [execRegisterWrite, ha, regAccess, h8, h]
  · change execRegisterRead t a 8 s = _
    simp [execRegisterRead, ha, regAccess, h8, h]

/-- A read returns the value; one of an RC register clears it (R9). -/
theorem readReg_plain {x : RegRef} (hh : x.reg ≠ .MDP_H_DATA) (hf : x.reg ≠ .ERR_FQ_REC0) (s : State) :
    s.readReg x = (if (regInfo x.reg).access = .rc then s.setReg x.reg x.die x.slot 0 else s, s.view x) := by
  rw [State.readReg, if_neg hh, State.readPlain, if_neg hf]
  split <;> rfl

/-! ### A write by the register's access code -/

/-- The registers whose writes have a rule of their own. -/
def ruledRegs : List Reg :=
  [.FT_CTRL, .STK_ILV, .PORT_PKG_CTRL, .PORT_ROUTE_DATA, .PORT_BIAS_DATA, .PORT_WIN_CTRL, .PORT_CTRL, .PORT_ETH_DOORBELL, .LADD_REF_CTRL,
   .HCX_CORE_CTRL, .CMDP_RING_BASE, .CMDP_CPL_BASE, .CMDP_RING_SIZE, .CMDP_RING_TAIL, .CMDP_CPL_HEAD, .PWR_TEMP_SEL, .PWR_PKG_CAP,
   .SEC_HCX_RESET, .SEC_IMAGE_CTRL, .SEC_ATTEST_CTRL, .SEC_EXTEND_CTRL, .DFT_MODE, .ERR_FQ_RELEASE, .ERR_NOTIFY, .ERR_INJECT, .MDP_STATUS,
   .MDP_Q_ADDR, .MDP_H_ADDR, .MDP_H_DATA]

/-- The state after a write by the register's access code. -/
def State.writeByCode (s : State) (x : RegRef) (v : Nat) : State :=
  if absentBridge x.reg x.die x.slot then s
  else
    match (regInfo x.reg).access with
    | .ctr => s.clearCounter x v
    | .st => (queueOf x.reg x.die x.slot).foldl (fun s q => s.queueStatusWrite q v) s
    | .rw => s.setReg x.reg x.die x.slot (v &&& (regInfo x.reg).mask)
    | .w1s => s.setReg x.reg x.die x.slot (s.reg x.reg x.die x.slot ||| (v &&& (regInfo x.reg).mask))
    | _ => s

/-- The bridges' registers lie in the dies' windows. -/
theorem scope_of_bridge {r : Reg} (hb : (regInfo r).block = 8) : (regInfo r).scope ≠ .blk := fun hs => by
  rw [block_of_blk _ hs] at hb
  cases hb

theorem absentBridge_eq (r : Reg) (die slot : Nat) :
    absentBridge r die slot = ((regInfo r).off / 0x10000 = 8 && (regInfo r).scope != .blk && !dirExists ⟨die, slot⟩) := by
  unfold absentBridge
  by_cases hb : (regInfo r).block = 8
  · have hs := scope_of_bridge hb
    rw [RegInfo.block] at hb
    simp [RegInfo.block, hb, hs]
  · rw [RegInfo.block] at hb
    simp [RegInfo.block, hb]

theorem writeReg_by_code {r : Reg} (h : r ∉ ruledRegs) (die slot v : Nat) (s : State) :
    s.writeReg ⟨r, die, slot⟩ v = s.writeByCode ⟨r, die, slot⟩ v := by
  unfold State.writeReg State.writeByCode
  dsimp only
  rw [absentBridge_eq]
  split
  case h_30 => rfl
  all_goals simp [ruledRegs] at h

end Sys2Proof.Machine

namespace Sys2Proof.Machine

/-! ### What each code's write changes -/

/-- A write to a register with no rule of its own is a write by its code, once the access has got through. -/
theorem exec_registerWrite_by_code {r : Reg} (h : r ∉ ruledRegs) {die slot : Nat} (hd : die < regWindows r) (hk : slot < (regInfo r).slots)
    (s : State) (t v : Nat) : exec (.registerWrite t (regAddr r die slot) 8 v) s =
      .next ((s.accessed t).writeByCode ⟨r, die, slot⟩ (v % 2 ^ 64)) := by
  rw [exec_registerWrite_regAddr hd hk, writeReg_by_code h]

/-- A register that holds what is written to it has no rule of its own, is RW and reads as stored. -/
theorem plainRegs_row : ∀ r ∈ plainRegs,
    r ∉ ruledRegs ∧ r ∉ computedIn (regInfo r).block ∧ (regInfo r).access = .rw ∧ (regInfo r).block ≠ 8 := by decide +kernel

/-- A counter has no rule of its own, and but for those of the loop-backs it reads as stored. -/
theorem counter_row : ∀ r : Reg, (regInfo r).access = .ctr →
    r ∉ ruledRegs ∧ (r ≠ .DFT_LB_BITS → r ≠ .DFT_LB_ERRORS → r ∉ computedIn (regInfo r).block) :=
  forall_reg (by decide +kernel)

/-- A status word other than MDP_STATUS has no rule of its own. -/
theorem status_row : ∀ r : Reg, (regInfo r).access = .st → r ≠ .MDP_STATUS → r ∉ ruledRegs :=
  forall_reg (by decide +kernel)

/-- The only status word of the bridges is that of the retry buffers. -/
theorem bridge_status_row : ∀ r : Reg, (regInfo r).access = .st → (regInfo r).block = 8 → r = .BRG_RQ_STATUS :=
  forall_reg (by decide +kernel)

/-- An RC register has no rule of its own; of the RO ones, the control ring's bases and size have. -/
theorem reading_row : ∀ r : Reg, ((regInfo r).access = .rc → r ∉ ruledRegs) ∧
    ((regInfo r).access = .ro → r ∉ ruledRegs ∨ r ∈ [Reg.CMDP_RING_BASE, .CMDP_CPL_BASE, .CMDP_RING_SIZE]) :=
  forall_reg (by decide +kernel)

theorem readOnly_row {r : Reg} {slot : Nat} (h : readOnly r slot = true) :
    (regInfo r).access = .rc ∧ r ∉ ruledRegs ∨ (regInfo r).access = .ro ∧ r ∉ ruledRegs ∨
      r ∈ [Reg.CMDP_RING_BASE, .CMDP_CPL_BASE, .CMDP_RING_SIZE] ∧ slot ≠ 16 := by
  obtain ⟨hrc, hro⟩ := reading_row r
  simp only [readOnly, Bool.or_eq_true, Bool.and_eq_true, beq_iff_eq, Bool.not_eq_true', Bool.and_eq_false_iff] at h
  rcases h with h | ⟨h, h'⟩
  · exact .inl ⟨h, hrc h⟩
  · rcases hro h with free | ring
    · exact .inr (.inl ⟨h, free⟩)
    · refine .inr (.inr ⟨ring, ?_⟩)
      rcases h' with h' | h'
      · simpa using h'
      · rw [List.contains_iff_mem.mpr ring] at h'
        cases h'

theorem writeByCode_rw {r : Reg} (h : (regInfo r).access = .rw) (hb : (regInfo r).block ≠ 8) (die slot v : Nat) (s : State) :
    s.writeByCode ⟨r, die, slot⟩ v = s.setReg r die slot (v &&& (regInfo r).mask) := by
  simp [State.writeByCode, absentBridge, h, hb]

theorem writeByCode_ctr {r : Reg} (h : (regInfo r).access = .ctr) (die slot v : Nat) (s : State) :
    s.writeByCode ⟨r, die, slot⟩ v = if absentBridge r die slot then s else s.clearCounter ⟨r, die, slot⟩ v := by
  simp [State.writeByCode, h]

theorem writeByCode_readOnly {r : Reg} (h : (regInfo r).access = .rc ∨ (regInfo r).access = .ro) (die slot v : Nat) (s : State) :
    s.writeByCode ⟨r, die, slot⟩ v = s := by
  unfold State.writeByCode
  dsimp only
  rcases h with h | h
  · rw [h]; exact ite_self _
  · rw [h]; exact ite_self _

/-- The status word of the retry buffers of a bridge that does not exist stands for no queue. -/
theorem queueOf_absent {r : Reg} (h : (regInfo r).access = .st) {die slot : Nat}
    (absent : absentBridge r die slot = true) : queueOf r die slot = [] := by
  simp only [absentBridge, Bool.and_eq_true, decide_eq_true_eq, Bool.not_eq_true'] at absent
  obtain rfl := bridge_status_row _ h absent.1
  simp [queueOf, absent.2]

theorem writeByCode_st {r : Reg} (h : (regInfo r).access = .st) (die slot v : Nat) (s : State) :
    s.writeByCode ⟨r, die, slot⟩ v = (queueOf r die slot).foldl (fun s q => s.queueStatusWrite q v) s := by
  unfold State.writeByCode
  split
  next absent => rw [queueOf_absent h absent]; rfl
  next => simp only [h]

theorem clearCounter_eq {r : Reg} (h₁ : r ≠ .DFT_LB_BITS) (h₂ : r ≠ .DFT_LB_ERRORS) (die slot v : Nat) (s : State) :
    s.clearCounter ⟨r, die, slot⟩ v = if bitOf v 63 then s.setReg r die slot 0 else s := by
  cases hb : bitOf v 63 <;> simp [State.clearCounter, hb, h₁, h₂]

theorem bitOf_mod {v n : Nat} (hn : n < 64) : bitOf (v % 2 ^ 64) n = bitOf v n := by
  rw [bitOf, Nat.testBit_mod_two_pow, decide_eq_true hn, Bool.true_and, bitOf]

/-- The state after a queue's OVERRUN and the VALID bits of its lost-item words clear. -/
def RunQ.lossCleared (q : RunQ) : RunQ :=
  { q with overrun := false, firstLost := q.firstLost % 2 ^ 63, lastLost := q.lastLost % 2 ^ 63 }

theorem RunQ.clearOverrun_eq {q : RunQ} {now : Nat} (h : q.lostFt ≠ some now) : q.clearOverrun now = q.lossCleared := if_neg h

/-- A write to the status word of the queues `qs`, none of which has lost an item in this clock. -/
theorem queue_foldl_statusWrite {v : Nat} (qs : List QueueId) {s : State} (h : ∀ q ∈ qs, (s.queue q).lostFt ≠ some s.ft) (q : QueueId) :
    (qs.foldl (fun s q => s.queueStatusWrite q v) s).queue q =
      if bitOf v 63 ∧ q ∈ qs then (s.queue q).lossCleared else s.queue q := by
  cases hb : bitOf v 63
  · have same : (fun (s : State) q => s.queueStatusWrite q v) = fun s _ => s := by
      funext s q
      simp [State.queueStatusWrite, hb]
    simp [same]
  · induction qs generalizing s with
    | nil => simp
    | cons p qs ih =>
      have step : s.queueStatusWrite p v = s.setQueue p RunQ.lossCleared := by
        have cleared := RunQ.clearOverrun_eq (h p List.mem_cons_self)
        simp [State.queueStatusWrite, hb, State.setQueue, cleared]
      have lost (q : QueueId) : ((s.setQueue p RunQ.lossCleared).queue q).lostFt = (s.queue q).lostFt := by
        rw [State.queue_setQueue]
        split
        next e => rw [e]; rfl
        next => rfl
      rw [List.foldl_cons, step, ih (fun q hq => by rw [lost]; exact h q (List.mem_cons_of_mem _ hq)), State.queue_setQueue]
      by_cases hq : q = p
      · subst hq
        simp [RunQ.lossCleared]
      · simp [hq]

/-- It changes nothing but those queues. -/
theorem foldl_statusWrite_frame (v : Nat) (qs : List QueueId) (s : State) :
    { qs.foldl (fun s q => s.queueStatusWrite q v) s with queues := s.queues } = s := by
  induction qs generalizing s with
  | nil => rfl
  | cons p qs ih =>
    rw [List.foldl_cons]
    have step : { s.queueStatusWrite p v with queues := s.queues } = s := by
      unfold State.queueStatusWrite
      split <;> rfl
    have rest := congrArg (fun u : State => { u with queues := s.queues }) (ih (s.queueStatusWrite p v))
    exact rest.trans step

end Sys2Proof.Machine

namespace Sys2Proof.Machine

/-! ### The clauses of R9 -/

/-- A register has been set: it reads as stored, and no other home and no other part of the state has changed. -/
theorem setReg_write {s : State} {r : Reg} {t die slot v : Nat} (hwf : Sparse.wf 0#64 s.regs = true) (hc : r ∉ computedIn (regInfo r).block)
    (hw : (regInfo r).access ≠ .wo) (present : absentBridge r die slot = false) (hd : die < regWindows r) (hk : slot < (regInfo r).slots) :
    let s' := (s.accessed t).setReg r die slot v
    s'.view ⟨r, die, slot⟩ = v % 2 ^ 64 ∧
    (∀ a, a ≠ regHome r die slot → Sparse.at? 0#64 s'.regs a = Sparse.at? 0#64 s.regs a) ∧
    { s' with regs := s.regs, resp := s.resp } = s.advance t := by
  have hwf' : Sparse.wf 0#64 (s.accessed t).regs = true := by rwa [s.accessed_regs]
  refine ⟨?_, fun a ha => ?_, ?_⟩
  · rw [view_stored hc hw hd hk, present, State.reg_setReg_same hwf']
    rfl
  · rw [State.at?_setReg_ne hwf' _ _ _ _ _ ha, s.accessed_regs]
  · rw [← s.accessed_regs t]
    exact s.accessed_frame t

/-- A write to an RW register with no rule of its own. -/
theorem plain_register_write {s : State} {r : Reg} {t die slot v : Nat} (hwf : Sparse.wf 0#64 s.regs = true) (hr : r ∈ plainRegs)
    (hd : die < regWindows r) (hk : slot < (regInfo r).slots) :
    ∃ s', exec (.registerWrite t (regAddr r die slot) 8 v) s = .next s' ∧
      s'.view ⟨r, die, slot⟩ = (v % 2 ^ 64) &&& (regInfo r).mask ∧
      (∀ a, a ≠ regHome r die slot → Sparse.at? 0#64 s'.regs a = Sparse.at? 0#64 s.regs a) ∧
      { s' with regs := s.regs, resp := s.resp } = s.advance t := by
  obtain ⟨hrule, hc, hrw, hb⟩ := plainRegs_row r hr
  have present : absentBridge r die slot = false := by simp [absentBridge, hb]
  have fits : (v % 2 ^ 64 &&& (regInfo r).mask) < 2 ^ 64 := Nat.and_le_left.trans_lt (Nat.mod_lt _ (by decide))
  have written := setReg_write (t := t) (v := v % 2 ^ 64 &&& (regInfo r).mask) hwf hc (by rw [hrw]; decide) present hd hk
  rw [Nat.mod_eq_of_lt fits] at written
  exact ⟨_, by rw [exec_registerWrite_by_code hrule hd hk, writeByCode_rw hrw hb], written⟩

/-- A write to a register that only reads. -/
theorem readOnly_register_write {r : Reg} {die slot : Nat} (hd : die < regWindows r) (hk : slot < (regInfo r).slots)
    (h : readOnly r slot = true) (s : State) (t v : Nat) :
    exec (.registerWrite t (regAddr r die slot) 8 v) s = .next (s.accessed t) := by
  rcases readOnly_row h with ⟨hrc, hrule⟩ | ⟨hro, hrule⟩ | ⟨ring, h16⟩
  · rw [exec_registerWrite_by_code hrule hd hk, writeByCode_readOnly (.inl hrc)]
  · rw [exec_registerWrite_by_code hrule hd hk, writeByCode_readOnly (.inr hro)]
  · rw [exec_registerWrite_regAddr hd hk]
    simp only [List.mem_cons, List.not_mem_nil, or_false] at ring
    rcases ring with rfl | rfl | rfl
    · simp [State.writeReg, State.ringBase, h16]
    · simp [State.writeReg, State.ringBase, h16]
    · simp [State.writeReg, h16]

/-- A write to a counter: 1 in SAT clears it, and a word with bit 63 at 0 is ignored (R461). -/
theorem counter_register_write {s : State} {r : Reg} {t die slot v : Nat} (hwf : Sparse.wf 0#64 s.regs = true) (hd : die < regWindows r)
    (hk : slot < (regInfo r).slots) (hr : (regInfo r).access = .ctr) (h₁ : r ≠ .DFT_LB_BITS) (h₂ : r ≠ .DFT_LB_ERRORS) :
    ∃ s', exec (.registerWrite t (regAddr r die slot) 8 v) s = .next s' ∧
      s'.view ⟨r, die, slot⟩ = (if bitOf v 63 then 0 else s.view ⟨r, die, slot⟩) ∧
      (∀ a, a ≠ regHome r die slot → Sparse.at? 0#64 s'.regs a = Sparse.at? 0#64 s.regs a) ∧
      { s' with regs := s.regs, resp := s.resp } = s.advance t := by
  obtain ⟨hrule, hc⟩ := counter_row _ hr
  replace hc := hc h₁ h₂
  have hw : (regInfo r).access ≠ .wo := by rw [hr]; decide
  have ignored : (∀ a, a ≠ regHome r die slot → Sparse.at? 0#64 (s.accessed t).regs a = Sparse.at? 0#64 s.regs a) ∧
      { s.accessed t with regs := s.regs, resp := s.resp } = s.advance t := by
    refine ⟨fun a _ => by rw [s.accessed_regs], ?_⟩
    rw [← s.accessed_regs t]
    exact s.accessed_frame t
  have view_accessed : (s.accessed t).view ⟨r, die, slot⟩ = s.view ⟨r, die, slot⟩ := by
    rw [view_stored hc hw hd hk, view_stored hc hw hd hk, State.reg, s.accessed_regs, State.reg]
  rw [exec_registerWrite_by_code hrule hd hk, writeByCode_ctr hr]
  by_cases absent : absentBridge r die slot = true
  · have zero : s.view ⟨r, die, slot⟩ = 0 := by rw [view_stored hc hw hd hk, if_pos absent]
    refine ⟨_, rfl, ?_⟩
    rw [if_pos absent, view_accessed, zero, ite_self]
    exact ⟨rfl, ignored⟩
  · refine ⟨_, rfl, ?_⟩
    rw [if_neg absent, clearCounter_eq h₁ h₂, bitOf_mod (by decide)]
    split
    · exact setReg_write hwf hc hw (by simpa using absent) hd hk
    · exact ⟨view_accessed, ignored⟩

/-- A write to a queue's status word: 1 in bit 63 clears OVERRUN and the VALID bits of the lost-item words (R394, R400). -/
theorem status_register_write {s : State} {r : Reg} {t die slot v : Nat} (hd : die < regWindows r) (hk : slot < (regInfo r).slots)
    (hr : (regInfo r).access = .st) (hm : r ≠ .MDP_STATUS) (hlost : ∀ q ∈ queueOf r die slot, (s.queue q).lostFt ≠ some (s.advance t).ft) :
    ∃ s', exec (.registerWrite t (regAddr r die slot) 8 v) s = .next s' ∧
      (∀ q, s'.queue q = if bitOf v 63 ∧ q ∈ queueOf r die slot then (s.queue q).lossCleared else s.queue q) ∧
      { s' with queues := s.queues, resp := s.resp } = s.advance t := by
  refine ⟨_, by rw [exec_registerWrite_by_code (status_row _ hr hm) hd hk, writeByCode_st hr], fun q => ?_, ?_⟩
  · rw [queue_foldl_statusWrite _ (fun q hq => by rw [s.accessed_queue]; exact hlost q hq), bitOf_mod (by decide), s.accessed_queue]
  · have frame := foldl_statusWrite_frame (v % 2 ^ 64) (queueOf r die slot) (s.accessed t)
    rw [s.accessed_queues] at frame
    exact (congrArg (fun u : State => { u with resp := s.resp }) frame).trans (s.accessed_frame t)

/-- A write to MDP_STATUS: 1 in ERR and UNDERRUN clears them. -/
theorem mdpStatus_register_write (s : State) (t v : Nat) :
    exec (.registerWrite t (regAddr .MDP_STATUS 0 0) 8 v) s = .next { s.advance t with
      resp := .none, mgmt := { s.mgmt with err := s.mgmt.err && !bitOf v 1, underrun := s.mgmt.underrun && !bitOf v 2 } } := by
  rw [exec_registerWrite_regAddr Nat.one_pos Nat.one_pos]
  change Host.Outcome.next ((s.accessed t).writeMdpStatus (v % 2 ^ 64)) = _
  rw [State.writeMdpStatus, bitOf_mod (by decide), bitOf_mod (by decide), ← s.advance_mgmt t]
  rfl

/-- A write to a WO or W1S register is the row of the table that the register stands for. -/
theorem action_register_write (s : State) (t v : Nat) (hv : v < 2 ^ 64) : let u : State := { s with resp := .none }
    exec (.registerWrite t (regAddr .SEC_HCX_RESET 0 0) 8 v) s = exec (.secHcxReset t v) u ∧
    exec (.registerWrite t (regAddr .SEC_EXTEND_CTRL 0 0) 8 v) s = exec (.secExtendCtrlWrite t v) u ∧
    exec (.registerWrite t (regAddr .SEC_ATTEST_CTRL 0 0) 8 v) s = exec (.attestGo t v) u ∧
    exec (.registerWrite t (regAddr .SEC_IMAGE_CTRL 0 0) 8 v) s = exec (.imageStart t v) u ∧
    (∀ die < 8, exec (.registerWrite t (regAddr .ERR_FQ_RELEASE die 0) 8 v) s = exec (.errFqRelease t die v) u) ∧
    (∀ port < 16, exec (.registerWrite t (regAddr .PORT_ETH_DOORBELL (port / 2) (port % 2)) 8 v) s = exec (.portEthDoorbell t port v) u) ∧
    (∀ c < 16, exec (.registerWrite t (regAddr .LADD_REF_CTRL 0 c) 8 v) s = exec (.laddRefCtrlWrite t c v) u) := by
  have written {r : Reg} {die slot : Nat} (hd : die < regWindows r) (hk : slot < (regInfo r).slots) :
      exec (.registerWrite t (regAddr r die slot) 8 v) s = .next ((s.accessed t).writeReg ⟨r, die, slot⟩ v) := by
    rw [exec_registerWrite_regAddr hd hk, Nat.mod_eq_of_lt hv]
  intro u
  have now : u.advance t = s.accessed t := s.advance_answered t
  refine ⟨?_, ?_, ?_, ?_, fun die hd => ?_, fun port hp => ?_, fun c hc => ?_⟩
  · change _ = Host.Outcome.next ((u.advance t).writeHcxReset v)
    rw [written Nat.one_pos Nat.one_pos, now]; rfl
  · change _ = Host.Outcome.next ((u.advance t).writeExtend v)
    rw [written Nat.one_pos Nat.one_pos, now]; rfl
  · change _ = Host.Outcome.next ((u.advance t).writeAttest v)
    rw [written Nat.one_pos Nat.one_pos, now]; rfl
  · change _ = Host.Outcome.next ((u.advance t).writeImageCtrl v)
    rw [written Nat.one_pos Nat.one_pos, now]; rfl
  · change _ = execErrFqRelease t die v u
    rw [written hd Nat.one_pos, execErrFqRelease, now, if_neg (by omega)]; rfl
  · change _ = execPortEthDoorbell t port v u
    have hd : port / 2 < 8 := by omega
    rw [written (r := .PORT_ETH_DOORBELL) hd (show port % 2 < 2 by omega), execPortEthDoorbell, now, if_neg (by omega)]
    change Host.Outcome.next ((s.accessed t).ethDoorbell (port / 2 * 2 + port % 2) v) = _
    rw [Nat.div_add_mod']
  · change _ = execLaddRefCtrlWrite t c v u
    rw [written (show 0 < regWindows .LADD_REF_CTRL by decide) hc, execLaddRefCtrlWrite, now, if_neg (by omega)]; rfl

/-- Settles O6: an access reaches the register that its address names, and a register with no rule of its own is read and written by its
access code. -/
theorem registersReadAndWriteByTheirCode : Obligations.RegistersReadAndWriteByTheirCode := by
  refine ⟨⟨fun s t a size v => exec_register_misaligned s t v, fun s t a v => exec_register_unassigned s t v⟩,
    ⟨fun s r t die slot v => plain_register_write, fun s r t die slot v hd hk h => readOnly_register_write hd hk h s t v,
      fun s r t die slot v => counter_register_write, fun s r t die slot v => status_register_write, mdpStatus_register_write,
      action_register_write⟩, fun s r t die slot hd hk hh hf => ?_⟩
  rw [exec_registerRead_regAddr hd hk, readReg_plain hh hf]

end Sys2Proof.Machine

namespace Sys2Proof.Machine

/-! ## Fault records (R393, R454 to R458) -/

theorem foldl_eq_self {σ α : Type} {f : σ → α → σ} {s : σ} {l : List α} (h : ∀ x ∈ l, f s x = s) : l.foldl f s = s := by
  induction l with
  | nil => rfl
  | cons x l ih =>
    rw [List.foldl_cons, h x List.mem_cons_self]
    exact ih (fun y hy => h y (List.mem_cons_of_mem _ hy))

/-! ### The order of the records of one edge -/

section
variable {α : Type} (key : α → Nat)

theorem mem_insertBy {a x : α} {l : List α} : x ∈ insertBy key a l ↔ x = a ∨ x ∈ l := by
  induction l with
  | nil => simp [insertBy]
  | cons b l ih =>
    unfold insertBy
    split
    · exact List.mem_cons
    · simp only [List.mem_cons, ih, or_left_comm]

theorem mem_foldl_insertBy {x : α} {l acc : List α} :
    x ∈ l.foldl (fun acc a => insertBy key a acc) acc ↔ x ∈ l ∨ x ∈ acc := by
  induction l generalizing acc with
  | nil => simp
  | cons a l ih => simp only [List.foldl_cons, ih, mem_insertBy, List.mem_cons, or_assoc, or_left_comm]

theorem insertBy_least {a : α} {l : List α} (h : ∀ x ∈ l, key a < key x) : insertBy key a l = a :: l := by
  cases l with
  | nil => rfl
  | cons b l => exact if_pos (h b List.mem_cons_self)

/-- What comes later, and not before the first, is sorted behind it. -/
theorem foldl_insertBy_cons {a : α} {l acc : List α} (h : ∀ x ∈ l, key a ≤ key x) :
    l.foldl (fun acc a => insertBy key a acc) (a :: acc) = a :: l.foldl (fun acc a => insertBy key a acc) acc := by
  induction l generalizing acc with
  | nil => rfl
  | cons b l ih =>
    have behind : insertBy key b (a :: acc) = a :: insertBy key b acc := if_neg (Nat.not_lt.mpr (h b List.mem_cons_self))
    rw [List.foldl_cons, behind, ih (fun x hx => h x (List.mem_cons_of_mem _ hx)), List.foldl_cons]

/-- The least element, and the first of its key, is sorted to the front. -/
theorem sortBy_least {a : α} {before after : List α} (hb : ∀ x ∈ before, key a < key x) (ha : ∀ x ∈ after, key a ≤ key x) :
    sortBy key (before ++ a :: after) = a :: sortBy key (before ++ after) := by
  unfold sortBy
  rw [List.foldl_append, List.foldl_cons, insertBy_least key, foldl_insertBy_cons key ha, List.foldl_append]
  intro x hx
  exact hb x (by simpa using (mem_foldl_insertBy key).mp hx)

end

/-! ### The row FAULT_RECORD_ARRIVE -/

theorem edgeReleases_of_noRelease {s : State} {t : Nat} {q : QueueId} (h : s.noRelease t q) : s.edgeReleases t q = s := by
  unfold State.edgeReleases
  split
  · refine foldl_eq_self (fun c hc => ?_)
    split
    next t' q' p =>
      split
      next same =>
        simp only [Bool.and_eq_true, decide_eq_true_eq, beq_iff_eq] at same
        obtain ⟨rfl, rfl⟩ := same
        exact (h p hc).elim
      next => rfl
    next => rfl
  · rfl

theorem exec_faultRecordArrive {s : State} {t : Nat} (h : ∀ d, s.noRelease t (.faultQueue d)) (rs : List FaultIn) :
    exec (.faultRecordArrive t rs) s =
      .next ((sortBy (fun r => r.unit) (rs.filter (fun r => isStatus r.code))).foldl State.recordArrives (s.advance t)) := by
  have released : dies.foldl (fun s d => s.edgeReleases t (.faultQueue d)) (s.advance t) = s.advance t :=
    foldl_eq_self (fun d _ => edgeReleases_of_noRelease (fun p => by rw [s.advance_pending]; exact h d p))
  change execFaultRecordArrive t rs s = _
  rw [execFaultRecordArrive, released]

/-- A record moves neither the clocks nor the waiting commands. -/
theorem recordArrives_same (s : State) (r : FaultIn) : (s.recordArrives r).ft = s.ft ∧ (s.recordArrives r).pending = s.pending := by
  have same := recordArrives_kept s r
  exact ⟨congrArg Kept.ft same, congrArg Kept.pending same⟩

/-- Of the records of one edge the one of the least unit comes first (R393). -/
theorem faultRecord_least_first {s : State} {t : Nat} {r : FaultIn} {before after : List FaultIn} (hr : isStatus r.code = true)
    (hb : ∀ x ∈ before, r.unit < x.unit) (ha : ∀ x ∈ after, r.unit ≤ x.unit) (h : ∀ d, s.noRelease t (.faultQueue d)) :
    ∃ u, exec (.faultRecordArrive t [r]) s = .next u ∧
      exec (.faultRecordArrive t (before ++ r :: after)) s = exec (.faultRecordArrive t (before ++ after)) u := by
  refine ⟨(s.advance t).recordArrives r, ?_, ?_⟩
  · rw [exec_faultRecordArrive h, List.filter_singleton, hr]
    rfl
  · obtain ⟨hft, hpending⟩ := recordArrives_same (s.advance t) r
    have still : ((s.advance t).recordArrives r).advance t = (s.advance t).recordArrives r :=
      if_pos (by rw [hft]; exact s.le_advance_ft t)
    have quiet (d : Nat) : ((s.advance t).recordArrives r).noRelease t (.faultQueue d) := fun p => by
      rw [hpending, s.advance_pending]
      exact h d p
    rw [exec_faultRecordArrive h, exec_faultRecordArrive quiet, still, List.filter_append, List.filter_cons_of_pos (by exact hr),
      sortBy_least (fun r : FaultIn => r.unit) (fun x hx => hb x (List.mem_filter.mp hx).1) (fun x hx => ha x (List.mem_filter.mp hx).1),
      ← List.filter_append]
    rfl

/-- A record of a reserved code is never made (R12, R369). -/
theorem faultRecord_reserved {s : State} {t : Nat} {r : FaultIn} (hr : isStatus r.code = false) (h : ∀ d, s.noRelease t (.faultQueue d)) :
    exec (.faultRecordArrive t [r]) s = .next (s.advance t) := by
  rw [exec_faultRecordArrive h, List.filter_singleton, hr]
  rfl

end Sys2Proof.Machine

namespace Sys2Proof.Machine

/-! ### A record is stored or lost -/

theorem faultDie_lt (u : Nat) : faultDie u < 8 := by
  unfold faultDie unitDie
  split <;> omega

/-- The registers of a die's fault collector have homes of their own. -/
theorem collector_home_ne {c c' : Reg} (h : c ≠ c') {d : Nat} (hd : d < 8) (hc : regWindows c = 8) (hc' : regWindows c' = 8) :
    regHome c d 0 ≠ regHome c' d 0 := by
  have slot : ∀ x : Reg, 0 < (regInfo x).slots := forall_reg (by decide +kernel)
  exact regHome_ne (hc ▸ hd) (slot c) (hc' ▸ hd) (slot c') h

theorem countUp_one {old : Nat} (h : old + 1 < countMax) : countUp old 1 = old + 1 := by
  unfold countUp countMax at *
  simp only
  rw [Nat.mod_eq_of_lt (by omega), Nat.min_eq_left (by omega), if_neg (by omega)]

/-- A counter that does not reach its largest value counts one event and does nothing else (R461). -/
theorem happen_bump_one {s : State} {c : Reg} {d : Nat} (h : s.reg c d 0 + 1 < countMax) (k : Nat) :
    s.happen (k + 1) (.bump c d 0 1) = s.setReg c d 0 (s.reg c d 0 + 1) := by
  have low : bitOf (s.reg c d 0 + 1) 63 = false := Nat.testBit_lt_two_pow (by unfold countMax at h; omega)
  simp [State.happen, countUp_one h, low]

/-- An interrupt goes out, and nothing else changes. -/
theorem notify_eq (s : State) (die : Nat) : ∃ i, s.notify die = { s with interrupts := i } := by
  unfold State.notify
  dsimp only
  split
  · exact ⟨_, rfl⟩
  · exact ⟨_, rfl⟩

/-- ERR_INJECT disarmed injects nothing. -/
theorem inject_disarmed {s : State} {die : Nat} (h : s.reg .ERR_INJECT die 0 = 0) (target index : Nat) :
    s.inject die target index = (0, s) := by
  simp [State.inject, h, bitOf]

/-- A record takes its SEQ and is counted. -/
def State.raised (s : State) (d : Nat) : State :=
  (s.setReg .ERR_FQ_NEXT_SEQ d 0 ((s.reg .ERR_FQ_NEXT_SEQ d 0 + 1) % 65536)).setReg .ERR_RAISED d 0 (s.reg .ERR_RAISED d 0 + 1)

/-- The entry that stores a record (R454). -/
def State.recordEntry (s : State) (d : Nat) (f : FaultIn) : QEntry :=
  { bytes := faultBytes ⟨s.dieFt d, f.code, f.unit, f.ctx, f.severity, s.reg .ERR_FQ_NEXT_SEQ d 0, f.address, f.detail⟩
    valid := 2 ^ 32 - 1, last := true }

section
variable {s : State} {d : Nat} (hd : d < 8) (hwf : Sparse.wf 0#64 s.regs = true)
include hd hwf

theorem raised_reg_other {c : Reg} (hc : regWindows c = 8) (hseq : c ≠ .ERR_FQ_NEXT_SEQ) (hraised : c ≠ .ERR_RAISED) :
    (s.raised d).reg c d 0 = s.reg c d 0 := by
  rw [State.raised, State.reg_setReg_ne (State.setReg_regs_wf hwf ..) _ (collector_home_ne hraised hd hc rfl),
    State.reg_setReg_ne hwf _ (collector_home_ne hseq hd hc rfl)]

theorem raised_reg_seq : (s.raised d).reg .ERR_FQ_NEXT_SEQ d 0 = (s.reg .ERR_FQ_NEXT_SEQ d 0 + 1) % 65536 := by
  rw [State.raised, State.reg_setReg_ne (State.setReg_regs_wf hwf ..) _ (collector_home_ne (by decide) hd rfl rfl),
    State.reg_setReg_same hwf, Nat.mod_eq_of_lt (by omega)]

variable (hraised : s.reg .ERR_RAISED d 0 + 1 < countMax)
include hraised

omit hd in
theorem raised_reg_raised : (s.raised d).reg .ERR_RAISED d 0 = s.reg .ERR_RAISED d 0 + 1 := by
  rw [State.raised, State.reg_setReg_same (State.setReg_regs_wf hwf ..), Nat.mod_eq_of_lt (by unfold countMax at hraised; omega)]

theorem raised_bump (k : Nat) : (s.setReg .ERR_FQ_NEXT_SEQ d 0 ((s.reg .ERR_FQ_NEXT_SEQ d 0 + 1) % 65536)).happen (k + 1)
    (.bump .ERR_RAISED d 0 1) = s.raised d := by
  have same (v : Nat) : (s.setReg .ERR_FQ_NEXT_SEQ d 0 v).reg .ERR_RAISED d 0 = s.reg .ERR_RAISED d 0 :=
    State.reg_setReg_ne hwf _ (collector_home_ne (by decide) hd rfl rfl)
  rw [happen_bump_one (by rw [same]; exact hraised), same, State.raised]

/-- A record that finds room is stored behind the others (R456). -/
theorem happen_record_stored (hinject : s.reg .ERR_INJECT d 0 = 0) (hroom : (s.queue (.faultQueue d)).entries.length < 256) (f : FaultIn)
    (k : Nat) : ∃ i, s.happen (k + 2) (.record d f) = ({ s.raised d with interrupts := i } : State).setQueue (.faultQueue d) (qPush true
      (s.recordEntry d f)) := by
  have disarmed : (s.raised d).inject d 3 0 = (0, s.raised d) :=
    inject_disarmed (by rw [raised_reg_other hd hwf rfl (by decide) (by decide), hinject]) 3 0
  have queue : (s.raised d).queue (.faultQueue d) = s.queue (.faultQueue d) := rfl
  rw [State.happen]
  simp only [raised_bump hd hwf hraised, queue, if_pos hroom, disarmed]
  obtain ⟨i, e⟩ := notify_eq (s.raised d) d
  split
  · exact ⟨i, by rw [e]; rfl⟩
  · exact ⟨(s.raised d).interrupts, rfl⟩

/-- A record that finds none is lost, and recorded as lost (R456, R458). -/
theorem happen_record_lost (hlost : s.reg .ERR_FQ_LOST d 0 + 1 < countMax) (hfull : ¬(s.queue (.faultQueue d)).entries.length < 256)
    (f : FaultIn) (k : Nat) : ∃ i, s.happen (k + 2) (.record d f) =
      (({ s.raised d with interrupts := i } : State).setQueue (.faultQueue d) (qLose s.ft (lostWord f.code f.unit f.ctx))).setReg
        .ERR_FQ_LOST d 0 (s.reg .ERR_FQ_LOST d 0 + 1) := by
  have queue : (s.raised d).queue (.faultQueue d) = s.queue (.faultQueue d) := rfl
  have counted (i : List (Nat × Nat)) : (({ s.raised d with interrupts := i } : State).setQueue (.faultQueue d)
      (qLose s.ft (lostWord f.code f.unit f.ctx))).reg .ERR_FQ_LOST d 0 = s.reg .ERR_FQ_LOST d 0 :=
    raised_reg_other hd hwf rfl (by decide) (by decide)
  rw [State.happen]
  simp only [raised_bump hd hwf hraised, queue, if_neg hfull]
  obtain ⟨i, e⟩ := notify_eq (s.raised d) d
  split
  · refine ⟨(s.raised d).interrupts, ?_⟩
    rw [← counted (s.raised d).interrupts]
    exact happen_bump_one (by rw [← counted (s.raised d).interrupts] at hlost; exact hlost) k
  · refine ⟨i, ?_⟩
    rw [e, ← counted i]
    exact happen_bump_one (by rw [← counted i] at hlost; exact hlost) k

end

end Sys2Proof.Machine

namespace Sys2Proof.Machine

/-- A record that no context answers for goes to the fault queue of its unit's die. -/
theorem exec_faultRecordArrive_queue {s : State} {t : Nat} {r : FaultIn} (hr : isStatus r.code = true)
    (hctx : ¬(r.severity = 2 ∧ (s.ctx r.ctx).created = true)) (h : ∀ d, s.noRelease t (.faultQueue d)) :
    exec (.faultRecordArrive t [r]) s = .next ((s.advance t).happen 8 (.record (faultDie r.unit) r)) := by
  have free : ¬(r.severity = 2 && ((s.advance t).ctx r.ctx).created) = true := by
    rw [s.advance_ctx]
    simpa using hctx
  rw [exec_faultRecordArrive h, List.filter_singleton, hr]
  change Host.Outcome.next ((s.advance t).recordArrives r) = _
  rw [State.recordArrives, if_neg free]

/-- What a record leaves in the fault collector of die `d`: its SEQ taken and counted, and the record stored or lost. -/
theorem record_stored_or_lost {s : State} {d : Nat} {r : FaultIn} (hd : d < 8) (hwf : Sparse.wf 0#64 s.regs = true)
    (hcount : ∀ c ∈ [Reg.ERR_RAISED, Reg.ERR_FQ_LOST], s.reg c d 0 + 1 < countMax) (hinject : s.reg .ERR_INJECT d 0 = 0) :
    let s' := s.happen 8 (.record d r)
    let old := s.queue (.faultQueue d)
    let new := s'.queue (.faultQueue d)
    let seq := s.reg .ERR_FQ_NEXT_SEQ d 0
    s'.reg .ERR_FQ_NEXT_SEQ d 0 = (seq + 1) % 65536 ∧ s'.reg .ERR_RAISED d 0 = s.reg .ERR_RAISED d 0 + 1 ∧
    if old.entries.length < 256 then
      new.entries = old.entries ++ [{
        bytes := leBytes 8 (s'.dieFt d) ++ leBytes 2 r.code ++ leBytes 2 r.unit ++ leBytes 1 r.ctx ++ leBytes 1 r.severity ++
          leBytes 2 seq ++ leBytes 8 r.address ++ leBytes 8 r.detail
        valid := 2 ^ 32 - 1, last := true }] ∧ new.overrun = old.overrun
    else
      new.entries = old.entries ∧ new.overrun = true ∧ new.lastLost = 2 ^ 63 + 2 ^ 32 * r.ctx + 2 ^ 16 * r.unit + r.code ∧
      new.firstLost = (if bitOf old.firstLost 63 then old.firstLost else new.lastLost) ∧
      s'.reg .ERR_FQ_LOST d 0 = s.reg .ERR_FQ_LOST d 0 + 1 := by
  have hraised := hcount .ERR_RAISED (by simp)
  have hlost := hcount .ERR_FQ_LOST (by simp)
  have taken := raised_reg_seq hd hwf
  have raised := raised_reg_raised hwf hraised
  intro s' old new seq
  by_cases room : old.entries.length < 256
  · obtain ⟨i, e⟩ := happen_record_stored hd hwf hraised hinject room r 6
    have queue : new = qPush true (s.recordEntry d r) old := by
      change s'.queue _ = _
      rw [show s' = _ from e, State.queue_setQueue, if_pos rfl]
      rfl
    rw [if_pos room, queue, show s' = _ from e]
    exact ⟨taken, raised, rfl, rfl⟩
  · obtain ⟨i, e⟩ := happen_record_lost hd hwf hraised hlost room r 6
    have queue : new = qLose s.ft (lostWord r.code r.unit r.ctx) old := by
      change s'.queue _ = _
      rw [show s' = _ from e, State.setReg_queue, State.queue_setQueue, if_pos rfl]
      rfl
    have hwf' : Sparse.wf 0#64 (({ s.raised d with interrupts := i } : State).setQueue (.faultQueue d)
        (qLose s.ft (lostWord r.code r.unit r.ctx))).regs = true := State.setReg_regs_wf (State.setReg_regs_wf hwf ..) ..
    have other {c : Reg} (hc : c ≠ .ERR_FQ_LOST) (hw : regWindows c = 8) : s'.reg c d 0 = (s.raised d).reg c d 0 := by
      rw [show s' = _ from e]
      exact State.reg_setReg_ne hwf' _ (collector_home_ne hc hd hw rfl)
    have count : s'.reg .ERR_FQ_LOST d 0 = s.reg .ERR_FQ_LOST d 0 + 1 := by
      rw [show s' = _ from e, State.reg_setReg_same hwf', Nat.mod_eq_of_lt (by unfold countMax at hlost; omega)]
    rw [if_neg room, queue, other (by decide) rfl, other (by decide) rfl, count]
    exact ⟨taken, raised, rfl, rfl, rfl, rfl, rfl⟩

/-- Settles O8: a record is stored or lost by the room in its queue, the least unit of an edge goes first, and a reserved code
makes none. -/
theorem faultRecordIsStoredOrLost : Obligations.FaultRecordIsStoredOrLost := by
  refine ⟨fun s t r hwf hr hctx h hcount hinject => ⟨_, exec_faultRecordArrive_queue hr hctx h, ?_, ?_⟩,
    fun s t r before after hr hb ha h => faultRecord_least_first hr hb ha h, fun s t r hr h => faultRecord_reserved hr h⟩
  · rw [happen_mem, s.advance_mem]
  · have filed := record_stored_or_lost (s := s.advance t) (r := r) (faultDie_lt r.unit) (by rwa [s.advance_regs])
      (fun c hc => by rw [s.advance_reg]; exact hcount c hc) (by rw [s.advance_reg, hinject])
    simp only [s.advance_reg, s.advance_queue] at filed
    exact filed

end Sys2Proof.Machine
